-- ==== Sys2Proof/Word.lean ====
section
/-! DEFINITION. The widths the manual names, and nothing else. -/

namespace Sys2Proof

/-- A byte of memory. -/
abbrev Byte := BitVec 8

/-- A 32-bit lane value or instruction word (R58, R204). -/
abbrev Word32 := BitVec 32

/-- A 64-bit register, mask or form base (R11, R58). -/
abbrev Word64 := BitVec 64

end Sys2Proof
end

