-- ==== Sys2Proof/Machine/Bits.lean ====
section
/-! DEFINITION. Bit fields, sign extension, byte order, lanes, and lists and vectors by index: the plain arithmetic that
the meanings share. -/

namespace Sys2Proof.Machine

/-- Bits [lo + n − 1 : lo] of a number (R5). -/
def bitsOf (x lo n : Nat) : Nat := x / 2 ^ lo % 2 ^ n

/-- Bit `i` of a number. -/
def bitAt (x i : Nat) : Bool := x / 2 ^ i % 2 == 1

/-- 1 for true, 0 for false. -/
def bitNat (b : Bool) : Nat := if b then 1 else 0

/-- The signed reading of the low `n` bits of a number. -/
def signedOf (n x : Nat) : Int :=
  if x % 2 ^ n < 2 ^ (n - 1) then Int.ofNat (x % 2 ^ n) else Int.ofNat (x % 2 ^ n) - Int.ofNat (2 ^ n)

/-- An integer modulo 2^n. -/
def wrapInt (n : Nat) (x : Int) : Nat := (x % (Int.ofNat (2 ^ n))).toNat

/-- An integer in the signed range of `n` bits. -/
def fitsSigned (n : Nat) (x : Int) : Bool := -(Int.ofNat (2 ^ (n - 1))) ≤ x && x < Int.ofNat (2 ^ (n - 1))

/-- The larger of two numbers. -/
def later (a b : Nat) : Nat := if a < b then b else a

/-- The smaller of two numbers. -/
def earlier (a b : Nat) : Nat := if a < b then a else b

/-- log₂ rounded down, with 0 at 0; `fuel` bounds the number of halvings. -/
def log2Fuel : Nat → Nat → Nat
  | 0, _ => 0
  | fuel + 1, x => if x < 2 then 0 else 1 + log2Fuel fuel (x / 2)

/-- The number of bits of a number: 0 at 0, else one more than its logarithm. -/
def bitLen (x : Nat) : Nat := if x = 0 then 0 else Nat.log2 x + 1

/-- The little-endian bytes of a number, `n` of them (R5). -/
def bytesLE : Nat → Nat → List Byte
  | 0, _ => []
  | n + 1, x => BitVec.ofNat 8 x :: bytesLE n (x / 256)

/-- The number that little-endian bytes hold (R5). -/
def ofBytesLE : List Byte → Nat
  | [] => 0
  | b :: bs => b.toNat + 256 * ofBytesLE bs

/-- Exclusive or of two numbers. -/
def natXor (a b : Nat) : Nat := a ^^^ b

/-! ## Lanes -/

/-- The 64 lane numbers, ascending. -/
def lanes64 : List Nat := List.range 64

/-- The lanes of a mask, ascending (R60). -/
def lanesOf (m : Word64) : List Nat := lanes64.filter fun l => m.getLsbD l

/-- The lowest lane of a mask. -/
def lowestLane (m : Word64) : Option Nat := (lanesOf m).head?

/-- The mask of the lanes that satisfy a test. -/
def maskWhere (p : Nat → Bool) : Word64 :=
  BitVec.ofNat 64 (lanes64.foldr (fun l acc => (bitNat (p l)) + 2 * acc) 0)

/-- The number of lanes of a mask. -/
def countLanes (m : Word64) : Nat := (lanesOf m).length

/-- The number of 1 bits among the low `n` bits of a number. -/
def popNat : Nat → Nat → Nat
  | 0, _ => 0
  | n + 1, x => x % 2 + popNat n (x / 2)

/-! ## Lists and vectors by index -/

/-- The element at an index of a vector, or a value past its end. -/
def vget {α : Type} {n : Nat} (v : Vector α n) (i : Nat) (d : α) : α := v.getD i d

/-- A vector with the element at an index replaced; past its end, unchanged. -/
def vset {α : Type} {n : Nat} (v : Vector α n) (i : Nat) (x : α) : Vector α n := v.setIfInBounds i x

/-- The lanes where `p` holds take a new value; the others keep theirs. -/
def vmask {α : Type} (v : Vector α 64) (p : Word64) (f : Nat → α) : Vector α 64 :=
  Vector.ofFn fun l => if p.getLsbD l.val then f l.val else v[l]

/-- The first element that satisfies a test takes a new value. -/
def updateFirst {α : Type} (p : α → Bool) (f : α → α) : List α → List α
  | [] => []
  | x :: xs => if p x then f x :: xs else x :: updateFirst p f xs

/-- Every element that satisfies a test takes a new value. -/
def updateAll {α : Type} (p : α → Bool) (f : α → α) (l : List α) : List α := l.map fun x => if p x then f x else x

/-- A list without its first element that satisfies a test. -/
def eraseFirst {α : Type} (p : α → Bool) : List α → List α
  | [] => []
  | x :: xs => if p x then xs else x :: eraseFirst p xs

/-- A list without the element at an index. -/
def eraseAt {α : Type} : List α → Nat → List α
  | [], _ => []
  | _ :: xs, 0 => xs
  | x :: xs, n + 1 => x :: eraseAt xs n

/-- The element that is least under a key, the first among equals. -/
def leastBy {α : Type} (key : α → Nat) : List α → Option α
  | [] => none
  | x :: xs =>
    match leastBy key xs with
    | none => some x
    | some y => if key x ≤ key y then some x else some y

/-- Insertion into a list kept in ascending order of a key, behind equals. -/
def insertBy {α : Type} (key : α → Nat) (x : α) : List α → List α
  | [] => [x]
  | y :: ys => if key x < key y then x :: y :: ys else y :: insertBy key x ys

/-- A list in ascending order of a key; equal keys keep their order. -/
def sortBy {α : Type} (key : α → Nat) (l : List α) : List α := l.foldl (fun acc x => insertBy key x acc) []

/-- The value of a key in a list of pairs. -/
def lookupNat {α : Type} (k : Nat) : List (Nat × α) → Option α
  | [] => none
  | (j, x) :: rest => if j = k then some x else lookupNat k rest

/-- A list of pairs with the value of a key set. -/
def setNat {α : Type} (k : Nat) (x : α) : List (Nat × α) → List (Nat × α)
  | [] => [(k, x)]
  | (j, y) :: rest => if j = k then (k, x) :: rest else (j, y) :: setNat k x rest

end Sys2Proof.Machine
end

