-- ==== Sys2Proof/Syntax.lean ====
section
/-! DEFINITION. The one inductive of the instruction set, one constructor per row of spec/opcode_table.json.

The first 159 constructors are the 32-bit words of file 09, with the fields of formats T, I, M, B, K and X (R210)
at their own widths; the chain bit C (R205) stands outside the instruction. The other 63 are the steps of the
machine's other agents (file 95): they have no encoding, and their arguments name the object they act on or carry
the data the outside world supplies. -/

namespace Sys2Proof

/-- One step of the device, as the table lists them. Operand codes are those of R211. -/
inductive Instr where
  /-- NOP (R257): Does nothing and asks for no pipe. -/
  | nop
  /-- RET (R234): Pops the top entry of the return stack into the PC. -/
  | ret
  /-- MATL (R237): Materialises a tract into stands with no other effect; does nothing in a stand. -/
  | matl
  /-- RJOIN (R31): Converts a single-path stand with affine live registers back into a tract piece and waits to merge with neighbours. -/
  | rjoin (a : BitVec 7) (b : BitVec 7)
  /-- JOIN (R27): Waits at a join point until every descendant path has arrived or exited, then merges them. -/
  | join
  /-- YIELD (R238): Holds the context back until every other ready context has issued once or 64 clocks pass. -/
  | yield
  /-- EXIT (R35): Retires the executing items; in a handler it aborts the task. -/
  | exit
  /-- HRET (R255): Ends the handler and resumes the trapped context at its resume point with traps unmasked. -/
  | hret
  /-- TIME (R247): Writes the context's canopy time as a uniform value. -/
  | time (d : BitVec 7)
  /-- LANEID (R246): Writes each active lane's number into the destination. -/
  | laneid (d : BitVec 7)
  /-- IDX (R245): Writes the affine form of one item-index dimension. -/
  | idx (d : BitVec 7) (b : BitVec 7)
  /-- LOCQ (R248): Translates a uniform address and returns its home die, slice and page attributes. -/
  | locq (d : BitVec 7) (a : BitVec 7)
  /-- TRAP (R254): Raises trap 0x28 with the given number. -/
  | trap (b : BitVec 7)
  /-- LAUNCH (R252): Waits as FENCE, reads a launch record and appends it to a hardware queue, returning a code. -/
  | launch (d : BitVec 7) (a : BitVec 7) (b : BitVec 7)
  /-- XSET (R251): Writes one field of the crossbar register XC. -/
  | xset (d : BitVec 7) (b : BitVec 7)
  /-- BRA (R231): Branches unconditionally to PC + displacement. -/
  | bra (disp : BitVec 16)
  /-- CALL (R234): Pushes PC + 1 onto the return stack and branches. -/
  | call (disp : BitVec 16)
  /-- LOOP (R231): Decrements a uniform counter and branches while it is non-zero. -/
  | loop (reg : BitVec 5) (disp : BitVec 16)
  /-- BRC (R15): Branches on an a-register compared with zero, moving, splitting or materialising a tract, or diverging a stand. -/
  | brc (cond : BitVec 4) (reg : BitVec 5) (disp : BitVec 16)
  /-- BRV (R26): Branches per lane on a predicate register, diverging paths where lanes disagree. -/
  | brv (sense : BitVec 1) (preg : BitVec 3) (disp : BitVec 16)
  /-- BRX (R233): Branches to an absolute per-lane target, grouping lanes by target. -/
  | brx (a : BitVec 7)
  /-- AADD (R240): Adds two affine forms. -/
  | aadd (d : BitVec 7) (a : BitVec 7) (b : BitVec 7)
  /-- ASUB (R240): Subtracts two affine forms. -/
  | asub (d : BitVec 7) (a : BitVec 7) (b : BitVec 7)
  /-- AMUL (R240): Multiplies a form by a uniform value. -/
  | amul (d : BitVec 7) (a : BitVec 7) (b : BitVec 7)
  /-- ASHL (R240): Shifts a form left by a uniform amount. -/
  | ashl (d : BitVec 7) (a : BitVec 7) (b : BitVec 7)
  /-- ASHR (R240): Shifts a uniform value right arithmetically. -/
  | ashr (d : BitVec 7) (a : BitVec 7) (b : BitVec 7)
  /-- AAND (R240): Bitwise AND of uniform a-register values. -/
  | aand (d : BitVec 7) (a : BitVec 7) (b : BitVec 7)
  /-- AOR (R240): Bitwise OR of uniform a-register values. -/
  | aor (d : BitVec 7) (a : BitVec 7) (b : BitVec 7)
  /-- AXOR (R240): Bitwise XOR of uniform a-register values. -/
  | axor (d : BitVec 7) (a : BitVec 7) (b : BitVec 7)
  /-- AMIN (R240): Signed minimum of uniform values. -/
  | amin (d : BitVec 7) (a : BitVec 7) (b : BitVec 7)
  /-- AMAX (R240): Signed maximum of uniform values. -/
  | amax (d : BitVec 7) (a : BitVec 7) (b : BitVec 7)
  /-- ACMP_EQ (R240): Writes 1 if two uniform values are equal, else 0. -/
  | acmpEq (d : BitVec 7) (a : BitVec 7) (b : BitVec 7)
  /-- ACMP_NE (R240): Writes 1 if two uniform values differ, else 0. -/
  | acmpNe (d : BitVec 7) (a : BitVec 7) (b : BitVec 7)
  /-- ACMP_LT (R240): Signed less-than compare of uniform values. -/
  | acmpLt (d : BitVec 7) (a : BitVec 7) (b : BitVec 7)
  /-- ACMP_LE (R240): Signed less-or-equal compare of uniform values. -/
  | acmpLe (d : BitVec 7) (a : BitVec 7) (b : BitVec 7)
  /-- ACMP_LTU (R240): Unsigned less-than compare of uniform values. -/
  | acmpLtu (d : BitVec 7) (a : BitVec 7) (b : BitVec 7)
  /-- ACMP_LEU (R240): Unsigned less-or-equal compare of uniform values. -/
  | acmpLeu (d : BitVec 7) (a : BitVec 7) (b : BitVec 7)
  /-- AADDI (R240): Adds an immediate to a form; with immediate 0 it is the move AMOV. -/
  | aaddi (d : BitVec 7) (a : BitVec 7) (imm : BitVec 11)
  /-- AMULI (R240): Multiplies a form by an immediate. -/
  | amuli (d : BitVec 7) (a : BitVec 7) (imm : BitVec 11)
  /-- ASHLI (R240): Shifts a form left by an immediate. -/
  | ashli (d : BitVec 7) (a : BitVec 7) (imm : BitVec 11)
  /-- ASHRI (R240): Shifts a uniform value right by an immediate. -/
  | ashri (d : BitVec 7) (a : BitVec 7) (imm : BitVec 11)
  /-- AMOVI (R240): Writes an immediate as a uniform form. -/
  | amovi (d : BitVec 7) (imm : BitVec 11)
  /-- AANDI (R240): Bitwise AND of a uniform value with an immediate. -/
  | aandi (d : BitVec 7) (a : BitVec 7) (imm : BitVec 11)
  /-- ALD (R242): Loads one global value into an a-register. -/
  | ald (data : BitVec 7) (base : BitVec 5) (disp6 : BitVec 6)
  /-- PAND (R244): ANDs two predicate registers in the lanes of p0. -/
  | pand (pd : BitVec 3) (pa : BitVec 3) (pb : BitVec 3)
  /-- POR (R244): ORs two predicate registers in the lanes of p0. -/
  | por (pd : BitVec 3) (pa : BitVec 3) (pb : BitVec 3)
  /-- PXOR (R244): XORs two predicate registers in the lanes of p0. -/
  | pxor (pd : BitVec 3) (pa : BitVec 3) (pb : BitVec 3)
  /-- PNOT (R244): Inverts a predicate register in the lanes of p0. -/
  | pnot (pd : BitVec 3) (pa : BitVec 3)
  /-- PCNT (R244): Counts the lanes set in a predicate within p0. -/
  | pcnt (d : BitVec 7) (pa : BitVec 3)
  /-- PFIRST_A (R244): Writes the lowest set lane of a predicate within p0 to an a-register. -/
  | pfirstA (d : BitVec 7) (pa : BitVec 3)
  /-- PFIRST_P (R244): Sets only the lowest set lane of a predicate within p0 in a p register. -/
  | pfirstP (pd : BitVec 3) (pa : BitVec 3)
  /-- BALLOT (R244): Forms the mask of active lanes whose vector value is non-zero. -/
  | ballot (d : BitVec 7) (a : BitVec 7)
  /-- GETS (R249): Reads a special register as a uniform value. -/
  | gets (d : BitVec 7) (b : BitVec 7)
  /-- SETS (R250): Writes a uniform value to a special register after ordered checks. -/
  | sets (a : BitVec 7) (b : BitVec 7)
  /-- LREAD (R256): Reads one lane of a v register into an a-register at supervisor level. -/
  | lread (d : BitVec 7) (a : BitVec 7) (b : BitVec 7)
  /-- LWRITE (R256): Writes one lane of a v register at supervisor level. -/
  | lwrite (d : BitVec 7) (a : BitVec 7) (b : BitVec 7)
  /-- IADD (R264): Integer add per element. -/
  | iadd (d : BitVec 7) (a : BitVec 7) (b : BitVec 7) (f : BitVec 4)
  /-- ISUB (R264): Integer subtract per element. -/
  | isub (d : BitVec 7) (a : BitVec 7) (b : BitVec 7) (f : BitVec 4)
  /-- IMUL (R264): Integer multiply, low half, per element. -/
  | imul (d : BitVec 7) (a : BitVec 7) (b : BitVec 7) (f : BitVec 4)
  /-- IMULH (R264): Integer multiply, high half, per element. -/
  | imulh (d : BitVec 7) (a : BitVec 7) (b : BitVec 7) (f3 : BitVec 3)
  /-- IMAD (R264): Integer multiply-add per element. -/
  | imad (d : BitVec 7) (a : BitVec 7) (b : BitVec 7) (f : BitVec 4)
  /-- IMIN (R264): Integer minimum per element. -/
  | imin (d : BitVec 7) (a : BitVec 7) (b : BitVec 7) (f3 : BitVec 3)
  /-- IMAX (R264): Integer maximum per element. -/
  | imax (d : BitVec 7) (a : BitVec 7) (b : BitVec 7) (f3 : BitVec 3)
  /-- IABS (R264): Integer absolute value per element. -/
  | iabs (d : BitVec 7) (a : BitVec 7) (f : BitVec 4)
  /-- ICMP (R265): Integer compare writing a predicate per lane. -/
  | icmp (d : BitVec 7) (a : BitVec 7) (b : BitVec 7) (f3 : BitVec 3)
  /-- SEL (R266): Selects per lane between two sources by a predicate. -/
  | sel (d : BitVec 7) (a : BitVec 7) (b : BitVec 7) (f3 : BitVec 3)
  /-- AND (R267): Bitwise AND per lane. -/
  | and (d : BitVec 7) (a : BitVec 7) (b : BitVec 7)
  /-- OR (R267): Bitwise OR per lane. -/
  | or (d : BitVec 7) (a : BitVec 7) (b : BitVec 7)
  /-- XOR (R267): Bitwise XOR per lane. -/
  | xor (d : BitVec 7) (a : BitVec 7) (b : BitVec 7)
  /-- ANDN (R267): Bitwise AND with the complement of B per lane. -/
  | andn (d : BitVec 7) (a : BitVec 7) (b : BitVec 7)
  /-- SHL (R267): Logical shift left per lane. -/
  | shl (d : BitVec 7) (a : BitVec 7) (b : BitVec 7)
  /-- SHR (R267): Logical shift right per lane. -/
  | shr (d : BitVec 7) (a : BitVec 7) (b : BitVec 7)
  /-- SAR (R267): Arithmetic shift right per lane. -/
  | sar (d : BitVec 7) (a : BitVec 7) (b : BitVec 7)
  /-- ROTL (R267): Rotate left per lane. -/
  | rotl (d : BitVec 7) (a : BitVec 7) (b : BitVec 7)
  /-- POPC (R267): Counts the 1 bits of each lane. -/
  | popc (d : BitVec 7) (a : BitVec 7)
  /-- CLZ (R267): Counts the leading zeros of each lane. -/
  | clz (d : BitVec 7) (a : BitVec 7)
  /-- BREV (R267): Reverses the bits of each lane. -/
  | brev (d : BitVec 7) (a : BitVec 7)
  /-- BLUT (R269): Looks each byte up in two nibble tables and ANDs the results. -/
  | blut (d : BitVec 7) (a : BitVec 7) (b : BitVec 7)
  /-- BSHUF (R270): Shuffles the bytes of each lane by selector bytes. -/
  | bshuf (d : BitVec 7) (a : BitVec 7) (b : BitVec 7)
  /-- BCMP_EQ (R270): Byte-wise equality compare giving 0xFF or 0x00. -/
  | bcmpEq (d : BitVec 7) (a : BitVec 7) (b : BitVec 7)
  /-- BCMP_LT (R270): Byte-wise signed less-than compare. -/
  | bcmpLt (d : BitVec 7) (a : BitVec 7) (b : BitVec 7)
  /-- BCMP_LTU (R270): Byte-wise unsigned less-than compare. -/
  | bcmpLtu (d : BitVec 7) (a : BitVec 7) (b : BitVec 7)
  /-- BADDS_I8 (R270): Byte-wise signed saturating add. -/
  | baddsI8 (d : BitVec 7) (a : BitVec 7) (b : BitVec 7)
  /-- BADDS_N8 (R270): Adds a signed byte to an unsigned byte with saturation. -/
  | baddsN8 (d : BitVec 7) (a : BitVec 7) (b : BitVec 7)
  /-- LSHC (R271): Shifts lanes up by n, carrying in the top lanes of the previous block. -/
  | lshc (d : BitVec 7) (a : BitVec 7) (b : BitVec 7) (f : BitVec 4)
  /-- XPERM (R271): Permutes lanes by per-lane indices. -/
  | xperm (d : BitVec 7) (a : BitVec 7) (b : BitVec 7)
  /-- VSCAN (R273): Writes the inclusive prefix combination of the active lanes. -/
  | vscan (d : BitVec 7) (a : BitVec 7) (f : BitVec 4)
  /-- VRED (R273): Combines the active lanes by the fixed tree and writes the result to every active lane. -/
  | vred (d : BitVec 7) (a : BitVec 7) (f : BitVec 4)
  /-- FADD (R276): Floating-point add rounded once. -/
  | fadd (d : BitVec 7) (a : BitVec 7) (b : BitVec 7) (f : BitVec 4)
  /-- FSUB (R276): Floating-point subtract rounded once. -/
  | fsub (d : BitVec 7) (a : BitVec 7) (b : BitVec 7) (f : BitVec 4)
  /-- FMUL (R276): Floating-point multiply rounded once. -/
  | fmul (d : BitVec 7) (a : BitVec 7) (b : BitVec 7) (f : BitVec 4)
  /-- FMA (R276): Fused multiply-add rounded once. -/
  | fma (d : BitVec 7) (a : BitVec 7) (b : BitVec 7) (f : BitVec 4)
  /-- FMIN (R277): Floating-point minimum. -/
  | fmin (d : BitVec 7) (a : BitVec 7) (b : BitVec 7)
  /-- FMAX (R277): Floating-point maximum. -/
  | fmax (d : BitVec 7) (a : BitVec 7) (b : BitVec 7)
  /-- FCMP (R278): Floating-point compare writing a predicate per lane. -/
  | fcmp (d : BitVec 7) (a : BitVec 7) (b : BitVec 7)
  /-- FDIV (R276): Floating-point divide rounded once. -/
  | fdiv (d : BitVec 7) (a : BitVec 7) (b : BitVec 7) (f : BitVec 4)
  /-- FSQRT (R276): Square root rounded once. -/
  | fsqrt (d : BitVec 7) (a : BitVec 7) (f : BitVec 4)
  /-- FRCP (R276): Reciprocal rounded once. -/
  | frcp (d : BitVec 7) (a : BitVec 7) (f : BitVec 4)
  /-- FRSQ (R276): Reciprocal square root rounded once. -/
  | frsq (d : BitVec 7) (a : BitVec 7) (f : BitVec 4)
  /-- FEXP2 (R276): Base-2 exponential rounded once. -/
  | fexp2 (d : BitVec 7) (a : BitVec 7) (f : BitVec 4)
  /-- FLOG2 (R276): Base-2 logarithm rounded once. -/
  | flog2 (d : BitVec 7) (a : BitVec 7) (f : BitVec 4)
  /-- FSIN (R276): Sine in radians rounded once. -/
  | fsin (d : BitVec 7) (a : BitVec 7) (f : BitVec 4)
  /-- FCOS (R276): Cosine in radians rounded once. -/
  | fcos (d : BitVec 7) (a : BitVec 7) (f : BitVec 4)
  /-- FCLASS (R280): Classifies each element into a bit mask. -/
  | fclass (d : BitVec 7) (a : BitVec 7)
  /-- CVT (R283): Converts elements between formats under R88. -/
  | cvt (d : BitVec 7) (a : BitVec 7) (dt : BitVec 5) (f : BitVec 4)
  /-- XSUM (R284): Adds each lane's element exactly into a global sum cell at its home. -/
  | xsum (data : BitVec 7) (base : BitVec 5) (index : BitVec 5) (scale : BitVec 2) (disp6 : BitVec 6)
  /-- SUMRD (R285): Reads a sum cell and rounds it once to FP32 or FP64. -/
  | sumrd (data : BitVec 7) (base : BitVec 5) (index : BitVec 5) (scale : BitVec 2) (disp6 : BitVec 6)
  /-- LDG (R290): Global load through CACHE per active lane. -/
  | ldg (data : BitVec 7) (base : BitVec 5) (index : BitVec 5) (scale : BitVec 2) (disp6 : BitVec 6)
  /-- LDG_F (R290): Global load served at the home, bypassing CACHE. -/
  | ldgF (data : BitVec 7) (base : BitVec 5) (index : BitVec 5) (scale : BitVec 2) (disp6 : BitVec 6)
  /-- STG (R291): Write-through global store per active lane. -/
  | stg (data : BitVec 7) (base : BitVec 5) (index : BitVec 5) (scale : BitVec 2) (disp6 : BitVec 6)
  /-- LDK (R290): Loads one uniform global value through CACHE into every active lane. -/
  | ldk (data : BitVec 7) (base : BitVec 5) (scale : BitVec 2) (disp6 : BitVec 6)
  /-- PREF (R292): Fills CACHE with the addressed lines without trapping. -/
  | pref (base : BitVec 5) (index : BitVec 5) (scale : BitVec 2) (disp6 : BitVec 6)
  /-- LDP (R293): Pad load that stalls on empty lines. -/
  | ldp (data : BitVec 7) (base : BitVec 5) (index : BitVec 5) (scale : BitVec 2) (disp6 : BitVec 6)
  /-- STP (R293): Pad store that sets written lines full. -/
  | stp (data : BitVec 7) (base : BitVec 5) (index : BitVec 5) (scale : BitVec 2) (disp6 : BitVec 6)
  /-- ATOMG (R297): Global atomic executed at the line's home, returning the old value and a WCT. -/
  | atomg (d : BitVec 7) (areg : BitVec 5) (b : BitVec 7) (f : BitVec 4)
  /-- ATOMP (R299): Atomic on the task's own pad at the pool atomic unit. -/
  | atomp (d : BitVec 7) (areg : BitVec 5) (b : BitVec 7) (f : BitVec 4)
  /-- ATOMR (R299): Sends an atomic to a peer core's pad window. -/
  | atomr (d : BitVec 7) (areg : BitVec 5) (b : BitVec 7) (f : BitVec 4)
  /-- CPY (R301): Leader issues a box copy described by a global layout record onto a channel. -/
  | cpy (d : BitVec 7) (a : BitVec 7) (b : BitVec 7) (ch : BitVec 2)
  /-- CPYI (R301): Leader issues a box copy described by a pad layout record onto a channel. -/
  | cpyi (d : BitVec 7) (a : BitVec 7) (b : BitVec 7) (ch : BitVec 2)
  /-- CSEAL (R123): Seals the context's unsealed copies into the next batch. -/
  | cseal
  /-- CWAIT (R124): Waits for a copy batch and traps on its first fault. -/
  | cwait (b : BitVec 7)
  /-- PEMPTY (R304): Marks a range of pad lines empty after pending copy writes and operand reads finish. -/
  | pempty (a : BitVec 7) (b : BitVec 7)
  /-- FENCE (R106): Waits for returned WCTs and until canopy time reaches the horizon + 4 ns. -/
  | fence
  /-- BARINIT (R129): Initialises a pad barrier with an expected count. -/
  | barinit (a : BitVec 7) (b : BitVec 7)
  /-- BARARR (R129): Releases as FENCE and arrives at a barrier, completing a generation when full. -/
  | bararr (d : BitVec 7) (a : BitVec 7)
  /-- BARWAIT (R129): Waits until the barrier's generation changes or it leaves the active state. -/
  | barwait (a : BitVec 7) (b : BitVec 7)
  /-- BARINV (R129): Invalidates a barrier and traps every waiter. -/
  | barinv (a : BitVec 7)
  /-- SEMW (R311): Joins a cross-die semaphore's waiter queue and takes n when available. -/
  | semw (d : BitVec 7) (a : BitVec 7) (b : BitVec 7)
  /-- SEMS (R311): Waits as FENCE and adds n to a cross-die semaphore with a stamp. -/
  | sems (a : BitVec 7) (b : BitVec 7)
  /-- TLBINV (R315): Drops matching translations everywhere and waits for accesses that used them. -/
  | tlbinv (a : BitVec 7) (b : BitVec 7)
  /-- SENDQ (R308): Sends a message from the leader to a cluster peer's inbox using one credit. -/
  | sendq (d : BitVec 7) (a : BitVec 7) (b : BitVec 7)
  /-- RECVQ (R309): Takes the oldest inbox entry once its horizon + 4 ns has passed. -/
  | recvq (d : BitVec 7) (a : BitVec 7)
  /-- PADOPEN (R310): Opens or closes one of the task's four pad windows for peers. -/
  | padopen (win : BitVec 2) (rights : BitVec 2) (a : BitVec 7) (b : BitVec 7)
  /-- POOLSET (R51): Moves n glade banks between roles through a clearing, or refuses with a code. -/
  | poolset (d : BitVec 7) (src : BitVec 3) (dst : BitVec 3) (b : BitVec 7) (f3 : BitVec 3)
  /-- POOLQ (R314): Reads a region's bank counter and budget for one role. -/
  | poolq (d : BitVec 7) (src : BitVec 3) (dst : BitVec 3)
  /-- MMA (R323): Queues one matrix K-step into a bound tile. -/
  | mma (tile : BitVec 3) (ka : BitVec 7) (kb : BitVec 7) (fmt : BitVec 4) (step : BitVec 2)
  /-- MMAS (R323): Queues one block-scaled matrix K-step into a bound tile. -/
  | mmas (tile : BitVec 3) (ka : BitVec 7) (kb : BitVec 7) (fmt : BitVec 4) (step : BitVec 2)
  /-- MZERO (R324): Binds a tile if needed and zeroes the rows of p0. -/
  | mzero (tile : BitVec 3) (i32 : BitVec 1)
  /-- MLOAD (R324): Binds a tile if needed and loads the rows of p0 from pad. -/
  | mload (tile : BitVec 3) (ka : BitVec 7) (i32 : BitVec 1)
  /-- MDRAIN (R325): Queues a drain of a tile through an epilogue program. -/
  | mdrain (tile : BitVec 3) (ka : BitVec 7) (flags : BitVec 4)
  /-- MSEAL (R140): Seals unsealed matrix operations into the next matrix batch. -/
  | mseal
  /-- MWAIT (R140): Waits for a matrix batch and traps on its first fault. -/
  | mwait (flags : BitVec 4)
  /-- EPLOAD (R142): Loads a checked epilogue program from pad into a slot. -/
  | epload (tile : BitVec 3) (ka : BitVec 7)
  /-- RSET (R155): Sets up one light-field primitive in a setup slot and returns a token. -/
  | rset (d : BitVec 7) (a : BitVec 7) (b : BitVec 7) (ch : BitVec 2)
  /-- RAST (R157): Returns the next covered pixels and their view intervals from a token. -/
  | rast (d : BitVec 7) (a : BitVec 7) (bw : BitVec 3) (bp : BitVec 3)
  /-- TRAVSET (R173): Starts each lane's traversal stack with the root entry. -/
  | travset (d : BitVec 7) (bpair : BitVec 4)
  /-- TRAV_RAY (R173): Continues each lane's ray traversal to a candidate leaf, the end or the budget. -/
  | travRay (d : BitVec 7) (a : BitVec 7) (bpair : BitVec 4) (bp : BitVec 3)
  /-- TRAV_BOX (R173): Continues each lane's box-query traversal to a candidate leaf, the end or the budget. -/
  | travBox (d : BitVec 7) (a : BitVec 7) (bpair : BitVec 4) (bp : BitVec 3)
  /-- FBLOAD (R337): Registers a framebuffer tile, empties its lines and queues its fill. -/
  | fbload (dch : BitVec 2) (a : BitVec 7) (b : BitVec 7)
  /-- FBSTORE (R337): Releases a tile's registration and queues its copy out. -/
  | fbstore (dch : BitVec 2) (a : BitVec 7) (b : BitVec 7)
  /-- FBDONE (R168): Records one producer's completion of a serial and advances the mark. -/
  | fbdone (a : BitVec 7) (b : BitVec 7)
  /-- VTEST (R164): Tests view samples against tile depth and optionally writes depth. -/
  | vtest (pd : BitVec 3) (pa : BitVec 3) (b : BitVec 7) (f : BitVec 4)
  /-- FBW (R165): Blends a colour into every masked view of a pixel in a tile. -/
  | fbw (d : BitVec 7) (pa : BitVec 3) (b : BitVec 7) (f : BitVec 4)
  /-- VSPLIT (R160): Splits a view mask into its first run and the rest. -/
  | vsplit (wd : BitVec 3) (wr : BitVec 3) (pa : BitVec 3)
  /-- VENDS (R160): Writes V0, V1 and ANCHOR of an interval to v registers. -/
  | vends (d : BitVec 7) (pa : BitVec 3)
  /-- VMASK (R160): Restricts a view mask to a view range. -/
  | vmask (pd : BitVec 3) (pa : BitVec 3) (b : BitVec 7)
  /-- VAGREE (R161): Marks lanes whose two colours disagree beyond a tolerance. -/
  | vagree (gwd : BitVec 3) (gws : BitVec 3) (gt : BitVec 5) (gva : BitVec 5) (gvb : BitVec 5)
  /-- VHALVE (R162): Cuts disagreeing intervals into lower and upper halves. -/
  | vhalve (wd : BitVec 3) (wr : BitVec 3) (pa : BitVec 3)
  /-- XPFX (R212): Prefix word carrying extra fields for the word after it. -/
  | xpfx (kind : BitVec 3) (payload : BitVec 22)
  /-- PARKED_TRACT_SERVE (R21): When a REG file and slot free, the oldest parked tract materialises its next window. -/
  | parkedTractServe (core : Nat)
  /-- PENDING_PIECE_START (R17): A pending split piece takes a freed context slot. -/
  | pendingPieceStart (ctx : Nat)
  /-- RJOIN_WAIT_EXPIRE (R32): A piece's 256-clock wait at RJOIN ends and it continues as it stands. -/
  | rjoinWaitExpire (ctx : Nat)
  /-- VERSION_COMMIT (R108): The commit sequencer assigns T_c once every home has accepted and homes serve the new bytes. -/
  | versionCommit (task : Nat)
  /-- STAND_SPILL (R41): Spills the youngest blocked stand to free a REG file for a parked tract. -/
  | standSpill (core : Nat)
  /-- SPILL_RETURN (R41): A spilled stand returns when a REG file and slot are free. -/
  | spillReturn (core : Nat)
  /-- CLEARING_COMPLETE (R50): A clearing finishes relocating or dropping lines and the POOLSET code is written. -/
  | clearingComplete (core : Nat)
  /-- WAIT_LIMIT_EXPIRE (R57): A wait on an empty line or for inbox credits exceeds the region's wait limit and traps. -/
  | waitLimitExpire (ctx : Nat) (pathNo : Nat)
  /-- SEMW_WAIT_LIMIT (R311): A SEMW waiter leaves the queue after the wait limit and writes code 1. -/
  | semwWaitLimit (ctx : Nat) (pathNo : Nat)
  /-- YIELD_HOLD_EXPIRE (R238): A YIELD hold ends after 64 clocks. -/
  | yieldHoldExpire (ctx : Nat) (pathNo : Nat)
  /-- BANK_PORT_URGENT (R373): A context refused a bank port for 4 clocks becomes urgent. -/
  | bankPortUrgent (ctx : Nat)
  /-- HOME_LOAD (R104): A home slice serves a load, granting a lease and returning the WCT. -/
  | homeLoad (n : Nat)
  /-- HOME_STORE (R105): A home slice executes a store and returns its WCT. -/
  | homeStore (n : Nat)
  /-- HOME_ATOMIC (R113): A home slice or host agent executes an atomic indivisibly and returns the old value. -/
  | homeAtomic (n : Nat)
  /-- COPY_START (R122): A queued copy starts once every earlier copy on its channel has finished. -/
  | copyStart (core : Nat) (ch : Nat) (n : Nat)
  /-- COPY_COMPLETE (R121): A copy's last write lands, its lines become full, it arrives at its barrier or fails its batch. -/
  | copyComplete (core : Nat) (ch : Nat)
  /-- MATRIX_OP_EXECUTE (R138): A queued matrix operation runs on the array once its lines are full and earlier tile work has finished. -/
  | matrixOpExecute (core : Nat) (n : Nat)
  /-- DRAIN_EXECUTE (R144): A queued drain runs the epilogue program over the tile rows. -/
  | drainExecute (core : Nat) (n : Nat)
  /-- INBOX_MESSAGE_ARRIVE (R125): A SENDQ message is appended to the peer task's inbox ring. -/
  | inboxMessageArrive (n : Nat)
  /-- ATOMR_EXECUTE (R127): The peer's pool atomic unit checks windows and executes a remote pad atomic. -/
  | atomrExecute (n : Nat)
  /-- PREEMPT_REQUEST (R399): A piece waiting 2 µs makes the control die request pre-emption and choose drain, flush, or save. -/
  | preemptRequest (task : Nat)
  /-- PREEMPT_DEFER_TIMEOUT (R400): A handler deferring pre-emption for 20 µs raises 0x38 and faults the region. -/
  | preemptDeferTimeout (task : Nat)
  /-- CONTEXT_SAVE (R402): After in-flight work ends, the task is written to a save area and its resources released. -/
  | contextSave (task : Nat)
  /-- CONTEXT_RESTORE (R405): A saved task is rebuilt on a core, fenced and its cancelled copies re-issued. -/
  | contextRestore (task : Nat) (core : Nat)
  /-- SELF_TEST_COMPLETE (R397): A targeted bank or pipe self-test ends and classes the error transient or lasting. -/
  | selfTestComplete (core : Nat) (unit : Nat) (lasting : Bool) (residue : Bool) (ctx : Nat)
  /-- PAGE_WALK (R381): The walker complex resolves a TLB miss, checks it and sets A and D. -/
  | pageWalk (core : Nat) (part : Nat) (va : Nat) (write : Bool)
  /-- TRACKER_EPOCH_END (R386): At epoch end the tracker halves counts and starts swap pairs for hot far pages. -/
  | trackerEpochEnd
  /-- SWAP_LINE_MOVE (R387): The swap unit exchanges one line of a swap pair and sets its bitmap bit. -/
  | swapLineMove (pair : Nat) (bad : Bool)
  /-- REGLOAD (R356): Command that reads and checks an RCB into the region tree cache. -/
  | regload (resv : BitVec 56) (arg0 : BitVec 64) (arg1 : BitVec 64) (seq : BitVec 64)
  /-- REGFREE (R358): Command that frees a loaded region with no children, queues or tasks. -/
  | regfree (resv : BitVec 56) (arg0 : BitVec 64) (arg1 : BitVec 64) (seq : BitVec 64)
  /-- QSET (R359): Command that reads and checks a queue descriptor and loads the queue. -/
  | qset (resv : BitVec 56) (arg0 : BitVec 64) (arg1 : BitVec 64) (seq : BitVec 64)
  /-- QSTOP (R359): Command that clears a queue's EN and writes back HEAD, TAIL and DROP. -/
  | qstop (resv : BitVec 56) (arg0 : BitVec 64) (arg1 : BitVec 64) (seq : BitVec 64)
  /-- SEMSET (R358): Command that sets a semaphore's VALUE and STAMP. -/
  | semset (resv : BitVec 56) (arg0 : BitVec 64) (arg1 : BitVec 64) (seq : BitVec 64)
  /-- HOST_SLOT_WRITE (R360): A host write of bytes at an offset of a queue's slot appends a launch record or is dropped. -/
  | hostSlotWrite (q : Nat) (rec : Nat × List (BitVec 8))
  /-- LAUNCH_DEQUEUE (R368): The control die dequeues from the chosen eligible queue, assigns a serial and checks the record. -/
  | launchDequeue
  /-- LAUNCH_SEMAPHORE_WAIT (R365): A launch's enabled semaphore wait is satisfied before placement. -/
  | launchSemaphoreWait (serial : Nat)
  /-- PIECE_PLACEMENT (R370): A distributor places the oldest fitting waiting piece as a tract on a qualifying core. -/
  | piecePlacement (die : Nat)
  /-- COMPLETION_RECORD_WRITE (R365): After every task retires and R111 holds, the completion record and PROD are written and SIGSEM signalled. -/
  | completionRecordWrite (serial : Nat)
  /-- DIE_RESET_ORDERLY (R406): A requested compute-die reset saves tasks, writes back L2 and moves version lines. -/
  | dieResetOrderly (die : Nat)
  /-- DIE_RESET_UNPLANNED (R406): A fault resets a compute die, ending its tasks and faulting affected partitions' regions. -/
  | dieResetUnplanned (die : Nat)
  /-- DIE_RESET_RETURN (R406): The die returns with empty L2 and a raised eviction horizon, and records are pushed again. -/
  | dieResetReturn (die : Nat)
  /-- MODULE_RESET (R420): Power-on or module reset starts bring-up in state ROM. -/
  | moduleReset
  /-- BRINGUP_ROM (R420): PUF reconstruction and firmware signature check end, advancing to FW or FAIL. -/
  | bringupRom (ok : Bool)
  /-- BRINGUP_FW (R420): Management cores start the verified firmware. -/
  | bringupFw (ok : Bool)
  /-- BRINGUP_CONFIG (R420): The configuration record is verified and checked. -/
  | bringupConfig (image : List (BitVec 8)) (sigOk : Bool)
  /-- BRINGUP_MEMORY (R420): Memory is trained, keys derived and descriptors and save pools loaded. -/
  | bringupMemory (ok : Bool)
  /-- BRINGUP_DIES (R420): Compute dies are released, banks zeroed and die links trained. -/
  | bringupDies (ok : Bool)
  /-- BRINGUP_HOST (R420): Host link training and IDE complete, reaching READY, or retry. -/
  | bringupHost (ok : Bool)
  /-- CONFIG_RECORD_LOAD (R411): Firmware loads a signed configuration record at run time or refuses it. -/
  | configRecordLoad (image : List (BitVec 8)) (sigOk : Bool)
  /-- ROOT_REGISTER_SET (R412): Firmware writes a partition's translation root after dropping its translations. -/
  | rootRegisterSet (part : Nat) (val : BitVec 64)
  /-- CAPABILITY_REGISTER_SET (R417): Firmware writes a partition's capability list VA. -/
  | capabilityRegisterSet (part : Nat) (val : BitVec 64)
  /-- ATTESTATION_REQUEST (R416): Firmware answers with a report signed with a fresh XMSS leaf. -/
  | attestationRequest (part : Nat) (nonce : BitVec 256)
  /-- HOST_MEM_WRITE (R419): A host write executes at the line's home as a device store. -/
  | hostMemWrite (pa : Nat) (data : List (BitVec 8))
  /-- HOST_MEM_READ (R419): A host read of device memory is served at the home. -/
  | hostMemRead (pa : Nat) (size : Nat)
  /-- BACK_INVALIDATE_RESPONSE (R419): The host's back-invalidate response lets a waiting device write execute. -/
  | backInvalidateResponse (n : Nat)
  /-- DROOP_REPORT (R421): A droop sensor report lowers the die's core clock by steps. -/
  | droopReport (die : Nat) (steps : Nat)
  /-- CLOCK_STEP_RISE (R421): After 1 µs of steady supply the core clock rises one step. -/
  | clockStepRise (die : Nat)
  /-- SAG_COUNTER_CLEAR (R422): Writing 1 to CLR clears the die's droop counter register. -/
  | sagCounterClear (die : Nat) (val : BitVec 64)
  /-- TRACKER_CONTROL_WRITE (R385): A write to the tracker register enables and configures the tracker and swap unit. -/
  | trackerControlWrite (part : Nat) (val : BitVec 64)
  /-- REGISTER_WRITE (R401): A write to a management register that has no behaviour of its own, such as a save-pool register. -/
  | registerWrite (part : Nat) (reg : Nat) (val : BitVec 64)
  /-- PENDING_HORIZON_GUARD_REACHED (R106): Canopy time reaches a stalled context's pending horizon + 4 ns, ending a FENCE-type wait (FENCE, BARARR, SEMS, LAUNCH), a RECVQ delivery, a SEMW STAMP wait or a call-out H wait. -/
  | pendingHorizonGuardReached (ctx : Nat) (pathNo : Nat)
  /-- POWER_LOSS (R415): Supply to the module is lost, ending all device activity; a leaf written to flash but not yet released is skipped. -/
  | powerLoss
  /-- HOST_LINE_ACCESS (R345): A host access to a CXL.cache line that the host agent holds exclusive for an atomic falls wholly before or after that atomic. -/
  | hostLineAccess (pa : Nat) (data : List (BitVec 8)) (write : Bool)
  deriving DecidableEq, Repr

end Sys2Proof
end

