-- ==== Sys2Proof/Machine/State.lean ====
section
/-! DEFINITION. The whole state of the device as plain data, the machine right after power-on, and the ways a step can
stop. What each field is and which rule names it stands in INVENTORY.md under "State". -/

namespace Sys2Proof.Machine

/-! ## Registers -/

/-- Format tags (R63); the constructor order is the code order. -/
inductive Tag where
  | raw | int32 | f32 | f64 | bf16 | f16 | e4m3 | e5m2 | mx4 | hs4 | hs8 | int8 | int16 | cell | view | invalid
  deriving DecidableEq, Repr

/-- An a-register: a form and its format tag (R11, R58, R65). The form tag is uniform exactly when the three strides
are zero, so it is not stored. -/
structure AReg where
  base : Word64
  sx : BitVec 32
  sy : BitVec 32
  sz : BitVec 32
  tag : Tag
  deriving DecidableEq, Repr

/-- A v register: 64 lane values and one format tag (R58, R64). -/
structure VReg where
  lanes : Vector Word32 64
  tag : Tag
  deriving DecidableEq, Repr

/-- A value form that a tract keeps for a live v register after RJOIN (R31). -/
structure VForm where
  reg : Nat
  base : Word32
  slope : Word32
  tag : Tag
  deriving DecidableEq, Repr

/-- An m register: its binding to a TILE bank and its tag (R62). -/
structure MReg where
  bank : Option Nat
  tag : Tag
  deriving DecidableEq, Repr

/-- A snapped vertex (R147): x and y in units of 2^-8, d in units of 2^-12, w as binary32. -/
structure Vertex where
  x : Int
  y : Int
  d : Int
  w : Word32
  deriving DecidableEq, Repr

/-- A setup slot (R152, R154). The coefficients of R148 are functions of the vertices. -/
structure Setup where
  valid : Bool
  verts : Vector Vertex 3
  positive : Bool
  x0 : Nat
  xw : Nat
  y : Nat
  vf : Nat
  vl : Nat
  rate : Nat
  serial : Word32
  deriving DecidableEq, Repr

/-- The registers a word reads as sources (R58) with the arithmetic special registers and the hidden lane LFSRs (R80). `errV`, `errA` and
`errP` name what no longer agrees with its check (R69, R70): a v register's lane, with whether ECC and not the residue finds it; an
a-register; a p register. -/
structure Regs where
  a : Vector AReg 32
  v : Vector VReg 64
  vforms : List VForm
  p : Vector Word64 8
  w : Vector (Vector Word64 64) 8
  m : Vector MReg 8
  slots : Vector Setup 4
  lfsr : Vector Word32 64
  mode : Word64
  xc : Word64
  budget : Word64
  errV : List (Nat × Nat × Bool)
  errA : List Nat
  errP : List Nat
  deriving DecidableEq, Repr

/-! ## Traps, paths, contexts -/

/-- What a trap reports (R390): code, detail, walk level, address and elected lane. -/
structure Trap where
  code : BitVec 8
  detail : BitVec 8
  level : BitVec 2
  addr : Word64
  lane : Nat
  deriving DecidableEq, Repr

/-- Leading words waiting for the word they serve (R212), by kind; `bad` marks a repeated kind or a third one (R217). -/
structure Lead where
  imm : Option (BitVec 22)
  join : Option (BitVec 16)
  cross : Option (BitVec 22)
  extra : Option (BitVec 22)
  count : Nat
  bad : Bool
  deriving DecidableEq, Repr

/-- Why a word has not taken effect yet and issues again (R316 and the stalls stated with the words): `emptyLine` lists
the empty lines with the offset and lane that met each (R55), `hostLine` the line a back-invalidate was sent for (R419), `pool` a
POOLSET that waits for what still touches a departing slot (R47, R52). -/
inductive Stall where
  | fence | batch | credits | inbox | channel | matrixQueue | tile | merge | clearing | pool
  | remote | load | seal | park | matrixRead | shootdown | served
  | semaphore (dest num : Nat)
  | barrier (off gen : Nat)
  | emptyLine (lines : List (Nat × Nat × Nat))
  | hostLine (pa : Nat)
  deriving DecidableEq, Repr

/-- What a path is waiting for: nothing, a word that stalls (since a canopy time), a join record (R27), a neighbour at
an RJOIN (R32, since a canopy time). -/
inductive Wait where
  | none
  | stall (why : Stall) (since : Nat)
  | join (record : Nat)
  | rejoin (since : Nat)
  deriving DecidableEq, Repr

/-- A path (R29, R30); a tract has one. `pc` and `slot` name the next chain. `run` is the chain under issue: its packet
and the slots still to execute (R206, R218), `words` that packet as it was fetched (R209). `snap` holds the registers as they
stood before that chain (R200), `reseed` says that its SETS has written a new seed (R228), `pend` a trap that one of its words has raised
after issue, `pendSlots` the slots HRET will issue again, `first` the registers that a transfer among those words reads (R218).
`held` is a hold of YIELD: the time it ends, and the contexts that are still to issue before (R238). `serial` names the record for which the path issues a BRX again (R233). `gone` holds the lanes of the VTEST or
FBW under issue that have taken effect while others wait (R167, R341). -/
structure Path where
  id : Nat
  pc : BitVec 32
  slot : Nat
  mask : Word64
  ret : List (BitVec 32)
  age : Nat
  wait : Wait
  held : Option (Nat × List Nat)
  run : Option (BitVec 32 × List Nat)
  words : Option (Word32 × Word32 × Word32)
  lead : Lead
  snap : Option Regs
  reseed : Bool
  pend : Option (Trap × Nat)
  pendSlots : List Nat
  first : Option Regs
  serial : Option Nat
  gone : Word64
  deriving DecidableEq, Repr

/-- A reconvergence record (R27, R28). `join` is the packet of the named JOIN; `members` the paths that descend from the
divergence; `outer` the records that enclose it; `others` the lanes a serialised divergence runs later; `parked` lanes
that have arrived and wait without a path; `ret` the return stack of the first arrival (R234). -/
structure Record where
  id : Nat
  join : Option (BitVec 32)
  serial : Bool
  members : List Nat
  outer : List Nat
  others : Option Path
  parked : Word64
  ret : Option (List (BitVec 32))
  deriving DecidableEq, Repr

/-- The words that a path issues again (R218, R393): their packet and slots, the packet as it was fetched, and the registers that a
transfer among them reads. -/
structure Redo where
  packet : BitVec 32
  slots : List Nat
  words : Option (Word32 × Word32 × Word32)
  kept : Option Regs
  deriving DecidableEq, Repr

/-- The handler frame of a context (R392): the trapped path as it resumes (its next chain, its mask, the words to issue
again), the stand's other paths and records, the slot and byte address of the trapping word, the trap, and the handler's
code base. -/
structure Frame where
  path : Path
  paths : List Path
  recs : List Record
  slot : Nat
  pc : Nat
  trap : Trap
  code : Nat
  deriving DecidableEq, Repr

/-- A trap of a soft error that waits for its self-test (R391, R397): the trap, the slot and byte address of its word, the words that
HRET issues again, whether a write-back has failed twice (R398), and the core and the bank concerned, where there is one. -/
structure Test where
  trap : Trap
  slot : Nat
  pc : Nat
  redo : Option Redo
  pipe : Bool
  unit : Option (Nat × Nat)
  deriving DecidableEq, Repr

/-- A box of items: half-open ranges in x, y and z (R9). -/
structure Box where
  x0 : Nat
  x1 : Nat
  y0 : Nat
  y1 : Nat
  z0 : Nat
  z1 : Nat
  deriving DecidableEq, Repr

/-- The kinds of context (R39). `idle` marks an empty issue slot; `pending` a split piece on the list of the context
`holder` (R17). -/
inductive Kind where
  | idle | tract | parked | pending | stand
  deriving DecidableEq, Repr

/-- The batch counter of one family (R123, R140): NEXT, for each number the batches it last named (more than one after
pieces with equal counters merge), and the failed numbers whose trap has been taken (R303). -/
structure Batches where
  next : BitVec 4
  ids : Vector (List Nat) 16
  taken : BitVec 16
  deriving DecidableEq, Repr

/-- A context (R39, R58). `area` is the save area of a spilled stand (R41); `lastMark` what the mark of its named tile reads as while
the tile is not registered (R169), a free value. `test` holds a soft error until its self-test ends (R397), `badWrites` the write-backs
to come, one after the other, whose residue will miss its prediction (R69, R398), `netError` the lanes
of the next ATOMG that the network reports as failed and those of them whose effects are confirmed as applied (R113, R394). -/
structure Context where
  id : Nat
  task : Nat
  kind : Kind
  slotNo : Nat
  area : Option Nat
  file : Option (Nat × Nat)
  box : Box
  cursor : Nat × Nat × Nat
  seams : List Nat
  holder : Nat
  parkedAt : Nat
  sealedOnce : Bool
  regs : Regs
  path : Path
  paths : List Path
  recs : List Record
  nextPath : Nat
  nextRec : Nat
  frame : Option Frame
  horizon : Nat
  copyBat : Batches
  matBat : Batches
  cause : Word64
  causeAddr : Word64
  causeLane : Word64
  lastTile : Option Nat
  lastMark : Nat
  calloutH : Nat
  callout : Bool
  loadAfter : Nat
  urgent : Bool
  test : Option Test
  badWrites : Nat
  netError : Option (Word64 × Word64)
  deriving DecidableEq, Repr

/-! ## Memory -/

/-- Bytes by address; a memory is one in canonical form (Ops.lean): addresses rising, no byte equal to what an unlisted
address reads as. -/
abbrev Memory := List Host.Cell

/-- What a home keeps of one 128-byte line (R104, R105, R407): `wct` is the WCT of its bytes but for those written since,
which `wcts` lists by offset; `part` and `epoch` name the key its bytes are under, `tag` the partition and `way` the way of its copy in
L2. -/
structure HomeLine where
  line : Nat
  home : Nat
  expiry : Nat
  wct : Nat
  wcts : List (Nat × Nat)
  resident : Bool
  part : Nat
  epoch : Nat
  tag : Nat
  way : Nat
  deriving DecidableEq, Repr

/-- A line of the memory-side cache of a base die: its partition tag and its way (R114, R407). -/
structure SideLine where
  line : Nat
  tag : Nat
  die : Nat
  way : Nat
  deriving DecidableEq, Repr

/-- A line of CACHE (R104, R105, R183). -/
structure CacheLine where
  task : Nat
  line : Nat
  expiry : Nat
  wct : Nat
  bytes : List Byte
  deriving DecidableEq, Repr

/-- A cached translation (R380): partition, page number of the VA, log2 of the page size, and the leaf entry walked. -/
structure TlbEntry where
  part : Nat
  vpn : Nat
  size : Nat
  entry : Word64
  deriving DecidableEq, Repr

/-- A cached non-leaf entry of the walker complex (R380): its address and value. -/
structure WalkEntry where
  part : Nat
  addr : Nat
  entry : Word64
  deriving DecidableEq, Repr

/-- A value an exact add takes (R95): a float of the element's format, or a signed integer. -/
inductive Addend where
  | finite (units : Int)
  | posInf
  | negInf
  | nan
  deriving DecidableEq, Repr

/-- What a request in flight asks of a home. -/
inductive ReqKind where
  | store (bytes : List Byte)
  | exactAdd (value : Addend)
  | fill
  deriving DecidableEq, Repr

/-- A request on its way to a home (R105, R184, R292). -/
structure Req where
  ctx : Nat
  task : Nat
  core : Nat
  part : Nat
  va : Nat
  pa : Nat
  home : Nat
  lease : Nat
  kind : ReqKind
  deriving DecidableEq, Repr

/-! ## Engines of a core -/

/-- The copies of R116, R119 and R170. `layout` carries the record; `tile` the descriptor and framebuffer record. -/
inductive CopyKind where
  | layout (rec : BitVec 512) (coords : List Int) (dense : Nat) (barrier : Option Nat)
  | tileLoad (tile : Word64) (rec : BitVec 512)
  | tileStore (tile : Word64) (rec : BitVec 512)
  deriving DecidableEq, Repr

/-- A queued or running copy: `sent` counts the elements delivered, `acc` carries a compare or a fingerprint on (R119),
`wct` is the latest WCT received, `since` the time its wait on an empty line began (R138) and `needs` the lines of that wait with their
pad offsets. -/
structure Copy where
  op : Nat
  ctx : Nat
  task : Nat
  kind : CopyKind
  running : Bool
  sent : Nat
  acc : Nat
  wct : Nat
  since : Option Nat
  needs : List (Nat × Nat)
  deriving DecidableEq, Repr

/-- A copy channel (R122). -/
structure Channel where
  queue : List Copy
  mark : BitVec 21
  done : BitVec 16
  fail : Bool
  deriving DecidableEq, Repr

/-- An operand of a queued matrix operation: 64 vectors of eight words read at issue, or a pad pair (R134, R135). -/
inductive MatSrc where
  | regs (vectors : Vector (Vector Word32 8) 64)
  | pad (first second : Word64)
  deriving DecidableEq, Repr

/-- The work of a queued matrix operation (R323 to R325). -/
inductive MatWork where
  | step (fmt : Nat) (index : Nat) (a b : MatSrc) (rowScale : Option (Vector Word32 64 × Vector Word32 64)) (colScale : Nat)
  | zero
  | load (src : MatSrc)
  | drain (program : Vector Word32 16) (args : Vector Word64 4) (release : Bool) (clear : Bool)
  deriving DecidableEq, Repr

/-- A queued matrix operation on one tile bank, over the rows of `rows`; `since` is the time its wait on an empty line began
(R138). -/
structure MatOp where
  op : Nat
  ctx : Nat
  task : Nat
  bank : Nat
  tag : Tag
  rows : Word64
  work : MatWork
  since : Option Nat
  deriving DecidableEq, Repr

/-- A lane write held for its serial (R167): its context, the descriptor its FBW gave (R163), its pixel, views, colour, blend operation and, under .z, the primitive. -/
structure Held where
  ctx : Nat
  tile : Word64
  serial : Nat
  x : Nat
  y : Nat
  views : Word64
  colour : Word64
  blend : Nat
  depth : Option Setup
  deriving DecidableEq, Repr

/-- A tile registered with the merge unit (R166 to R170). -/
structure Registration where
  task : Nat
  tile : Word64
  mark : Nat
  prod : Nat
  arrivals : List (Nat × Nat)
  held : List Held
  deriving DecidableEq, Repr

/-- The roles of a glade bank (R42); the constructor order is the code order of R216. -/
inductive Role where
  | reg | pad | cache | fifo | tile | off
  deriving DecidableEq, Repr

/-- A glade bank (R42, R397). -/
structure Bank where
  role : Role
  owner : Option Nat
  out : Bool
  deriving DecidableEq, Repr

/-- A clearing in progress (R47): who asked, where the code goes, the pad slots whose lines are moving (R52), and the
contexts whose files are moving (R50). -/
structure Clearing where
  ctx : Nat
  path : Nat
  task : Nat
  dest : Nat
  slots : List Nat
  moving : List Nat
  deriving DecidableEq, Repr

/-- The self-test of a bank (R397): the task that owned it and its role when the error was met, and whether the test has begun, with another
bank in its place. -/
structure BankTest where
  bank : Nat
  task : Nat
  role : Role
  begun : Bool
  deriving DecidableEq, Repr

/-- A core (R1, R42, R122, R138, R166, R380); `testing` holds the self-tests of its banks (R397). -/
structure Core where
  id : Nat
  out : Bool
  banks : Vector Bank 96
  chans : Vector Channel 4
  cache : List CacheLine
  tlb : List TlbEntry
  matq : List MatOp
  merge : List Registration
  clearing : Option Clearing
  testing : List BankTest
  deriving DecidableEq, Repr

/-! ## Tasks -/

/-- An entry of an inbox (R125, R126): sender, the task whose inbox it is for, words, horizon at send, the FIFO bank and line that hold
it, and the path whose RECVQ has taken it and waits for its time (R309). -/
structure Message where
  fromCtx : Nat
  fromCore : Nat
  toTask : Nat
  words : List Word32
  horizon : Nat
  bank : Nat
  line : Nat
  taker : Option (Nat × Nat)
  deriving DecidableEq, Repr

/-- A remote pad atomic in transit (R127, R299): one entry per lane with offset, operand and compare value. -/
structure Remote where
  ctx : Nat
  path : Nat
  lanes : List (Nat × Word64 × Word64 × Word64)
  op : Nat
  type : Nat
  dest : BitVec 7
  deriving DecidableEq, Repr

/-- A window of a task's pad (R127, R310). -/
structure Window where
  base : Nat
  length : Nat
  read : Bool
  atomic : Bool
  deriving DecidableEq, Repr

/-- An issued copy or matrix operation as its batch sees it (R123, R140): owner, batch once sealed, completion, first
fault, and the latest WCT of its writes. -/
structure OpState where
  id : Nat
  ctx : Nat
  matrix : Bool
  batch : Option Nat
  done : Bool
  fault : Option Trap
  wct : Nat
  deriving DecidableEq, Repr

/-- Where a task stands (R35, R38, R108, R402): running, waiting for its restart, being saved, all items retired and its copies ending,
its commit pending, done. -/
inductive Phase where
  | running | waiting | saving | retiring | committing | done
  deriving DecidableEq, Repr

/-- A task (R34 to R36, R42, R45, R54, R107 to R110, R125, R142). `asked` marks one that pre-emption has been requested of
(R399), `choice` one whose deferral has ended, so that the choice of R399 is due (R400), `saveAt` the place kept for the
area of a save under way (R399, R402), `cancelled` holds the copies a save cancelled, with their channels (R402), `commitAt` is its commit time once the control die has
assigned it (R108). `void` marks a task that has ended as R395 states, so that nothing of it is committed, and `rerun` one whose next run
is in direct mode (R110). `badPad`, `badTiles` and `badInbox` name pad bytes, TILE banks and inbox lines that hold an uncorrectable
error (R70). -/
structure Task where
  tid : Nat
  serial : Nat
  piece : Nat
  region : Nat
  part : Nat
  core : Nat
  code : Nat
  entry : Nat
  box : Box
  stack : Nat
  idem : Bool
  versRecord : Bool
  epb : Nat
  epblen : Nat
  plan : Word64
  views : Bool
  fsize : Nat
  vmode : Bool
  exposed : Bool
  aborts : Nat
  retired : Nat
  placedAt : Nat
  pinned : Bool
  preqAt : Option Nat
  asked : Bool
  choice : Bool
  saveAt : Option Nat
  cancelled : List (Nat × Copy)
  phase : Phase
  commitAt : Option Nat
  vlines : List Host.Cell
  vwct : List (Nat × Nat)
  pad : Memory
  padSlots : List Nat
  empty : List Nat
  tiles : List (Nat × Memory)
  inbox : List Message
  ringAt : Nat × Nat
  credits : Vector Nat 8
  withdrawn : Option Nat
  windows : Vector Window 4
  epi : Vector (Vector Word32 16) 4
  ops : List OpState
  horizon : Nat
  void : Bool
  rerun : Bool
  badPad : List Nat
  badTiles : List Nat
  badInbox : List (Nat × Nat)
  deriving DecidableEq, Repr

/-! ## The control die and the module -/

/-- A region control block in the region tree cache (R354), with its counters; budgets are in role order. -/
structure Region where
  num : Nat
  addr : Nat
  parent : Option Nat
  prio : Nat
  part : Nat
  level : Nat
  state : Nat
  inherit : BitVec 9
  cores : Nat
  farPages : Nat
  vquota : Nat
  waitLim : Nat
  budget : Vector Nat 5
  dieMask : BitVec 4
  clFirst : Nat
  clLast : Nat
  coreMask : BitVec 8
  lease : Vector Nat 4
  hcode : Nat
  hentry : Nat
  fring : Nat
  frsize : Nat
  frhead : Word32
  frtail : Word32
  semBase : Nat
  semCnt : Nat
  used : Vector Nat 5
  cused : Nat
  fused : Nat
  lost : Nat
  deriving DecidableEq, Repr

/-- A hardware queue (R359). -/
structure Queue where
  num : Nat
  ring : Nat
  depth : Nat
  region : Nat
  head : Word32
  tail : Word32
  en : Bool
  openAll : Bool
  serialised : Bool
  shdie : Nat
  drop : Word32
  desc : Nat
  previous : Option Nat
  stamps : List Nat
  deriving DecidableEq, Repr

/-- A cross-die semaphore with its waiters, oldest first (R311): a waiter is a context and path, or a launch. -/
structure Sem where
  num : Nat
  value : Nat
  stamp : Nat
  waiters : List (Nat × Nat)
  deriving DecidableEq, Repr

/-- A dequeued launch (R361 to R370): waits still to perform, the pieces dealt so far and the die the last went to, the pieces that wait
in each die's shadow with the time they came there, those taken back from dies that the region has left, the pieces there are, whether placement has stopped, tasks that must still end,
status, and the STAMP its contexts' loads wait for. -/
structure Launch where
  serial : Nat
  queue : Nat
  region : Nat
  part : Nat
  prio : Nat
  record : BitVec 512
  waits : List (Nat × Nat)
  after : Nat
  dealt : Nat
  turn : Nat
  shadow : Vector (List (Nat × Nat)) 4
  back : List Nat
  total : Nat
  pwx : Nat
  stopped : Bool
  live : List Nat
  status : Nat
  faults : Nat
  placed : Nat
  horizon : Nat
  deriving DecidableEq, Repr

/-- A task that left its core saved (R402 to R404): the task, its contexts, its registrations, where its area lies, its
length, the offset of its PAD banks, and the time its core showed. -/
structure Saved where
  task : Task
  ctxs : List Context
  regs : List Registration
  area : Nat
  bytes : Nat
  padsAt : Nat
  clock : Nat
  deriving DecidableEq, Repr

/-- A partition descriptor (R409). -/
structure PartDesc where
  en : Bool
  l2ways : BitVec 16
  mscways : BitVec 16
  semBase : Nat
  semCnt : Nat
  pool : Word64
  deriving DecidableEq, Repr

/-- A host-managed device memory range (R411, R419). -/
structure Hdm where
  en : Bool
  part : Nat
  base : Nat
  size : Nat
  deriving DecidableEq, Repr

/-- The configuration record in force (R411). `maps` lists the core maps that are not all partition 0 (R410). -/
structure Config where
  version : Word64
  capPa : Nat
  pool0 : Word64
  parts : Vector PartDesc 64
  maps : List (Nat × BitVec 36)
  hdm : Vector Hdm 8
  image : List Byte
  deriving DecidableEq, Repr

/-- A swap pair in flight (R387): the two leaf entries' addresses, the far and near frames, the bitmap. -/
structure Swap where
  part : Nat
  vaFar : Nat
  vaNear : Nat
  entryFar : Nat
  entryNear : Nat
  far : Nat
  near : Nat
  bitmap : Word32
  deriving DecidableEq, Repr

/-- A page the tracker counts (R385): `fresh` is its samples in this epoch. -/
structure HotPage where
  part : Nat
  vpn : Nat
  entry : Nat
  pa : Nat
  count : Nat
  fresh : Nat
  deriving DecidableEq, Repr

/-- Droop state and counters of a compute die (R421, R422): `now` the reduction in force and `shown` NOW as the register holds it, `lowNs`
the time below 1.2 GHz up to `since`, `steady` the time from which the supply counts as steady for the next rise. -/
structure Sag where
  events : Nat
  now : Nat
  shown : Nat
  deep : Nat
  lowNs : Nat
  since : Nat
  steady : Nat
  deriving DecidableEq, Repr

/-- The control die and module state (R354 to R422). `corrected` counts the single-bit errors corrected (R70), `badLines` the lines of
memory that cannot be read without an error (R389). `dieStop` marks a die whose orderly reset has begun, `dieDown` one in
reset since a time (R406). `posted` holds the writes of the device itself that still wait, each with its partition and address (R406,
R419); `fwCounter` the firmware version counter and `lastGood` the last good record, both in flash (R420); `signing` the leaf and the body
of a report whose signature is still to be released (R415). -/
structure Device where
  bringState : Nat
  bringDetail : Nat
  cfg : Config
  verCounter : Word64
  leaf : Nat
  epochs : Vector Nat 64
  roots : Vector Word64 64
  caps : Vector Word64 64
  pools : Vector Word64 64
  areas : List (Nat × Nat × Nat)
  tracker : Word64
  hot : List HotPage
  missCount : Nat
  epochAt : Nat
  swaps : List Swap
  swapErrors : Nat
  sag : Vector Sag 4
  dieStop : Vector Bool 4
  dieDown : Vector (Option Nat) 4
  status : Word64 × BitVec 8
  regions : List Region
  queues : List Queue
  sems : List Sem
  serial : Nat
  launches : List Launch
  lastCommit : Nat
  waiting : List Task
  saved : List Saved
  spilled : List Context
  reports : List (List Byte)
  hostReads : List (List Byte)
  mmio : List (Nat × List Byte)
  hostHeld : List Nat
  backInv : List Nat
  softErrors : Nat
  corrected : Nat
  badLines : List Nat
  posted : List (Nat × Nat × List Byte)
  fwCounter : Nat
  lastGood : List Byte
  signing : Option (Nat × List Byte)
  deriving DecidableEq, Repr

/-- A fault of the hardware (R69, R70, R113, R389): where the next reader meets an error. -/
inductive Strike where
  | reg (ctx reg lane : Nat) (ecc : Bool)
  | form (ctx reg : Nat)
  | pred (ctx reg : Nat)
  | writeback (ctx : Nat)
  | pad (task word : Nat)
  | cache (core line bank : Nat)
  | fifo (task bank line : Nat)
  | tile (task bank : Nat)
  | memory (line : Nat)
  | network (ctx : Nat) (lanes applied : Word64)
  | single
  deriving DecidableEq, Repr

/-- Whose turn the next step is: an event of another agent, the issue of a path of a context, in `lanes` of at most so many lanes of a
VTEST or FBW (R341), a fault of the hardware, or the release of a signature (R415). -/
inductive Turn where
  | event (i : Instr)
  | issue (ctx path : Nat)
  | lanes (ctx path n : Nat)
  | strike (e : Strike)
  | sign
  deriving DecidableEq, Repr

/-- The machine. `me`, `task` and `core` are the context under issue, its task and its core; `ctxs`, `tasks` and `cores`
hold the others. `agenda` names the turns to come; when it is empty the order of Machine/Sched.lean applies. `pace` is
the canopy time a step takes, `freeCtr` numbers the uses of free values, and `cut` bounds the lanes of the VTEST or FBW of this step: all
three are the model's own. -/
structure State where
  power : Bool
  time : Nat
  skew : Vector (Fin 4) 5
  pace : Nat
  agenda : List Turn
  freeCtr : Nat
  cut : Option Nat
  me : Context
  ctxs : List Context
  nextCtx : Nat
  task : Task
  tasks : List Task
  nextOp : Nat
  core : Core
  cores : List Core
  mem : Memory
  backing : List Host.Cell
  lines : List HomeLine
  evictH : List (Nat × Nat)
  msc : List SideLine
  flight : List Req
  transit : List Message
  remote : List Remote
  l2tlb : List (Nat × TlbEntry)
  pwc : List WalkEntry
  dev : Device
  deriving DecidableEq, Repr

/-! ## How a step can stop -/

/-- A machine stop. -/
inductive Fault where
  /-- A step of a module without supply: all device activity has ended (R415, table row POWER_LOSS). Raised by `step`
  alone. Safe: nothing runs on. -/
  | powerOff
  deriving DecidableEq, Repr

/-- A step the model refuses. -/
inductive Refusal where
  /-- An instruction without a meaning, by its mnemonic. Raised by an arm of Machine/Dispatch.lean alone. Safe: nothing
  is claimed of it. -/
  | notModelled (mnemonic : String)
  deriving DecidableEq, Repr

/-! ## Reset -/

/-- The uniform form 0 with tag 1 that every a-register starts with (R10). -/
def AReg.zero : AReg := ⟨0, 0, 0, 0, .int32⟩

/-- A v register at materialisation (R22). -/
def VReg.fresh : VReg := ⟨Vector.replicate 64 0, .invalid⟩

/-- An unbound m register (R62). -/
def MReg.unbound : MReg := ⟨none, .invalid⟩

/-- An empty setup slot (R152). -/
def Setup.empty : Setup := ⟨false, Vector.replicate 3 ⟨0, 0, 0, 0⟩, true, 0, 0, 0, 0, 0, 0, 0⟩

/-- A lane's LFSR for a seed (R80). -/
def lfsrSeed (seed : Word64) (lane : Nat) : Word32 :=
  BitVec.ofNat 32 (seed.toNat % 2 ^ 15 * 2 ^ 16 + lane * 2 ^ 8 + 0xA5)

/-- Registers of a context that has just been made (R10, R22, R67, R81, R175). -/
def Regs.reset : Regs where
  a := Vector.replicate 32 AReg.zero
  v := Vector.replicate 64 VReg.fresh
  vforms := []
  p := Vector.replicate 8 0
  w := Vector.replicate 8 (Vector.replicate 64 0)
  m := Vector.replicate 8 MReg.unbound
  slots := Vector.replicate 4 Setup.empty
  lfsr := Vector.ofFn fun l => lfsrSeed 0 l.val
  mode := 1
  xc := 0
  budget := 64
  errV := []
  errA := []
  errP := []

/-- No leading word. -/
def Lead.none : Lead := ⟨Option.none, Option.none, Option.none, Option.none, 0, false⟩

/-- A path at a packet with a mask. -/
def Path.start (id : Nat) (pc : BitVec 32) (mask : Word64) : Path where
  id := id
  pc := pc
  slot := 0
  mask := mask
  ret := []
  age := 0
  wait := .none
  held := Option.none
  run := Option.none
  words := Option.none
  lead := Lead.none
  snap := Option.none
  reseed := false
  pend := Option.none
  pendSlots := []
  first := Option.none
  serial := Option.none
  gone := 0

/-- No batch sealed yet (R123). -/
def Batches.reset : Batches := ⟨0, Vector.replicate 16 [], 0⟩

/-- An empty issue slot. -/
def Context.idle : Context where
  id := 0
  task := 0
  kind := .idle
  slotNo := 0
  area := none
  file := none
  box := ⟨0, 0, 0, 0, 0, 0⟩
  cursor := (0, 0, 0)
  seams := []
  holder := 0
  parkedAt := 0
  sealedOnce := false
  regs := Regs.reset
  path := Path.start 0 0 0
  paths := []
  recs := []
  nextPath := 1
  nextRec := 0
  frame := none
  horizon := 0
  copyBat := Batches.reset
  matBat := Batches.reset
  cause := 0
  causeAddr := 0
  causeLane := 0
  lastTile := none
  lastMark := 0
  calloutH := 0
  callout := false
  loadAfter := 0
  urgent := false
  test := none
  badWrites := 0
  netError := none

/-- No task. -/
def Task.none : Task where
  tid := 0
  serial := 0
  piece := 0
  region := 0
  part := 0
  core := 0
  code := 0
  entry := 0
  box := ⟨0, 0, 0, 0, 0, 0⟩
  stack := 0
  idem := false
  versRecord := false
  epb := 0
  epblen := 0
  plan := 0
  views := false
  fsize := 0
  vmode := false
  exposed := false
  aborts := 0
  retired := 0
  placedAt := 0
  pinned := false
  preqAt := Option.none
  asked := false
  choice := false
  saveAt := Option.none
  cancelled := []
  phase := .done
  commitAt := Option.none
  vlines := []
  vwct := []
  pad := []
  padSlots := []
  empty := []
  tiles := []
  inbox := []
  ringAt := (0, 0)
  credits := Vector.replicate 8 0
  withdrawn := Option.none
  windows := Vector.replicate 4 ⟨0, 0, false, false⟩
  epi := Vector.replicate 4 (Vector.replicate 16 0)
  ops := []
  horizon := 0
  void := false
  rerun := false
  badPad := []
  badTiles := []
  badInbox := []

/-- A core after bring-up: every bank OFF, every channel empty (R42, R122, R420). -/
def Core.reset (id : Nat) : Core where
  id := id
  out := false
  banks := Vector.replicate 96 ⟨.off, none, false⟩
  chans := Vector.replicate 4 ⟨[], 0, 0, false⟩
  cache := []
  tlb := []
  matq := []
  merge := []
  clearing := none
  testing := []

/-- No configuration record loaded: every reset field of R409 and R411. -/
def Config.none : Config where
  version := 0
  capPa := 0
  pool0 := 0
  parts := Vector.replicate 64 ⟨false, 0, 0, 0, 0, 0⟩
  maps := []
  hdm := Vector.replicate 8 ⟨false, 0, 0, 0⟩
  image := []

/-- The tracker register's reset value (R385). -/
def trackerReset : Word64 := 0x0000_0000_0040_10A0

/-- The control die after power-on: bring-up state ROM and the reset values of its registers (R375, R385, R401, R417,
R420, R422). -/
def Device.reset : Device where
  bringState := 0
  bringDetail := 0
  cfg := Config.none
  verCounter := 0
  leaf := 0
  epochs := Vector.replicate 64 0
  roots := Vector.replicate 64 0
  caps := Vector.replicate 64 0
  pools := Vector.replicate 64 0
  areas := []
  tracker := trackerReset
  hot := []
  missCount := 0
  epochAt := 0
  swaps := []
  swapErrors := 0
  sag := Vector.replicate 4 ⟨0, 0, 0, 0, 0, 0, 0⟩
  dieStop := Vector.replicate 4 false
  dieDown := Vector.replicate 4 none
  status := (0, 0)
  regions := []
  queues := []
  sems := []
  serial := 0
  launches := []
  lastCommit := 0
  waiting := []
  saved := []
  spilled := []
  reports := []
  hostReads := []
  mmio := []
  hostHeld := []
  backInv := []
  softErrors := 0
  corrected := 0
  badLines := []
  posted := []
  fwCounter := 0
  lastGood := []
  signing := none

/-- The module right after power-on (R420): no task, no context, no byte of memory listed. -/
def State.reset : State where
  power := true
  time := 0
  skew := Vector.replicate 5 0
  pace := 1
  agenda := []
  freeCtr := 0
  cut := none
  me := Context.idle
  ctxs := []
  nextCtx := 1
  task := Task.none
  tasks := []
  nextOp := 0
  core := Core.reset 0
  cores := []
  mem := []
  backing := []
  lines := []
  evictH := []
  msc := []
  flight := []
  transit := []
  remote := []
  l2tlb := []
  pwc := []
  dev := Device.reset

end Sys2Proof.Machine
end

