-- ==== Sys2Proof/Machine/Flags.lean ====
section
/-! DEFINITION. Floating-point formats (R71, R72), values, rounding (R79, R80), the exception flags and default results
(R83 to R86), and the sum cell (R94 to R96). Operands are bit patterns held as numbers. -/

namespace Sys2Proof.Machine

/-! ## Formats -/

/-- A format of R71: exponent and fraction widths, bias, and its largest finite value as a significand of `frac + 1` bits
and an exponent. `ieee` formats have infinities and signalling NaNs. -/
structure Fmt where
  exp : Nat
  frac : Nat
  bias : Nat
  topSig : Nat
  topExp : Nat
  ieee : Bool
  infinite : Bool
  nanBits : Nat
  deriving DecidableEq, Repr

/-- The format of a type code (R71, R72, R214). Type 14 is E2M1. -/
def fmtOf (t : Nat) : Fmt :=
  if t = 11 then ⟨11, 52, 1023, 2 ^ 53 - 1, 1023, true, true, 0x7FF8_0000_0000_0000⟩
  else if t = 8 then ⟨5, 10, 15, 2 ^ 11 - 1, 15, true, true, 0x7E00⟩
  else if t = 9 then ⟨8, 7, 127, 255, 127, true, true, 0x7FC0⟩
  else if t = 12 then ⟨4, 3, 7, 14, 8, false, false, 0x7F⟩
  else if t = 13 then ⟨5, 2, 15, 7, 15, false, true, 0x7E⟩
  else if t = 14 then ⟨2, 1, 1, 3, 2, false, false, 0⟩
  else ⟨8, 23, 127, 2 ^ 24 - 1, 127, true, true, 0x7FC0_0000⟩

/-- The width of a format. -/
def Fmt.width (f : Fmt) : Nat := 1 + f.exp + f.frac

/-- E4M3 or E2M1: the exponent field of all ones holds normal values. -/
def Fmt.fullTop (f : Fmt) : Bool := !f.infinite

/-! ## Values -/

/-- A value: zero with its sign, a finite value sig·2^e with sig positive, an infinity, a NaN with its fraction. -/
inductive FVal where
  | zero (neg : Bool)
  | fin (neg : Bool) (sig : Nat) (e : Int)
  | inf (neg : Bool)
  | nan (neg : Bool) (signalling : Bool) (frac : Nat)
  deriving DecidableEq, Repr

/-- The value of a bit pattern (R71, R72). -/
def unpack (f : Fmt) (x : Nat) : FVal :=
  let neg := bitAt x (f.exp + f.frac)
  let e := bitsOf x f.frac f.exp
  let m := bitsOf x 0 f.frac
  if e = 0 then
    if m = 0 then .zero neg else .fin neg m (1 - Int.ofNat f.bias - Int.ofNat f.frac)
  else if e = 2 ^ f.exp - 1 ∧ f.infinite = true then
    if m = 0 then .inf neg else .nan neg (f.ieee && !bitAt m (f.frac - 1)) m
  else if e = 2 ^ f.exp - 1 ∧ f.exp = 4 ∧ m = 2 ^ f.frac - 1 then .nan neg false m
  else .fin neg (2 ^ f.frac + m) (Int.ofNat e - Int.ofNat f.bias - Int.ofNat f.frac)

/-- A value is subnormal in its format. -/
def isSubnormal (f : Fmt) (x : Nat) : Bool := bitsOf x f.frac f.exp == 0 && bitsOf x 0 f.frac != 0

/-- An operand under FZI (R86): a subnormal of an IEEE format reads as zero of its sign. -/
def readOperand (f : Fmt) (fzi : Bool) (x : Nat) : Nat :=
  if fzi && f.ieee && isSubnormal f x then atBit1 x (f.exp + f.frac) else x
where
  /-- The bit of a number at a position, in place. -/
  atBit1 (x i : Nat) : Nat := bitNat (bitAt x i) * 2 ^ i

/-- The bit pattern of a signed zero. -/
def zeroBits (f : Fmt) (neg : Bool) : Nat := bitNat neg * 2 ^ (f.exp + f.frac)

/-- The bit pattern of an infinity; in a format without one, of the largest finite value. -/
def infBits (f : Fmt) (neg : Bool) : Nat := zeroBits f neg + (2 ^ f.exp - 1) * 2 ^ f.frac

/-- The bit pattern of the largest finite value. -/
def topBits (f : Fmt) (neg : Bool) : Nat :=
  zeroBits f neg + (f.topExp + f.bias) * 2 ^ f.frac + (f.topSig - 2 ^ f.frac)

/-! ## Flags (R83): bit 0 NV, 1 DZ, 2 OF, 3 UF, 4 NX -/

/-- NV. -/
def flagNV : Nat := 1
/-- DZ. -/
def flagDZ : Nat := 2
/-- OF. -/
def flagOF : Nat := 4
/-- UF. -/
def flagUF : Nat := 8
/-- NX. -/
def flagNX : Nat := 16

/-- Two flag sets joined. -/
def orFlags (a b : Nat) : Nat := a ||| b

/-! ## Rounding -/

/-- How a word rounds (R79, R81): the code in force (1 to 6), saturation, FZO, NANP, and the LFSR value for code 6. -/
structure Round where
  code : Nat
  sat : Bool
  fzo : Bool
  nanp : Bool
  u : Nat
  deriving DecidableEq, Repr

/-- A significand with `drop` low bits rounded away (R79, R80): the result and whether it is inexact. -/
def roundBits (code u : Nat) (neg : Bool) (sig drop : Nat) : Nat × Bool :=
  let fl := sig / 2 ^ drop
  let rem := sig % 2 ^ drop
  let up :=
    match code with
    | 1 => decide (2 ^ drop < 2 * rem) || (decide (2 * rem = 2 ^ drop) && fl % 2 == 1)
    | 2 => false
    | 3 => !neg
    | 4 => neg
    | 5 => decide (2 ^ drop ≤ 2 * rem)
    | _ => decide (u * 2 ^ drop < rem * 2 ^ 32)
  if rem = 0 then (fl, false) else if up then (fl + 1, true) else (fl, true)

/-- A significand at exponent `e` rounded to a multiple of 2^q. -/
def roundTo (code u : Nat) (neg : Bool) (sig : Nat) (e q : Int) : Nat × Bool :=
  if q ≤ e then (sig * 2 ^ (e - q).toNat, false) else roundBits code u neg sig (q - e).toNat

/-- A result: its bits, its flags, and whether a finite exact result was rounded (R80). -/
structure FRes where
  bits : Nat
  flags : Nat
  rounded : Bool
  deriving DecidableEq, Repr

/-- A finite exact result sig·2^e rounded into a format (R79, R83, R85, R86). An exact result that is no binary fraction
comes with a last bit that stands for the rest, far below the last place. -/
def roundPack (f : Fmt) (r : Round) (neg : Bool) (sig : Nat) (e : Int) : FRes :=
  if sig = 0 then ⟨zeroBits f neg, 0, true⟩
  else
    let top := e + Int.ofNat (bitLen sig) - 1
    let qFree := top - Int.ofNat f.frac
    let emin := 1 - Int.ofNat f.bias
    let free := roundTo r.code r.u neg sig e qFree
    let freeExp := if free.1 = 2 ^ (f.frac + 1) then top + 1 else top
    let freeSig := if free.1 = 2 ^ (f.frac + 1) then 2 ^ f.frac else free.1
    let tooBig := decide (Int.ofNat f.topExp < freeExp) || (freeExp == Int.ofNat f.topExp && decide (f.topSig < freeSig))
    let tiny := decide (freeExp < emin)
    if tooBig then
      let zeroward := r.code = 2 ∨ (r.code = 4 ∧ neg = false) ∨ (r.code = 3 ∧ neg = true)
      let bits :=
        if f.exp = 2 ∨ r.sat = true ∨ zeroward then topBits f neg
        else if f.infinite then infBits f neg else f.nanBits
      ⟨bits, flagOF + flagNX, true⟩
    else if tiny && r.fzo && f.ieee then ⟨zeroBits f neg, flagUF + flagNX, true⟩
    else
      let q := if qFree < emin - Int.ofNat f.frac then emin - Int.ofNat f.frac else qFree
      let got := roundTo r.code r.u neg sig e q
      let field :=
        if tiny then got.1
        else if q < qFree + 1 ∧ got.1 = 2 ^ (f.frac + 1) then (top + 1 + Int.ofNat f.bias).toNat * 2 ^ f.frac
        else if got.1 < 2 ^ f.frac then got.1
        else (q + Int.ofNat f.frac + Int.ofNat f.bias).toNat * 2 ^ f.frac + (got.1 - 2 ^ f.frac)
      ⟨zeroBits f neg + field, if got.2 then (if tiny then flagUF + flagNX else flagNX) else 0, true⟩

/-! ## NaN results (R85) -/

/-- A NaN's fraction carried to another format, made quiet. -/
def carryNan (g f : Fmt) (neg : Bool) (frac : Nat) : Nat :=
  if !f.ieee then f.nanBits
  else
    let m := if f.frac ≤ g.frac then frac / 2 ^ (g.frac - f.frac) else frac * 2 ^ (f.frac - g.frac)
    let m := if bitAt m (f.frac - 1) then m else m + 2 ^ (f.frac - 1)
    infBits f neg + m

/-- The NaN that operands of format `g` give in format `f`: canonical, or under NANP the first NaN operand. -/
def nanResult (g f : Fmt) (nanp : Bool) : List FVal → Nat
  | [] => f.nanBits
  | .nan neg _ frac :: rest => if nanp then carryNan g f neg frac else nanResult g f nanp rest
  | _ :: rest => nanResult g f nanp rest

/-- A value is a NaN. -/
def FVal.isNan : FVal → Bool
  | .nan _ _ _ => true
  | _ => false

/-- A value is a signalling NaN. -/
def FVal.isSnan : FVal → Bool
  | .nan _ s _ => s
  | _ => false

/-- NV for a signalling NaN among operands. -/
def snanFlag (l : List FVal) : Nat := if l.any FVal.isSnan then flagNV else 0

/-- A result that is not rounded. -/
def plainRes (bits flags : Nat) : FRes := ⟨bits, flags, false⟩

/-- An invalid operation: the NaN of the operands' format with NV. -/
def invalidRes (f : Fmt) (r : Round) (l : List FVal) : FRes := plainRes (nanResult f f r.nanp l) flagNV

/-! ## Arithmetic (R87, R276) -/

/-- The sign of a value. -/
def FVal.neg : FVal → Bool
  | .zero n => n
  | .fin n _ _ => n
  | .inf n => n
  | .nan n _ _ => n

/-- A value with its sign changed where `flip` says so. -/
def FVal.flip (flip : Bool) : FVal → FVal
  | .zero n => .zero (n != flip)
  | .fin n m e => .fin (n != flip) m e
  | .inf n => .inf (n != flip)
  | .nan n s m => .nan n s m

/-- The sign of an exact zero sum (R85). -/
def zeroSumNeg (code : Nat) (n k : Bool) : Bool := if n = k then n else code == 4

/-- A signed number rounded. -/
def roundInt (f : Fmt) (r : Round) (x : Int) (e : Int) (zeroNeg : Bool) : FRes :=
  if x = 0 then ⟨zeroBits f zeroNeg, 0, true⟩ else roundPack f r (decide (x < 0)) x.natAbs e

/-- A finite value as an integer at a common exponent. -/
def finInt (neg : Bool) (sig : Nat) (e q : Int) : Int :=
  let m := Int.ofNat (sig * 2 ^ (e - q).toNat)
  if neg then -m else m

/-- The sum of two values that are not NaNs. -/
def addVals (f : Fmt) (r : Round) (ops : List FVal) (x y : FVal) : FRes :=
  match x, y with
  | .inf n, .inf k => if n = k then plainRes (infBits f n) 0 else invalidRes f r ops
  | .inf n, _ => plainRes (infBits f n) 0
  | _, .inf k => plainRes (infBits f k) 0
  | .zero n, .zero k => ⟨zeroBits f (zeroSumNeg r.code n k), 0, true⟩
  | .zero _, .fin k m e => roundPack f r k m e
  | .fin n m e, .zero _ => roundPack f r n m e
  | .fin n m e, .fin k l d =>
    let q := if e ≤ d then e else d
    roundInt f r (finInt n m e q + finInt k l d q) q (r.code == 4)
  | _, _ => invalidRes f r ops

/-- FADD (R276) on bit patterns; `flip` negates the second operand, for FSUB. -/
def fAdd (f : Fmt) (r : Round) (flip : Bool) (a b : Nat) : FRes :=
  let x := unpack f a
  let y := unpack f b
  if x.isNan || y.isNan then plainRes (nanResult f f r.nanp [x, y]) (snanFlag [x, y])
  else addVals f r [x, y] x (y.flip flip)

/-- The exact product of two values that are not NaNs; none for 0 × ∞. -/
def mulVals (x y : FVal) : Option FVal :=
  let n := x.neg != y.neg
  match x, y with
  | .inf _, .zero _ => none
  | .zero _, .inf _ => none
  | .inf _, _ => some (.inf n)
  | _, .inf _ => some (.inf n)
  | .fin _ m e, .fin _ l d => some (.fin n (m * l) (e + d))
  | _, _ => some (.zero n)

/-- FMUL (R276). -/
def fMul (f : Fmt) (r : Round) (a b : Nat) : FRes :=
  let x := unpack f a
  let y := unpack f b
  if x.isNan || y.isNan then plainRes (nanResult f f r.nanp [x, y]) (snanFlag [x, y])
  else match mulVals x y with
    | none => invalidRes f r [x, y]
    | some (.inf n) => plainRes (infBits f n) 0
    | some (.fin n m e) => roundPack f r n m e
    | some v => ⟨zeroBits f v.neg, 0, true⟩

/-- FMA (R276): a·b + c rounded once; 0 × ∞ raises NV whatever c is. -/
def fFma (f : Fmt) (r : Round) (a b c : Nat) : FRes :=
  let x := unpack f a
  let y := unpack f b
  let z := unpack f c
  let ops := [x, y, z]
  if x.isNan || y.isNan then plainRes (nanResult f f r.nanp ops) (snanFlag ops)
  else match mulVals x y with
    | none => invalidRes f r ops
    | some p => if z.isNan then plainRes (nanResult f f r.nanp ops) (snanFlag ops) else addVals f r ops p z

/-- Extra significant bits of a quotient or root before the bit that stands for the rest. -/
def extraBits : Nat := 40

/-- A number with a last bit set where a remainder is left. -/
def withRest (q : Nat) (rest : Bool) : Nat := 2 * q + bitNat rest

/-- The quotient of two finite values rounded. -/
def divFin (f : Fmt) (r : Round) (neg : Bool) (m : Nat) (e : Int) (l : Nat) (d : Int) : FRes :=
  let k := f.frac + extraBits + bitLen l
  let n := m * 2 ^ k
  roundPack f r neg (withRest (n / l) (n % l != 0)) (e - d - Int.ofNat k - 1)

/-- FDIV (R276). -/
def fDiv (f : Fmt) (r : Round) (a b : Nat) : FRes :=
  let x := unpack f a
  let y := unpack f b
  let n := x.neg != y.neg
  if x.isNan || y.isNan then plainRes (nanResult f f r.nanp [x, y]) (snanFlag [x, y])
  else match x, y with
    | .inf _, .inf _ => invalidRes f r [x, y]
    | .zero _, .zero _ => invalidRes f r [x, y]
    | .inf _, _ => plainRes (infBits f n) 0
    | _, .inf _ => plainRes (zeroBits f n) 0
    | _, .zero _ => plainRes (infBits f n) flagDZ
    | .zero _, _ => ⟨zeroBits f n, 0, true⟩
    | .fin _ m e, .fin _ l d => divFin f r n m e l d
    | _, _ => invalidRes f r [x, y]

/-- The integer square root, bit by bit from bit `n − 1` down. -/
def isqrtFrom : Nat → Nat → Nat → Nat
  | 0, _, r => r
  | n + 1, x, r => isqrtFrom n x (if (r + 2 ^ n) * (r + 2 ^ n) ≤ x then r + 2 ^ n else r)

/-- The integer square root. -/
def isqrt (x : Nat) : Nat := isqrtFrom (bitLen x / 2 + 1) x 0

/-- The square root of a positive finite value rounded. -/
def sqrtFin (f : Fmt) (r : Round) (m : Nat) (e : Int) : FRes :=
  let k := 2 * (f.frac + extraBits) + bitNat (decide (e % 2 = 1))
  let n := m * 2 ^ k
  let q := isqrt n
  roundPack f r false (withRest q (q * q != n)) ((e - Int.ofNat k) / 2 - 1)

/-- The reciprocal square root of a positive finite value rounded. -/
def rsqrtFin (f : Fmt) (r : Round) (m : Nat) (e : Int) : FRes :=
  let m := if e % 2 = 1 then 2 * m else m
  let e := if e % 2 = 1 then e - 1 else e
  let k := f.frac + extraBits + bitLen m
  let q := isqrt (2 ^ (2 * k) / m)
  roundPack f r false (withRest q (q * q * m != 2 ^ (2 * k))) (-(e / 2) - Int.ofNat k - 1)

/-! ## Functions rounded once (R87): interval evaluation in fixed point, with doubling precision (log entry 17) -/

/-- Guard bits of the fixed-point evaluation, and the error bound in its last places. -/
def guardBits : Nat := 32
/-- The error bound. -/
def guardError : Nat := 2 ^ 20

/-- The sum Σ ±t/(2k+1) over powers of 1/n², from a first power; `alt` alternates the signs. -/
def atanSeries (alt : Bool) (n : Nat) : Nat → Nat → Nat → Bool → Int → Int
  | 0, _, _, _, acc => acc
  | fuel + 1, t, k, neg, acc =>
    if t = 0 then acc
    else
      let term := Int.ofNat (t / (2 * k + 1))
      atanSeries alt n fuel (t / (n * n)) (k + 1) (alt && !neg) (if neg then acc - term else acc + term)

/-- ln 2 in fixed point with `p` fraction bits: 2·artanh(1/3). -/
def ln2Fixed (p : Nat) : Nat := (2 * atanSeries false 3 p (2 ^ p / 3) 0 false 0).toNat

/-- π in fixed point with `p` fraction bits: 16·arctan(1/5) − 4·arctan(1/239). -/
def piFixed (p : Nat) : Nat :=
  (16 * atanSeries true 5 p (2 ^ p / 5) 0 false 0 - 4 * atanSeries true 239 p (2 ^ p / 239) 0 false 0).toNat

/-- The sum of t^k/k! from a term on, in fixed point. -/
def expSeries (p t : Nat) : Nat → Nat → Nat → Nat → Nat
  | 0, _, _, acc => acc
  | fuel + 1, term, k, acc =>
    if term = 0 then acc else expSeries p t fuel (term * t / 2 ^ p / (k + 1)) (k + 1) (acc + term)

/-- The alternating sum for sine and cosine from a term on: x², the term, its index, its sign. -/
def trigSeries (p x2 : Nat) : Nat → Nat → Nat → Bool → Int → Int
  | 0, _, _, _, acc => acc
  | fuel + 1, term, k, neg, acc =>
    if term = 0 then acc
    else trigSeries p x2 fuel (term * x2 / 2 ^ p / ((k + 1) * (k + 2))) (k + 2) (!neg)
      (if neg then acc - Int.ofNat term else acc + Int.ofNat term)

/-- A signed value in an interval of fixed-point numbers with `p` fraction bits. -/
structure Span where
  lo : Int
  hi : Int
  p : Nat
  deriving DecidableEq, Repr

/-- A fixed-point number with its error bound, without the guard bits. -/
def spanOf (p : Nat) (x : Int) (error : Nat) : Span :=
  ⟨(x - Int.ofNat error) / Int.ofNat (2 ^ guardBits), (x + Int.ofNat error) / Int.ofNat (2 ^ guardBits) + 1, p⟩

/-- A finite value in fixed point, rounded down in magnitude. -/
def toFixed (sig : Nat) (e : Int) (p : Nat) : Nat :=
  let s := e + Int.ofNat p
  if 0 ≤ s then sig * 2 ^ s.toNat else sig / 2 ^ (-s).toNat

/-- 2^x for a finite x that is no integer, below 2^13 in magnitude: an interval for 2^(x − n), and n = ⌊x⌋. -/
def exp2Span (neg : Bool) (sig : Nat) (e : Int) (p : Nat) : Span × Int :=
  let d := (-e).toNat
  let whole := Int.ofNat sig * (if neg then -1 else 1)
  let n := whole / Int.ofNat (2 ^ d)
  let fr := (whole % Int.ofNat (2 ^ d)).toNat
  let g := p + guardBits
  let t := toFixed fr e g * ln2Fixed g / 2 ^ g
  (spanOf p (Int.ofNat (expSeries g t g (2 ^ g) 0 0)) guardError, n)

/-- log₂ of a positive finite value that is no power of two. -/
def log2Span (sig : Nat) (e : Int) (p : Nat) : Span :=
  let n := bitLen sig - 1
  let g := p + guardBits
  let z := (sig - 2 ^ n) * 2 ^ g / (sig + 2 ^ n)
  let z2 := z * z / 2 ^ g
  let ln := 2 * logSeries g z2 g z 0 0
  spanOf p (Int.ofNat (ln * 2 ^ g / ln2Fixed g) + (Int.ofNat n + e) * Int.ofNat (2 ^ g)) guardError
where
  /-- Σ z^(2k+1)/(2k+1). -/
  logSeries (p z2 : Nat) : Nat → Nat → Nat → Nat → Nat
    | 0, _, _, acc => acc
    | fuel + 1, t, k, acc =>
      if t = 0 then acc else logSeries p z2 fuel (t * z2 / 2 ^ p) (k + 1) (acc + t / (2 * k + 1))

/-- sin (or cos) of a finite value of magnitude at least 2^−60: reduction by π/2, then the series. -/
def trigSpan (cosine : Bool) (neg : Bool) (sig : Nat) (e : Int) (p : Nat) : Span :=
  let big := (Int.ofNat (bitLen sig) + e).toNat
  let g := p + guardBits
  let w := g + big + 8
  let x := toFixed sig e w
  let half := piFixed w / 2
  let k := x / half
  let r := (x - k * half) / 2 ^ (w - g)
  let x2 := r * r / 2 ^ g
  let quad := if cosine then (k + 1) % 4 else k % 4
  let v := if quad % 2 = 0 then trigSeries g x2 g r 1 false 0 else trigSeries g x2 g (2 ^ g) 0 false 0
  let v := if 2 ≤ quad then -v else v
  spanOf p (if neg && !cosine then -v else v) guardError

/-- The number just above an end of an interval, as a significand that ends in 1, at one fraction bit more. -/
def spanRound (f : Fmt) (r : Round) (x : Int) (p : Nat) (scale : Int) : FRes :=
  roundPack f r (decide (x < 0)) (if x < 0 then 2 * x.natAbs - 1 else 2 * x.natAbs + 1) (scale - Int.ofNat p - 1)

/-- Precision doubles until both ends of the interval round alike, far enough from zero; the last try stands. -/
def settleSpan (f : Fmt) (r : Round) (span : Nat → Span × Int) : Nat → Nat → FRes
  | 0, p => spanRound f r (span p).1.lo p (span p).2
  | fuel + 1, p =>
    let s := span p
    let a := spanRound f r s.1.lo p s.2
    let b := spanRound f r (s.1.hi - 1) p s.2
    if a = b ∧ f.frac + extraBits ≤ bitLen s.1.lo.natAbs ∧ decide (s.1.lo < 0) = decide (s.1.hi ≤ 0) then a
    else settleSpan f r span fuel (2 * p)

/-- A function by interval, from 256 fraction bits on. -/
def functionRes (f : Fmt) (r : Round) (span : Nat → Span × Int) : FRes := settleSpan f r span 8 256

/-- 2^x for a finite non-zero x (R87, R279). Far out it stands for a value that rounds alike. -/
def exp2Fin (f : Fmt) (r : Round) (neg : Bool) (sig : Nat) (e : Int) : FRes :=
  if 13 < Int.ofNat (bitLen sig) + e then roundPack f r false 3 (if neg then -9000 else 9000)
  else if 0 ≤ e ∨ sig % 2 ^ (-e).toNat = 0 then
    let n := if 0 ≤ e then Int.ofNat (sig * 2 ^ e.toNat) else Int.ofNat (sig / 2 ^ (-e).toNat)
    roundPack f r false 1 (if neg then -n else n)
  else if Int.ofNat (bitLen sig) + e < -120 then
    if neg then roundPack f r false (2 ^ 256 - 1) (-256) else roundPack f r false (2 ^ 256 + 1) (-256)
  else functionRes f r (exp2Span neg sig e)

/-- log₂ of a positive finite value (R87). -/
def log2Fin (f : Fmt) (r : Round) (sig : Nat) (e : Int) : FRes :=
  if sig = 2 ^ (bitLen sig - 1) then roundInt f r (Int.ofNat (bitLen sig - 1) + e) 0 false
  else functionRes f r fun p => (log2Span sig e p, 0)

/-- sin of a finite non-zero value (R87). -/
def sinFin (f : Fmt) (r : Round) (neg : Bool) (sig : Nat) (e : Int) : FRes :=
  if Int.ofNat (bitLen sig) + e < -60 then roundPack f r neg (sig * 2 ^ 256 - 1) (e - 256)
  else functionRes f r fun p => (trigSpan false neg sig e p, 0)

/-- cos of a finite non-zero value (R87). -/
def cosFin (f : Fmt) (r : Round) (neg : Bool) (sig : Nat) (e : Int) : FRes :=
  if Int.ofNat (bitLen sig) + e < -60 then roundPack f r false (2 ^ 256 - 1) (-256)
  else functionRes f r fun p => (trigSpan true neg sig e p, 0)

/-- The value is 1. -/
def isOne (f : Fmt) (x : Nat) : Bool := x == f.bias * 2 ^ f.frac

/-- The function unit (R276, R279): 0 √a, 1 1/a, 2 1/√a, 3 2^a, 4 log₂ a, 5 sin a, 6 cos a. -/
def fUnit (fn : Nat) (f : Fmt) (r : Round) (a : Nat) : FRes :=
  let x := unpack f a
  let bad := invalidRes f r [x]
  let one := f.bias * 2 ^ f.frac
  match x with
  | .nan _ _ _ => plainRes (nanResult f f r.nanp [x]) (snanFlag [x])
  | .zero n =>
    match fn with
    | 0 => plainRes (zeroBits f n) 0
    | 1 => plainRes (infBits f n) flagDZ
    | 2 => plainRes (infBits f n) flagDZ
    | 3 => plainRes one 0
    | 4 => plainRes (infBits f true) flagDZ
    | 5 => plainRes (zeroBits f n) 0
    | _ => plainRes one 0
  | .inf n =>
    match fn with
    | 0 => if n then bad else plainRes (infBits f false) 0
    | 1 => plainRes (zeroBits f n) 0
    | 2 => if n then bad else plainRes (zeroBits f false) 0
    | 3 => if n then plainRes (zeroBits f false) 0 else plainRes (infBits f false) 0
    | 4 => if n then bad else plainRes (infBits f false) 0
    | _ => bad
  | .fin n m e =>
    if isOne f a && decide (fn < 5) then
      plainRes (if fn = 3 then one + 2 ^ f.frac else if fn = 4 then 0 else one) 0
    else match fn with
      | 0 => if n then bad else sqrtFin f r m e
      | 1 => divFin f r n 1 0 m e
      | 2 => if n then bad else rsqrtFin f r m e
      | 3 => exp2Fin f r n m e
      | 4 => if n then bad else log2Fin f r m e
      | 5 => sinFin f r n m e
      | _ => cosFin f r n m e

/-! ## Comparison, minimum and maximum, classes (R85, R277, R278, R280) -/

/-- −1, 0 or 1 as a first value that is no NaN is below, equal to or above a second; zeros are equal. -/
def cmpVals (x y : FVal) : Int :=
  match x, y with
  | .inf n, .inf k => if n = k then 0 else if n then -1 else 1
  | .inf n, _ => if n then -1 else 1
  | _, .inf k => if k then 1 else -1
  | .fin n m e, .fin k l d =>
    let q := if e ≤ d then e else d
    (finInt n m e q - finInt k l d q).sign
  | .fin n _ _, _ => if n then -1 else 1
  | _, .fin k _ _ => if k then 1 else -1
  | _, _ => 0

/-- A subnormal result becomes a zero under FZO, with UF and NX (R277). -/
def flushOut (f : Fmt) (fzo : Bool) (bits flags : Nat) : FRes :=
  if fzo && f.ieee && isSubnormal f bits then plainRes (zeroBits f (bitAt bits (f.exp + f.frac))) (orFlags flags (flagUF + flagNX))
  else plainRes bits flags

/-- FMIN and FMAX (R85, R277): −0 lies below +0, a NaN loses to a number. -/
def fMinMax (max : Bool) (f : Fmt) (r : Round) (a b : Nat) : FRes :=
  let x := unpack f a
  let y := unpack f b
  let nv := snanFlag [x, y]
  if x.isNan && y.isNan then plainRes (nanResult f f r.nanp [x, y]) nv
  else if x.isNan then flushOut f r.fzo b nv
  else if y.isNan then flushOut f r.fzo a nv
  else
    let c := cmpVals x y
    let below := decide (c < 0) || (c == 0 && x.neg && !y.neg)
    flushOut f r.fzo (if below != max then a else b) nv

/-- FCMP (R278): the relation and NV. -/
def fCompare (c : Nat) (f : Fmt) (a b : Nat) : Bool × Nat :=
  let x := unpack f a
  let y := unpack f b
  let un := x.isNan || y.isNan
  let o := cmpVals x y
  let holds :=
    match c with
    | 0 => !un && o == 0
    | 1 => un || o != 0
    | 2 => !un && decide (o < 0)
    | 3 => !un && decide (o ≤ 0)
    | 4 => !un && decide (0 < o)
    | 5 => !un && decide (0 ≤ o)
    | 6 => un
    | _ => !un
  (holds, if 2 ≤ c ∧ c ≤ 5 then (if un then flagNV else 0) else snanFlag [x, y])

/-- The class bit of R280. -/
def fClass (f : Fmt) (a : Nat) : Nat :=
  match unpack f a with
  | .inf n => if n then 0 else 7
  | .zero n => if n then 3 else 4
  | .nan _ s _ => if s then 8 else 9
  | .fin n _ _ => if isSubnormal f a then (if n then 2 else 5) else if n then 1 else 6

/-! ## Conversion (R88, R283) -/

/-- The value of a source element of a type that is no integer: a float, E2M1 with scale 1, or a half-step code. -/
def cvtValue (t x : Nat) : FVal :=
  if t = 15 then (let k := 2 * signedOf 4 x + 1; .fin (decide (k < 0)) k.natAbs (-1))
  else if t = 16 then (let k := 2 * signedOf 8 x + 1; .fin (decide (k < 0)) k.natAbs (-1))
  else unpack (fmtOf t) x

/-- The integer a type code reads (R78, R214). -/
def intValue (t bits x : Nat) : Int := if t % 2 = 1 then signedOf bits x else Int.ofNat (x % 2 ^ bits)

/-- The least and greatest values of an integer type. -/
def intRange (signed : Bool) (bits : Nat) : Int × Int :=
  if signed then (-(Int.ofNat (2 ^ (bits - 1))), Int.ofNat (2 ^ (bits - 1)) - 1) else (0, Int.ofNat (2 ^ bits) - 1)

/-- An integer clamped to a range. -/
def clampInt (lo hi x : Int) : Int := if x < lo then lo else if hi < x then hi else x

/-- The patterns that an out-of-range source and a NaN give an integer type (R88). -/
def cvtBad (signed sat : Bool) (bits : Nat) (nan : Bool) (neg : Bool) : Int :=
  let range := intRange signed bits
  if sat then (if nan then 0 else if neg then range.1 else range.2) else if signed then range.1 else range.2

/-- A finite value rounded to an integer, inexact or not. -/
def roundToInt (r : Round) (neg : Bool) (sig : Nat) (e : Int) : Int × Bool :=
  let got := roundTo r.code r.u neg sig e 0
  (if neg then -Int.ofNat got.1 else Int.ofNat got.1, got.2)

/-- A value converted to an integer type (R88). A value out of range is a special case of R83 and no rounding (R80). -/
def cvtToInt (r : Round) (signed : Bool) (bits : Nat) (v : FVal) : FRes :=
  let range := intRange signed bits
  match v with
  | .nan _ _ _ => plainRes (wrapInt bits (cvtBad signed r.sat bits true false)) flagNV
  | .inf n => plainRes (wrapInt bits (cvtBad signed r.sat bits false n)) flagNV
  | .zero _ => ⟨0, 0, true⟩
  | .fin n m e =>
    let k := roundToInt r n m e
    if k.1 < range.1 ∨ range.2 < k.1 then plainRes (wrapInt bits (cvtBad signed r.sat bits false n)) flagNV
    else ⟨wrapInt bits k.1, if k.2 then flagNX else 0, true⟩

/-- A value converted to a float format (R85, R88). A conversion to a wider float is exact and does not round. -/
def cvtToFloat (r : Round) (g : Fmt) (f : Fmt) (wider : Bool) (v : FVal) : FRes :=
  match v with
  | .nan n s m =>
    if f.exp = 2 then plainRes 0 flagNV
    else plainRes (if r.nanp then carryNan g f n m else f.nanBits) (if s then flagNV else 0)
  | .inf n =>
    if f.exp = 2 then plainRes 0 flagNV
    else if f.infinite then plainRes (infBits f n) 0
    else plainRes (if r.sat then topBits f n else f.nanBits) flagNV
  | .zero n => ⟨zeroBits f n, 0, !wider⟩
  | .fin n m e => { roundPack f r n m e with rounded := !wider }

/-- A type is a float that another holds exactly: wider in exponent and fraction (R88). E2M1 has a scale, and its value is rounded. -/
def widerFloat (st dt : Nat) : Bool :=
  decide (8 ≤ st) && decide (st ≤ 13) && decide ((fmtOf st).exp ≤ (fmtOf dt).exp)
    && decide ((fmtOf st).frac ≤ (fmtOf dt).frac) && decide (typeWidth st < typeWidth dt)
where
  /-- The width of a float type in bits. -/
  typeWidth (t : Nat) : Nat := (fmtOf t).width

/-- CVT of one element (R88): `st` and `dt` are type codes, with their widths. The saturation of `r` includes SATD. -/
def cvtElem (r : Round) (fzi : Bool) (st sbits dt dbits x : Nat) : FRes :=
  if st ≤ 7 then
    let v := intValue st sbits x
    if dt ≤ 7 then
      let range := intRange (dt % 2 == 1) dbits
      plainRes (wrapInt dbits (if r.sat then clampInt range.1 range.2 v else v)) 0
    else roundInt (fmtOf dt) r v 0 false
  else
    let x := if st ≤ 14 then readOperand (fmtOf st) fzi x else x
    let v := cvtValue st x
    if dt ≤ 7 then cvtToInt r (dt % 2 == 1) dbits v else cvtToFloat r (fmtOf st) (fmtOf dt) (widerFloat st dt) v

/-! ## Sum cells (R94 to R96) -/

/-- The number of bits of VAL, and the weight of its bit 0. -/
def cellBits : Nat := 504

/-- What a value adds to a cell (R95), in units of 2^−160. -/
def addendOf : FVal → Addend
  | .zero _ => .finite 0
  | .fin n m e => .finite (finInt n m e (-160))
  | .inf n => if n then .negInf else .posInf
  | .nan _ _ _ => .nan

/-- A flag bit of a cell set. -/
def cellFlag (cell i : Nat) : Nat := if bitAt cell i then cell else cell + 2 ^ i

/-- A value added to a cell (R95): the cell as a number of 512 bits. -/
def cellAdd (cell : Nat) : Addend → Nat
  | .finite k => cell / 2 ^ cellBits * 2 ^ cellBits + wrapInt cellBits (Int.ofNat (cell % 2 ^ cellBits) + k)
  | .posInf => cellFlag cell 504
  | .negInf => cellFlag cell 505
  | .nan => cellFlag cell 506

/-- What an element of a type adds to a cell (R95, R284). -/
def cellValue (t bits x : Nat) : Addend :=
  if t ≤ 7 then .finite (intValue t bits x * Int.ofNat (2 ^ 160)) else addendOf (unpack (fmtOf t) x)

/-- A cell rounded once to f32 or f64, nearest-even (R96). -/
def cellRead (f : Fmt) (cell : Nat) : Nat :=
  if bitAt cell 506 || (bitAt cell 504 && bitAt cell 505) then f.nanBits
  else if bitAt cell 504 then infBits f false
  else if bitAt cell 505 then infBits f true
  else (roundInt f ⟨1, false, false, false, 0⟩ (signedOf cellBits cell) (-160) false).bits

end Sys2Proof.Machine
end

