-- ==== Sys2Proof/Config.lean ====
section
/-! DEFINITION. The free values: what the manual leaves open. Each is a constant without a body, so nothing can be proved
of its value; a use takes it at the free counter of the state, which then advances, or at the data it depends on. -/

namespace Sys2Proof.Free

/-- A byte the manual does not determine: a device read of host MMIO (R294), a line read under a key that did not write
it (R407, R408). Log entries 9 and 14. -/
opaque byte : Nat → Byte

/-- The image of the firmware in module flash, which R416 measures. Log entry 15. -/
opaque firmware : List Byte

/-- Its signature (R414, R420). Log entry 15. -/
opaque firmwareSig : List Byte

/-- Its version (R420). Log entry 15. -/
opaque firmwareVersion : Nat

/-- The key that signs firmware and records, whose public half the control die's boot ROM holds (R414): the secret of chain `i` of a leaf.
The device never has it. Log entry 15. -/
opaque romChain : Nat → Nat → BitVec 256

/-- The public seed of that key (R414). Log entry 15. -/
opaque romSeed : BitVec 256

/-- The device's own key, which it derives from the physical unclonable function (R414): the secret of chain `i` of a leaf. Log entry
15. -/
opaque chainSecret : Nat → Nat → BitVec 256

/-- The secret that randomises the device's signatures (R414). Log entry 15. -/
opaque signSecret : BitVec 256

/-- The public seed of the device's key (R414). Log entry 15. -/
opaque keySeed : BitVec 256

/-- The number behind the length of a capability entry (R417). Log entry 95. -/
opaque capLength : Nat → Nat

/-- A byte of the capability page outside its headers (R417). Log entry 95. -/
opaque capByte : Nat → Byte

/-- The bytes a save area holds for a context, whose layout R403 leaves to the device. Log entry 13. -/
opaque contextBytes : Nat → List Byte

end Sys2Proof.Free
end

