-- ==== Sys2Proof/Machine/Mem.lean ====
section
/-! DEFINITION. Memory by physical address: bytes in canonical form, the home of a line with its lease expiry and WCT
(R100, R104, R105), the seal (R407), and the effect of a store or an atomic at its home. -/

namespace Sys2Proof.Machine

/-! ## Bytes by address -/

/-- The byte at an address; an address a memory does not list reads 0 (log entry 4). -/
def Memory.get : Memory → Nat → Byte
  | [], _ => 0
  | (b, x) :: m, a => if a < b then 0 else if a = b then x else Memory.get m a

/-- A memory with the byte at an address replaced, in canonical form. -/
def Memory.set : Memory → Nat → Byte → Memory
  | [], a, x => if x = 0 then [] else [(a, x)]
  | (b, y) :: m, a, x =>
    if a < b then (if x = 0 then (b, y) :: m else (a, x) :: (b, y) :: m)
    else if a = b then (if x = 0 then m else (a, x) :: m)
    else (b, y) :: Memory.set m a x

/-- Every address lies above `lo`, addresses rise, and no byte is 0. -/
def Memory.wfFrom : Nat → Memory → Bool
  | _, [] => true
  | lo, (a, x) :: m => lo ≤ a && x != 0 && Memory.wfFrom (a + 1) m

/-- The canonical form: addresses rise and no listed byte equals what an unlisted address reads as. -/
def Memory.wf (m : Memory) : Bool := Memory.wfFrom 0 m

/-- Consecutive bytes from an address up. -/
def Memory.getBytes (m : Memory) : Nat → Nat → List Byte
  | _, 0 => []
  | a, n + 1 => Memory.get m a :: Memory.getBytes m (a + 1) n

/-- Consecutive bytes written from an address up. -/
def Memory.setBytes (m : Memory) : Nat → List Byte → Memory
  | _, [] => m
  | a, x :: xs => Memory.setBytes (Memory.set m a x) (a + 1) xs

/-- The byte an overlay holds for an address, if it holds one. -/
def cellGet : List Host.Cell → Nat → Option Byte
  | [], _ => none
  | (b, x) :: m, a => if a < b then none else if a = b then some x else cellGet m a

/-- An overlay with the byte at an address set. -/
def cellSet : List Host.Cell → Nat → Byte → List Host.Cell
  | [], a, x => [(a, x)]
  | (b, y) :: m, a, x =>
    if a < b then (a, x) :: (b, y) :: m else if a = b then (a, x) :: m else (b, y) :: cellSet m a x

/-- Consecutive bytes set in an overlay. -/
def cellSetBytes (m : List Host.Cell) : Nat → List Byte → List Host.Cell
  | _, [] => m
  | a, x :: xs => cellSetBytes (cellSet m a x) (a + 1) xs

/-- Bytes with an overlay over them. -/
def overlay (cells : List Host.Cell) : Nat → List Byte → List Byte
  | _, [] => []
  | a, x :: xs => (cellGet cells a).getD x :: overlay cells (a + 1) xs

/-! ## Physical space and homes -/

/-- What a physical address reaches (R374). -/
inductive PaKind where
  | near | far | host | mmio
  deriving DecidableEq, Repr

/-- The range of R374 that holds a physical address. -/
def paKind (pa : Nat) : Option PaKind :=
  if pa < 0xC0_0000_0000 then some .near
  else if 0x100_0000_0000 ≤ pa && pa < 0x280_0000_0000 then some .far
  else if 0x8_0000_0000_0000 ≤ pa && pa < 0xC_0000_0000_0000 then some .host
  else if 0xC_0000_0000_0000 ≤ pa && pa < 0x10_0000_0000_0000 then some .mmio
  else none

/-- Near or far memory (R374). -/
def inDevice (pa : Nat) : Bool := paKind pa == some .near || paKind pa == some .far

/-- The hash of R100. -/
def homeHash (pa : Nat) : Nat :=
  natXor (bitsOf pa 7 8) (natXor (bitsOf pa 15 8) (natXor (bitsOf pa 23 8) (natXor (bitsOf pa 31 8)
    (natXor (bitsOf pa 39 8) (bitsOf pa 47 5)))))

/-- The home of a line (R100): slice 64·die + slice for device memory, 256 for the host agent, 257 for MMIO. A far page
takes the spread rule whatever its interleave bit says (R374). -/
def homeOf (pa : Nat) (ilv : Bool) : Nat :=
  match paKind pa with
  | some .near =>
    if ilv then 64 * (pa / 0x30_0000_0000) + natXor (homeHash pa % 64) (homeHash pa / 64) else homeHash pa
  | some .far => homeHash pa
  | some .host => 256
  | _ => 257

/-- The line number of an address. -/
def lineOf (pa : Nat) : Nat := pa / 128

/-- The canopy time a die's clock shows; die 4 is the control die. No two clocks are more than 3 ns apart (R1, log entry 1). -/
def clockOf (s : State) (die : Nat) : Nat := s.time + (vget s.skew die 0).val

/-- The clock of a home (R104, R294). -/
def homeClock (s : State) (home : Nat) : Nat := clockOf s (if home < 256 then home / 64 else 4)

/-- The canopy time of a core's contexts; core c lies on die c / 208 (R1). -/
def coreClock (s : State) (core : Nat) : Nat := clockOf s (core / 208)

/-- The swap pair that holds the page of a physical address. -/
def swapOf (s : State) (pa : Nat) : Option Swap :=
  s.dev.swaps.find? fun w => w.far / 4096 == pa / 4096 || w.near / 4096 == pa / 4096

/-- Where the bytes of a physical address lie while its page belongs to a swap pair (R388). -/
def placeOf (s : State) (pa : Nat) : Nat :=
  match swapOf s pa with
  | none => pa
  | some w =>
    if w.bitmap.getLsbD (pa / 128 % 32) then (if w.far / 4096 = pa / 4096 then w.near else w.far) + pa % 4096 else pa

/-- The home that serves a physical address now: of the place its bytes lie (R388). -/
def homeAt (s : State) (pa home : Nat) : Nat := if placeOf s pa = pa then home else homeOf (placeOf s pa) false

/-- The home of an address lies on a die in reset (R406). -/
def dieShut (s : State) (pa home : Nat) : Bool :=
  let h := homeAt s pa home
  decide (h < 256) && (vget s.dev.dieDown (h / 64) none).isSome

/-- The times of the commits that are still to be placed on the line of an address (R108). -/
def commitTimes (s : State) (pa : Nat) : List Nat :=
  (s.task :: s.tasks).filterMap fun t => if t.vlines.any fun c => c.1 / 128 == pa / 128 then t.commitAt else none

/-- The home of a line has still to place the bytes of a commit whose time has come (R182). -/
def commitNow (s : State) (pa home : Nat) : Bool :=
  (commitTimes s pa).any fun w => decide (w ≤ homeClock s (homeAt s pa home))

/-- An access of a home waits: its die is in reset (R406), or a commit is being placed (R182), so that no direct write shares its
nanosecond. -/
def homeDown (s : State) (pa home : Nat) : Bool := dieShut s pa home || commitNow s pa home

/-- The eviction horizon of a home (R104). -/
def evictHorizon (s : State) (home : Nat) : Nat := (lookupNat home s.evictH).getD 0

/-- What a home keeps of a line; a line that is not resident has the eviction horizon as its latest expiry (R104), and one
without a record has no key. -/
def lineState (s : State) (line home : Nat) : HomeLine :=
  let h := (s.lines.find? fun h => h.line == line).getD ⟨line, home, 0, 0, [], false, 64, 0, 0, 0⟩
  if h.resident then h else { h with expiry := evictHorizon s home }

/-- A home's record of a line replaced. -/
def setLine (s : State) (h : HomeLine) : State :=
  { s with lines := h :: s.lines.filter fun g => g.line != h.line }

/-- The epoch of a partition's key (R408). -/
def epochOf (s : State) (part : Nat) : Nat := vget s.dev.epochs part 0

/-- The line was written under another key than that of the partition that accesses it (R407, R408). Host memory is not
encrypted by the device. -/
def sealed (s : State) (part pa : Nat) : Bool :=
  inDevice pa && (match s.lines.find? fun h => h.line == lineOf pa with
    | some h => h.part != 64 && !(h.part == part && h.epoch == epochOf s part)
    | none => false)

/-! ## The capability page (R417) -/

/-- The length of the capability entry with an ID, in 8-byte words, its header among them; R417 states none (log entry 95). -/
def capWords (id : Nat) : Nat := 1 + Free.capLength id % 100

/-- The page offset of the entry with an ID: entries 1 to 5 follow one another from offset 0 (log entry 95). -/
def capOffset : Nat → Nat
  | 0 => 0
  | 1 => 0
  | id + 1 => capOffset id + 8 * capWords id

/-- The header of the entry with an ID (R417): ID, VER 1, LEN, NEXT, the last entry's NEXT 0. -/
def capHeader (id : Nat) : Nat :=
  id + 2 ^ 16 + capWords id * 2 ^ 24 + (if id = 5 then 0 else capOffset (id + 1)) * 2 ^ 32

/-- A byte of the capability page: of a header, or one whose value R417 does not state. -/
def capByte (o : Nat) : Byte :=
  match [1, 2, 3, 4, 5].find? fun id => decide (capOffset id ≤ o) && decide (o < capOffset id + 8) with
  | some id => BitVec.ofNat 8 (capHeader id / 256 ^ (o - capOffset id))
  | none => Free.capByte o

/-- A physical address lies in the capability page that the record in force names (R411, R417). -/
def inCapPage (s : State) (pa : Nat) : Bool := !s.dev.cfg.image.isEmpty && pa / 4096 == s.dev.cfg.capPa / 4096

/-- `n` free bytes from counter `k` up. -/
def freeBytes (k : Nat) : Nat → List Byte
  | 0 => []
  | n + 1 => Free.byte k :: freeBytes (k + 1) n

/-- The free counter advanced. -/
def useFree (s : State) (n : Nat) : State := { s with freeCtr := s.freeCtr + n }

/-- Bytes of one line read at a physical address under a partition's key: the bytes held, or free bytes for MMIO (R294)
and for a line of another key (R407). The capability page reads as R417 describes it. -/
def readPhys (s : State) (part pa n : Nat) : State × List Byte :=
  if inCapPage s pa then (s, (List.range n).map fun k => capByte ((pa + k) % 4096))
  else if paKind pa == some .mmio || sealed s part (placeOf s pa) then (useFree s n, freeBytes s.freeCtr n)
  else (s, s.mem.getBytes (placeOf s pa) n)

/-- The bytes memory held under bytes an L2 slice now holds modified (R406). -/
def recordBacking (s : State) : Nat → Nat → List Host.Cell → List Host.Cell
  | _, 0, b => b
  | a, n + 1, b => recordBacking s (a + 1) n (if (cellGet b a).isSome then b else cellSet b a (s.mem.get a))

/-- A line about to be written under a partition's key; the rest of a line of another key becomes free bytes (R407). -/
def claimLine (s : State) (part pa : Nat) : State :=
  if sealed s part pa then
    useFree { s with mem := s.mem.setBytes (128 * lineOf pa) (freeBytes s.freeCtr 128) } 128
  else s

/-- A line of memory cannot be read without an error (R389). -/
def lineBad (s : State) (pa : Nat) : Bool := s.dev.badLines.contains (lineOf (placeOf s pa))

/-- Bytes of one line written at their place; a whole line written can be read again. MMIO stores leave the device in program order
(R294). The capability page is read-only (R417): a write of it is dropped (log entry 95). -/
def writePhys (s : State) (part pa : Nat) (bytes : List Byte) : State :=
  if inCapPage s pa then s
  else if paKind pa == some .mmio then { s with dev := { s.dev with mmio := s.dev.mmio ++ [(pa, bytes)] } }
  else
    let q := placeOf s pa
    let s := claimLine s part q
    { s with
      backing := if inDevice q then recordBacking s q bytes.length s.backing else s.backing
      mem := s.mem.setBytes q bytes
      dev := { s.dev with
        badLines := if 128 ≤ bytes.length then s.dev.badLines.filter fun l => l != lineOf q else s.dev.badLines } }

/-! ## The caches of a home (R1, R114, R407, R409) -/

/-- The lines one of the 16 ways of an L2 slice holds (R1): 2 MiB in all. -/
def wayLines : Nat := 1024

/-- The lines one of the 16 ways of a base die's memory-side cache holds (R1): 256 MiB in all. -/
def sideWayLines : Nat := 131072

/-- The ways a partition may fill (R409): those of its descriptor's mask, partition 0 every one. -/
def fillWays (s : State) (part : Nat) (mask : PartDesc → BitVec 16) : List Nat :=
  if part = 0 then List.range 16
  else
    let d := vget s.dev.cfg.parts part ⟨false, 0, 0, 0, 0, 0⟩
    if d.en then (List.range 16).filter fun w => (mask d).getLsbD w else []

/-- The line is in L2 under the partition's tag, so that the partition's lookup hits (R407). -/
def l2Hit (s : State) (part line : Nat) : Bool := s.lines.any fun h => h.line == line && h.resident && h.tag == part

/-- An access of a partition is an L2 miss to near or far memory while the tracker runs (R385). -/
def missed (s : State) (part pa : Nat) : Bool :=
  inDevice (placeOf s pa) && !l2Hit s part (lineOf (placeOf s pa)) && s.dev.tracker.getLsbD 0

/-- Such a miss counted, modulo the 64 of which the tracker samples one (R385). -/
def countMiss (s : State) (part pa : Nat) : State :=
  if missed s part pa then { s with dev := { s.dev with missCount := (s.dev.missCount + 1) % 64 } } else s

/-- A line put into the memory-side cache of a base die by the ways of its partition (R114, R407). Full ways lose the line that came
first (log entry 12). -/
def sideFill (s : State) (line tag die : Nat) : State :=
  let ways := fillWays s tag PartDesc.mscways
  let mine (w : Nat) : List SideLine := s.msc.filter fun m => m.die == die && m.way == w
  match ways.find? fun w => decide ((mine w).length < sideWayLines) with
  | some w => { s with msc := s.msc ++ [⟨line, tag, die, w⟩] }
  | none =>
    match s.msc.find? fun m => m.die == die && ways.contains m.way with
    | none => s
    | some old => { s with msc := s.msc.filter (fun m => m != old) ++ [⟨line, tag, die, old.way⟩] }

/-- A home evicts a line (R104, R114): its eviction horizon rises, the line goes to the memory-side cache of its base die,
and no byte of it is held in L2 alone. -/
def evictLine (s : State) (h : HomeLine) : State :=
  setLine (sideFill { s with
    evictH := setNat h.home (later (evictHorizon s h.home) h.expiry) s.evictH
    backing := s.backing.filter fun c => c.1 / 128 != h.line } h.line h.tag (h.home / 64)) { h with resident := false }

/-- The way a fill takes in a slice (R407), with the line that must leave it: of the partition's ways one with room, else that of
the line least recently touched (log entry 12). -/
def fillWay (s : State) (part home : Nat) : Option (Nat × Option HomeLine) :=
  let ways := fillWays s part PartDesc.l2ways
  let mine := s.lines.filter fun h => h.home == home && h.resident && ways.contains h.way
  match ways.find? fun w => decide ((mine.filter fun h => h.way == w).length < wayLines) with
  | some w => some (w, none)
  | none => mine.getLast?.map fun h => (h.way, some h)

/-- A copy of the line that another partition's tag holds leaves L2 first (R407; log entry 12). -/
def dropOtherTag (s : State) (part line home : Nat) : State :=
  let h := lineState s line home
  if h.resident && h.tag != part then evictLine s h else s

/-- A line put into L2 under a partition's tag, in one of its ways, and out of the memory-side cache where its tag is the same
(R114, R407). -/
def fillLine (s : State) (part line home : Nat) : State :=
  let s := dropOtherTag s part line home
  match fillWay s part home with
  | none => s
  | some (w, old) =>
    let s := match old with | some v => evictLine s v | none => s
    setLine { s with msc := s.msc.filter fun m => !(m.line == line && m.tag == part) }
      { lineState s line home with resident := true, tag := part, way := w }

/-- The line record after an access of a home under a partition's tag: a hit, or a fill when the partition has a way to fill; one that
has none leaves the caches as they are (R407). -/
def touchLine (s : State) (part pa home : Nat) : State :=
  if home < 256 then
    let h := lineState s (lineOf pa) home
    if h.resident && h.tag == part then setLine s h
    else if (fillWays s part PartDesc.l2ways).isEmpty then s
    else fillLine s part (lineOf pa) home
  else s

/-- The WCT of `n` bytes of a line from an offset: the latest of the writes that produced them (R105). -/
def HomeLine.wctAt (h : HomeLine) : Nat → Nat → Nat
  | _, 0 => 0
  | o, n + 1 => later ((lookupNat o h.wcts).getD h.wct) (h.wctAt (o + 1) n)

/-- Bytes of a line written with a WCT. -/
def HomeLine.stamp (h : HomeLine) (w : Nat) : Nat → Nat → HomeLine
  | _, 0 => h
  | o, n + 1 => { h.stamp w (o + 1) n with wcts := setNat o w (h.stamp w (o + 1) n).wcts }

/-- The WCT a write of a line gets now (R105): the later of the home's time and the latest expiry granted on the line;
the host agent's time for host memory (R294). A line that a commit has been accepted for grants no lease any more, so that what its home
knows of expiries beside its own counts to the nanosecond before the commit alone (R108, R181). -/
def writeWct (s : State) (pa home : Nat) : Nat :=
  let home := homeAt s pa home
  if home < 256 then
    let w := later (homeClock s home) (lineState s (lineOf (placeOf s pa)) home).expiry
    (commitTimes s pa).foldl (fun w t => earlier w (t - 1)) w
  else homeClock s home

/-- A store executes at its home (R105, R294): the bytes, the key of the line, and the WCT, the later of the home's time
and the latest expiry granted on the line. -/
def storeAtHome (s : State) (part pa home : Nat) (bytes : List Byte) : State × Nat :=
  let q := placeOf s pa
  let w := writeWct s pa home
  let home := homeAt s pa home
  let s := touchLine (writePhys s part pa bytes) part q home
  let h := (lineState s (lineOf q) home).stamp w (q % 128) bytes.length
  (if home = 257 then s else setLine s { h with part := if inDevice q then part else 64, epoch := epochOf s part }, w)

/-- A read at the home (R104, R105): the bytes and the WCT of the value read; of MMIO, the host agent's time. -/
def readAtHome (s : State) (part pa home n : Nat) : State × List Byte × Nat :=
  let q := placeOf s pa
  let home := homeAt s pa home
  let w := if home = 257 then homeClock s home else (lineState s (lineOf q) home).wctAt (q % 128) n
  let (s, bytes) := readPhys s part pa n
  (if paKind q == some .mmio then s else touchLine s part q home, bytes, w)

/-- A lease granted by the home of a line (R104): its expiry. -/
def grantLease (s : State) (pa home lease : Nat) : State × Nat :=
  let q := placeOf s pa
  let home := homeAt s pa home
  let h := lineState s (lineOf q) home
  let e := homeClock s home + lease
  if h.resident then (setLine s { h with expiry := later h.expiry e }, e)
  else ({ s with evictH := setNat home (later (evictHorizon s home) e) s.evictH }, e)

/-! ## Swap pairs (R387, R388) -/

/-- A line's bytes as a swap pair's partition decrypts them: free bytes where they are under another key (R387, R407). -/
def decrypted (s : State) (part line : Nat) : State × List Byte :=
  if sealed s part (128 * line) then (useFree s 128, freeBytes s.freeCtr 128) else (s, s.mem.getBytes (128 * line) 128)

/-- A latest expiry noted at the home of a line that is not in L2: its eviction horizon (R104). -/
def raiseHome (s : State) (h : HomeLine) (e : Nat) : State :=
  if h.resident then s else { s with evictH := setNat h.home (later (evictHorizon s h.home) e) s.evictH }

/-- Two line records exchanged, under the key of the pair's partition; each place takes the later of the two latest expiries, a place
outside L2 by its home's eviction horizon (R104, R387). -/
def exchangeRecords (s : State) (part f n : Nat) : State :=
  let a := lineState s f (homeOf (128 * f) false)
  let b := lineState s n (homeOf (128 * n) false)
  let e := later a.expiry b.expiry
  let k := epochOf s part
  let s := raiseHome (raiseHome s a e) b e
  setLine (setLine s { a with expiry := e, wct := b.wct, wcts := b.wcts, part := part, epoch := k })
    { b with expiry := e, wct := a.wct, wcts := a.wcts, part := part, epoch := k }

/-- The bytes, times and latest expiries of two lines exchanged at their homes, each line encrypted again with the key of the pair's
partition (R387). -/
def exchangeLines (s : State) (part f n : Nat) : State :=
  let s := touchLine (touchLine s part (128 * f) (homeOf (128 * f) false)) part (128 * n) (homeOf (128 * n) false)
  let (s, x) := decrypted s part f
  let (s, y) := decrypted s part n
  let b := recordBacking s (128 * n) 128 (recordBacking s (128 * f) 128 s.backing)
  exchangeRecords { s with backing := b, mem := (s.mem.setBytes (128 * f) y).setBytes (128 * n) x } part f n

/-- The bitmap of a swap pair with a bit set or cleared. -/
def setSwapBit (s : State) (w : Swap) (i : Nat) (on : Bool) : State :=
  let flip (v : Swap) : Swap :=
    { v with bitmap := if on then v.bitmap ||| (1#32 <<< i) else v.bitmap &&& ~~~(1#32 <<< i) }
  { s with dev := { s.dev with swaps := updateFirst (fun v => v == w) flip s.dev.swaps } }

/-- Line `i` of a swap pair moves (R387). -/
def moveSwapLine (s : State) (w : Swap) (i : Nat) : State :=
  setSwapBit (exchangeLines s w.part (w.far / 128 + i) (w.near / 128 + i)) w i true

/-- An entry as it is read at its home with the partition's key (R376). -/
def entryAt (s : State) (part pa : Nat) : Word64 := BitVec.ofNat 64 (ofBytesLE (readPhys s part pa 8).2)

/-- A leaf entry written at its home under its partition's key. -/
def writeEntry (s : State) (part addr : Nat) (e : Word64) : State :=
  (storeAtHome (countMiss s part addr) part addr (homeOf addr false) (bytesLE 8 e.toNat)).1

/-- BUSY of an entry. -/
def busyBit : Word64 := 0x8000_0000_0000_0000

/-- BUSY of an entry cleared, every other field as memory holds it. -/
def clearBusy (s : State) (part addr : Nat) : State := writeEntry s part addr (entryAt s part addr &&& ~~~busyBit)

/-- The lines of a pair exchanged so far, the highest first. -/
def movedLines (w : Swap) : List Nat := (List.range 32).reverse.filter fun i => w.bitmap.getLsbD i

/-- The lines exchanged so far move back, the highest first. -/
def moveBack (w : Swap) : List Nat → State → State
  | [], s => s
  | i :: rest, s => moveBack w rest (exchangeLines s w.part (w.far / 128 + i) (w.near / 128 + i))

/-- A pair dropped for an error, which is counted; the line goes on to be one that cannot be read (R389). -/
def dropPair (s : State) (w : Swap) (line : Nat) : State :=
  { s with dev := { s.dev with
    swaps := s.dev.swaps.filter fun v => v != w, swapErrors := s.dev.swapErrors + 1
    badLines := if s.dev.badLines.contains line then s.dev.badLines else line :: s.dev.badLines } }

/-- An error on reading a line stops a pair (R389): its lines move back, BUSY is cleared, the event is counted; whoever reads the line
later meets the error. -/
def stopPair (s : State) (w : Swap) (line : Nat) : State :=
  clearBusy (clearBusy (dropPair (moveBack w (movedLines w) s) w line) w.part w.entryFar) w.part w.entryNear

/-- The line of a pair whose reading meets an error: of the two that move next, the one that cannot be read, or, where the step says so,
the far one (log entry 73). -/
def badOf (s : State) (w : Swap) (i : Nat) (bad : Bool) : Option Nat :=
  if s.dev.badLines.contains (w.far / 128 + i) || bad then some (w.far / 128 + i)
  else if s.dev.badLines.contains (w.near / 128 + i) then some (w.near / 128 + i)
  else none

/-- Line `i` of a pair moves, or an error on reading it stops the pair (R387, R389). -/
def moveOrStop (s : State) (w : Swap) (i : Nat) (bad : Bool) : State :=
  match badOf s w i bad with
  | some line => stopPair s w line
  | none => moveSwapLine s w i

/-- The addresses at whose homes a move of line `i` of a pair reads or writes: its two places; where it stops the pair, the lines that
move back and the two entries. -/
def moveTouches (s : State) (w : Swap) (i : Nat) (bad : Bool) : List Nat :=
  let places (k : Nat) : List Nat := [w.far + 128 * k, w.near + 128 * k]
  places i ++ if (badOf s w i bad).isSome then (movedLines w).flatMap places ++ [w.entryFar, w.entryNear] else []

/-- The line of a swap pair that an atomic or an exact add moves first: one whose bit is clear (R388). -/
def atomicMoves (s : State) (pa : Nat) : Option (Swap × Nat) :=
  match swapOf s pa with
  | none => none
  | some w => if w.bitmap.getLsbD (pa / 128 % 32) then none else some (w, pa / 128 % 32)

/-- An atomic or exact add on a line of a swap pair whose bit is clear moves that line first (R388). -/
def moveForAtomic (s : State) (pa : Nat) : State :=
  match atomicMoves s pa with
  | none => s
  | some (w, i) => moveOrStop s w i false

/-- A read-modify-write of one location, indivisible at its home (R113): the old bytes and the WCT. -/
def rmwAtHome (s : State) (part pa home n : Nat) (f : List Byte → List Byte) : State × List Byte × Nat :=
  let s := moveForAtomic s pa
  let (s, old, _) := readAtHome s part pa home n
  let (s, w) := storeAtHome s part pa home (f old)
  (s, old, w)

/-- The host may hold the line, so that a device write sends a back-invalidate first (R419). -/
def hostHolds (s : State) (pa : Nat) : Bool := s.dev.hostHeld.contains (lineOf pa)

/-- A move has to wait for a home that is down (R406). -/
def moveDown (s : State) (w : Swap) (i : Nat) (bad : Bool) : Bool :=
  (moveTouches s w i bad).any fun a => homeDown s a (homeOf a false)

/-- The entry whose line the host may hold and that the end of a stopped pair writes (R389, R419). -/
def moveHeld (s : State) (w : Swap) (i : Nat) (bad : Bool) : Option Nat :=
  if (badOf s w i bad).isSome then [w.entryFar, w.entryNear].find? (hostHolds s) else none

/-- An atomic at an address has to wait: its own home, or one that its line's move needs, is down (R388, R406). -/
def atomicDown (s : State) (pa home : Nat) : Bool :=
  homeDown s pa home || (atomicMoves s pa).any fun m => moveDown s m.1 m.2 false

/-- The line for which an atomic at an address has to ask the host first (R419). -/
def atomicHeld (s : State) (pa : Nat) : Option Nat :=
  if hostHolds s pa then some pa else (atomicMoves s pa).bind fun m => moveHeld s m.1 m.2 false

/-- A back-invalidate sent for a line the host may hold (R419). -/
def sendBackInvalidate (s : State) (pa : Nat) : State :=
  if s.dev.backInv.contains (lineOf pa) then s
  else { s with dev := { s.dev with backInv := s.dev.backInv ++ [lineOf pa] } }

end Sys2Proof.Machine
end

