-- ==== Sys2Proof/Machine/Xlate.lean ====
section
/-! DEFINITION. Address translation (file 19): the leaf checks of R378, the walk of R376, the TLBs and the page-walk
caches of R380, A and D of R382, and invalidation (R315, R383). -/

namespace Sys2Proof.Machine

/-- What an access needs of a page (R378): `look` is LOCQ (R248), `device` and `deviceWrite` a read and a write of the device itself. -/
inductive Need where
  | read | write | rmw | fetch | look | device | deviceWrite
  deriving DecidableEq, Repr

/-- A failed translation: trap code, detail and level of R378. Code 0 stands for a wait: with level 0 for a home that is down (R406),
with level 1 for the host, which may hold the line of the entry at the address `detail` (R419). -/
structure XFail where
  code : BitVec 8
  detail : Nat
  level : Nat
  deriving DecidableEq, Repr

/-- A translation in use: physical address and the leaf entry. -/
structure Xlat where
  pa : Nat
  entry : Word64
  deriving DecidableEq, Repr

/-! ## Fields of an entry (R377) -/

/-- ADDR as a byte address. -/
def entryAddr (e : Word64) : Nat := bitsOf e.toNat 12 40 * 4096
/-- REACH. -/
def entryReach (e : Word64) : Nat := bitsOf e.toNat 8 3
/-- PART. -/
def entryPart (e : Word64) : Nat := bitsOf e.toNat 57 6
/-- COMMIT: the page is versioned. -/
def entryVersioned (e : Word64) : Bool := e.getLsbD 11
/-- TIER: the page is far. -/
def entryFar (e : Word64) : Bool := e.getLsbD 52
/-- ILV: die-local. -/
def entryIlv (e : Word64) : Bool := e.getLsbD 53

/-- The size of a page, log₂, for a leaf at a level (R376). -/
def leafSize (level : Nat) (e : Word64) : Nat :=
  if level = 2 then 30 else if level = 1 then 21 else if e.getLsbD 5 then 16 else 12

/-- The level of a page of a size. -/
def sizeLevel (size : Nat) : Nat := if size = 30 then 2 else if size = 21 then 1 else 0

/-- A leaf breaks a reserved bit or combination of R377: R = 0 with W = 1, or C64 off level 0. -/
def leafReserved (level : Nat) (e : Word64) : Bool := (!e.getLsbD 1 && e.getLsbD 2) || (e.getLsbD 5 && level != 0)

/-- Checks 4 and 5 of R378 on a leaf. -/
def leafPlace (level : Nat) (e : Word64) : Option XFail :=
  if entryAddr e % 2 ^ leafSize level e ≠ 0 then some ⟨0x09, 4, level⟩
  else if 5 ≤ entryReach e then some ⟨0x09, 5, level⟩
  else match paKind (entryAddr e) with
    | none => some ⟨0x09, 5, level⟩
    | some k => if (k == .far) == entryFar e then none else some ⟨0x09, 5, level⟩

/-- Checks 6 to 9 of R378; the level reported is the leaf's. -/
def leafRights (part : Nat) (need : Need) (level : Nat) (e : Word64) : Option XFail :=
  if need ≠ .device ∧ need ≠ .deviceWrite ∧ entryPart e ≠ part then some ⟨0x0A, 6, level⟩
  else match need with
    | .read => if e.getLsbD 1 then none else some ⟨0x0A, 7, level⟩
    | .write => if e.getLsbD 2 then none else some ⟨0x0A, 8, level⟩
    | .rmw => if e.getLsbD 1 && e.getLsbD 2 then none else some ⟨0x0A, 8, level⟩
    | .fetch => if e.getLsbD 3 then none else some ⟨0x0A, 9, level⟩
    | .look => none
    | .device => none
    | .deviceWrite => none

/-- The checks of R378 on a leaf, in order. -/
def leafCheck (part : Nat) (need : Need) (level : Nat) (e : Word64) : Option XFail :=
  if leafReserved level e then some ⟨0x09, 3, level⟩
  else match leafPlace level e with
    | some f => some f
    | none => leafRights part need level e

/-- The access writes the page (R382). -/
def needWrites (n : Need) : Bool := n == .write || n == .rmw || n == .deviceWrite

/-! ## The walk -/

/-- A non-leaf entry in the page-walk caches (R380). -/
def cachedEntry (s : State) (part pa : Nat) : Option WalkEntry := s.pwc.find? fun w => w.part == part && w.addr == pa

/-- An entry from the page-walk caches, or from memory (R376, R380). -/
def walkEntry (s : State) (part pa : Nat) : Word64 :=
  match cachedEntry s part pa with
  | some w => w.entry
  | none => entryAt s part pa

/-- What the read of an entry that is not cached meets at its home: a wait, or an error of its line, in a bank of no role (R389, R406; log
entry 73). -/
def entryFail (s : State) (part pa : Nat) : Option XFail :=
  if (cachedEntry s part pa).isSome then none
  else if homeDown s pa (homeOf pa false) then some ⟨0, 0, 0⟩
  else if lineBad s pa then some ⟨0x21, 5, 0⟩
  else none

/-- A non-leaf entry breaks R377: a bit other than V, LEAF and ADDR. -/
def tableReserved (e : Word64) : Bool := bitsOf e.toNat 1 3 != 0 || bitsOf e.toNat 5 7 != 0 || bitsOf e.toNat 52 12 != 0

/-- What a walk finds: the leaf's address, its level, the entry, the non-leaf entries passed, and the addresses of the entries read at
their homes. -/
structure Walked where
  addr : Nat
  level : Nat
  entry : Word64
  tables : List WalkEntry
  reads : List Nat
  deriving DecidableEq, Repr

/-- The walk from a table down the given levels (R376, R378), checks 2, 3 and the range check of a next table. -/
def walkDown (s : State) (part va : Nat) : List Nat → Nat → List WalkEntry → List Nat → Except XFail Walked
  | [], _, _, _ => .error ⟨0x09, 3, 0⟩
  | level :: rest, table, seen, reads =>
    let addr := table + 8 * bitsOf va (12 + 9 * level) 9
    let e := walkEntry s part addr
    let reads := if (cachedEntry s part addr).isSome then reads else reads ++ [addr]
    match entryFail s part addr with
    | some f => .error f
    | none =>
      if e.getLsbD 0 = false then .error ⟨0x09, 2, level⟩
      else if e.getLsbD 4 then
        if level = 3 then .error ⟨0x09, 3, level⟩ else .ok ⟨addr, level, e, seen, reads⟩
      else if level = 0 ∨ tableReserved e = true then .error ⟨0x09, 3, level⟩
      else if inDevice (entryAddr e) = false then .error ⟨0x09, 5, level⟩
      else walkDown s part va rest (entryAddr e) (seen ++ [⟨part, addr, e⟩]) reads

/-- A walk from the partition's root (R375, R376). -/
def walk (s : State) (part va : Nat) : Except XFail Walked :=
  let root := vget s.dev.roots part 0
  if root.getLsbD 0 then walkDown s part va [3, 2, 1, 0] (entryAddr root) [] [] else .error ⟨0x09, 2, 3⟩

/-! ## The hot-page tracker (R385) -/

/-- A page counted once more; a new page takes the place of the least counted when the tracker holds 65,536. -/
def countPage (l : List HotPage) (h : HotPage) : List HotPage :=
  if l.any fun g => g.part == h.part && g.vpn == h.vpn then
    updateFirst (fun g => g.part == h.part && g.vpn == h.vpn) (fun g => { h with count := g.count + 1, fresh := g.fresh + 1 }) l
  else if l.length < 65536 then l ++ [h]
  else match leastBy (fun g => g.count) l with
    | none => [h]
    | some g => eraseFirst (fun k => k == g) l ++ [h]

/-- An access of a partition to near or far memory that misses L2 is a miss the tracker may sample, one in 64 (R385). A miss with no
virtual page, of a walk, of the device itself or of the host, is counted and no page with it (log entry 72). -/
def noteMiss (s : State) (part : Nat) (va : Option Nat) (pa : Nat) : State :=
  let t := countMiss s part pa
  match if missed s part pa && t.dev.missCount == 0 then va else none with
  | none => t
  | some va =>
    match walk s part va with
    | .error _ => t
    | .ok w => { t with dev := { t.dev with hot := countPage t.dev.hot ⟨part, va / 4096, w.addr, pa / 4096 * 4096, 1, 1⟩ } }

/-! ## TLBs -/

/-- A cached translation of an address. -/
def tlbFind (l : List TlbEntry) (part va : Nat) : Option TlbEntry :=
  l.find? fun t => t.part == part && t.vpn == va / 2 ^ t.size

/-- A TLB with an entry added; the oldest leaves when it is full (log entry 11). -/
def tlbAdd (cap : Nat) (l : List TlbEntry) (t : TlbEntry) : List TlbEntry :=
  let l := (l.filter fun u => !(u.part == t.part && u.vpn == t.vpn && u.size == t.size)) ++ [t]
  l.drop (l.length - cap)

/-- The physical address an entry of a page size gives an address (R376, R379). -/
def pageAddr (size : Nat) (e : Word64) (va : Nat) : Nat := entryAddr e / 2 ^ size * 2 ^ size + va % 2 ^ size

/-- A cached translation serves an access unless the access writes and D is clear (R382). -/
def tlbServes (need : Need) (t : TlbEntry) : Bool := t.entry.getLsbD 7 || !needWrites need

/-- The cached translation of an address, from the core's TLB or the shared TLB of its die (R380). -/
def cachedXlat (s : State) (part va : Nat) (need : Need) : Option TlbEntry :=
  match (tlbFind s.core.tlb part va).filter (tlbServes need) with
  | some t => some t
  | none => (tlbFind ((s.l2tlb.filter fun e => e.1 == s.core.id / 208).map Prod.snd) part va).filter (tlbServes need)

/-- A translation cached in the core's TLB and its die's shared TLB. -/
def cacheXlat (s : State) (t : TlbEntry) : State :=
  let die := s.core.id / 208
  let mine := tlbAdd 16384 ((s.l2tlb.filter fun e => e.1 == die).map Prod.snd) t
  { s with
    core := { s.core with tlb := tlbAdd 128 s.core.tlb t }
    l2tlb := (s.l2tlb.filter fun e => e.1 != die) ++ mine.map fun u => (die, u) }

/-- The non-leaf entries a walk passed, kept in the page-walk caches (R380). -/
def cacheTables (s : State) (l : List WalkEntry) : State :=
  { s with pwc := l ++ s.pwc.filter fun w => !l.any fun v => v.part == w.part && v.addr == w.addr }

/-- A and D as a passing access sets them (R382). -/
def accessBits (need : Need) (e : Word64) : Word64 := if needWrites need then e ||| 0xC0 else e ||| 0x40

/-- The entries of a walk read at their homes, as LDG.F reads: each a fill there, and a miss where L2 does not hold its line (R376,
R385). -/
def readEntries (s : State) (part : Nat) (reads : List Nat) : State :=
  reads.foldl (fun s a => (readAtHome (noteMiss s part none a) part a (homeOf a false) 8).1) s

/-- A and D set with one atomic OR at the entry's home (R382). -/
def setAccessBits (s : State) (part addr : Nat) (need : Need) : State :=
  (rmwAtHome (noteMiss s part none addr) part addr (homeOf addr false) 8 fun old =>
    bytesLE 8 (accessBits need (BitVec.ofNat 64 (ofBytesLE old))).toNat).1

/-- What the setting of A and D at an entry's home waits for (R388, R406, R419). -/
def accessWait (s : State) (addr : Nat) : Option XFail :=
  match atomicHeld s addr with
  | some pa => some ⟨0, pa, 1⟩
  | none => if atomicDown s addr (homeOf addr false) then some ⟨0, 0, 0⟩ else none

/-- The result of a walk used for an access: its entries read, A and D set at the entry's home, the translation cached (R382). LOCQ sets
neither bit; it and the device's own accesses cache no translation. -/
def walkXlat (s : State) (part va : Nat) (need : Need) : Except XFail (State × Xlat) :=
  match walk s part va with
  | .error f => .error f
  | .ok w =>
    match leafCheck part need w.level w.entry with
    | some f => .error f
    | none =>
      let size := leafSize w.level w.entry
      let e := if need = .look then w.entry else accessBits need w.entry
      match if e = w.entry then none else accessWait s w.addr with
      | some f => .error f
      | none =>
        let s := readEntries (cacheTables s w.tables) part w.reads
        let s := if e = w.entry then s else setAccessBits s part w.addr need
        .ok (if need = .look ∨ need = .device ∨ need = .deviceWrite then s else cacheXlat s ⟨part, va / 2 ^ size, size, e⟩,
          ⟨pageAddr size e va, e⟩)

/-- The translation of a global address for an access (R98, R378). -/
def translate (s : State) (part va : Nat) (need : Need) : Except XFail (State × Xlat) :=
  if 2 ^ 48 ≤ va then .error ⟨0x09, 1, 0⟩
  else match cachedXlat s part va need with
    | none => walkXlat s part va need
    | some t =>
      match leafCheck part need (sizeLevel t.size) t.entry with
      | some f => .error f
      | none => .ok (s, ⟨pageAddr t.size t.entry va, t.entry⟩)

/-- The home of a translated address (R100). -/
def xlatHome (x : Xlat) : Nat := homeOf x.pa (entryIlv x.entry)

/-! ## Dropping translations (R315, R383) -/

/-- Every cached translation of a partition that satisfies a test is dropped, in every TLB and the page-walk caches. -/
def dropXlat (s : State) (part : Nat) (hit : TlbEntry → Bool) : State :=
  let keep (t : TlbEntry) : Bool := !(t.part == part && hit t)
  { s with
    core := { s.core with tlb := s.core.tlb.filter keep }
    cores := s.cores.map fun c => { c with tlb := c.tlb.filter keep }
    l2tlb := s.l2tlb.filter fun e => keep e.2
    pwc := s.pwc.filter fun w => w.part != part }

/-- The translation of the page that holds an address dropped, at every page size (R315, k = 0). -/
def dropPage (s : State) (part va : Nat) : State := dropXlat s part fun t => t.vpn == va / 2 ^ t.size

/-- Every translation of a partition dropped (R315, k = 1). -/
def dropAll (s : State) (part : Nat) : State := dropXlat s part fun _ => true

/-! ## The device's own accesses: rings and records by address (log entries 21 and 96) -/

/-- An access of the device itself to a line at an address of a partition: translated, with A and D set (R382). It waits for a home that
is down (R406), and a write for the host that may hold the line (R419). -/
def deviceXlat (s : State) (part va : Nat) (need : Need) : Except XFail (State × Xlat) :=
  match walkXlat s part va need with
  | .error f => .error f
  | .ok (s, x) =>
    if need = .deviceWrite ∧ hostHolds s x.pa = true then .error ⟨0, x.pa, 1⟩
    else if homeDown s x.pa (xlatHome x) then .error ⟨0, 0, 0⟩
    else .ok (s, x)

/-- Consecutive bytes read line by line at their homes: at most `fuel` lines. -/
def readLines (part : Nat) (ilv : Bool) : Nat → Nat → Nat → State → State × List Byte
  | 0, _, _, s => (s, [])
  | fuel + 1, pa, n, s =>
    let k := earlier n (128 - pa % 128)
    let q := readAtHome (noteMiss s part none pa) part pa (homeOf pa ilv) k
    if n ≤ k then (q.1, q.2.1)
    else
      let (s, more) := readLines part ilv fuel (pa + k) (n - k) q.1
      (s, q.2.1 ++ more)

/-- Bytes the device reads at an address of a partition, all in one page; an error where the address does not translate, or where the
read waits: for a home, or for what the device has itself to write before (log entry 96). -/
def deviceRead (s : State) (part va n : Nat) : Except XFail (State × List Byte) :=
  if s.dev.posted.isEmpty then
    match deviceXlat s part va .device with
    | .error f => .error f
    | .ok (s, x) => .ok (readLines part (entryIlv x.entry) (n / 128 + 2) x.pa n s)
  else .error ⟨0, 0, 0⟩

/-- The writes of the device itself that are still to be made, in order. -/
def setPosted (s : State) (l : List (Nat × Nat × List Byte)) : State := { s with dev := { s.dev with posted := l } }

/-- The host asked for the line that a wait is for, if it is for one (R419). -/
def askHost (s : State) (f : XFail) : State := if f.level = 1 then sendBackInvalidate s f.detail else s

/-- A read of the device itself waits: the state with what it waits for asked for. -/
def deviceStall (s : State) (part va n : Nat) : Option State :=
  match deviceRead s part va n with
  | .error f => if f.code = 0 then some (askHost s f) else none
  | .ok _ => none

/-- Writes of the device itself made in order, until one waits (log entry 96); one whose address does not translate is dropped. -/
def drainPosted : List (Nat × Nat × List Byte) → State → State
  | [], s => setPosted s []
  | w :: rest, s =>
    match deviceXlat s w.1 w.2.1 .deviceWrite with
    | .ok (t, x) => drainPosted rest (storeAtHome (noteMiss t w.1 none x.pa) w.1 x.pa (xlatHome x) w.2.2).1
    | .error f => if f.code = 0 then askHost (setPosted s (w :: rest)) f else drainPosted rest s

/-- Bytes the device writes at an address of a partition, all in one line, after those it has still to write. -/
def deviceWrite (s : State) (part va : Nat) (bytes : List Byte) : State := drainPosted (s.dev.posted ++ [(part, va, bytes)]) s

end Sys2Proof.Machine
end

