-- ==== Sys2Proof/Machine/Ctx.lean ====
section
/-! DEFINITION. Finding and replacing the objects of the state: contexts, tasks, cores, regions, launches; the context
under issue; glade banks and their charges (R42 to R53, R428). -/

namespace Sys2Proof.Machine

/-! ## Contexts, tasks, cores -/

/-- Every live context on a core. -/
def liveCtxs (s : State) : List Context := (if s.me.kind = .idle then [] else [s.me]) ++ s.ctxs

/-- Every task with a core. -/
def liveTasks (s : State) : List Task := (if s.task.phase = .done ∨ s.task.phase = .waiting then [] else [s.task]) ++ s.tasks

/-- Every task that waits for its restart (R38), the first to be placed again first. -/
def waitingTasks (s : State) : List Task := (if s.task.phase = .waiting then [s.task] else []) ++ s.dev.waiting

/-- A live context by number. -/
def getCtx (s : State) (id : Nat) : Option Context := (liveCtxs s).find? fun c => c.id == id

/-- A spilled stand (R41). -/
def getSpilled (s : State) (id : Nat) : Option Context := s.dev.spilled.find? fun c => c.id == id

/-- A context by number, live or spilled. -/
def anyCtx (s : State) (id : Nat) : Option Context := match getCtx s id with | some c => some c | none => getSpilled s id

/-- A context replaced where it stands. -/
def putCtx (s : State) (c : Context) : State :=
  if s.me.kind ≠ .idle ∧ s.me.id = c.id then { s with me := c }
  else { s with ctxs := updateFirst (fun d => d.id == c.id) (fun _ => c) s.ctxs }

/-- A context changed where it stands. -/
def mapCtx (s : State) (id : Nat) (f : Context → Context) : State :=
  match getCtx s id with
  | none => s
  | some c => putCtx s (f c)

/-- A task by identifier, on a core or waiting for a restart. -/
def getTask (s : State) (tid : Nat) : Option Task := (liveTasks s ++ waitingTasks s).find? fun t => t.tid == tid

/-- A task replaced where it stands. -/
def putTask (s : State) (t : Task) : State :=
  if s.task.phase ≠ .done ∧ s.task.tid = t.tid then { s with task := t }
  else { s with
    tasks := updateFirst (fun u => u.tid == t.tid) (fun _ => t) s.tasks
    dev := { s.dev with waiting := updateFirst (fun u => u.tid == t.tid) (fun _ => t) s.dev.waiting } }

/-- A task changed where it stands. -/
def mapTask (s : State) (tid : Nat) (f : Task → Task) : State :=
  match getTask s tid with
  | none => s
  | some t => putTask s (f t)

/-- A core by number; one that nothing has touched is as after reset. -/
def getCore (s : State) (id : Nat) : Core :=
  if s.core.id = id then s.core else (s.cores.find? fun c => c.id == id).getD (Core.reset id)

/-- A core replaced. -/
def putCore (s : State) (c : Core) : State :=
  if s.core.id = c.id then { s with core := c }
  else { s with cores := c :: s.cores.filter fun d => d.id != c.id }

/-- A core changed. -/
def mapCore (s : State) (id : Nat) (f : Core → Core) : State := putCore s (f (getCore s id))

/-- Every core that something has touched. -/
def knownCores (s : State) : List Core := s.core :: s.cores

/-- The core a context runs on. -/
def coreOf (s : State) (c : Context) : Nat := match getTask s c.task with | some t => t.core | none => 0

/-- The contexts of a task. -/
def ctxsOf (s : State) (tid : Nat) : List Context := (liveCtxs s).filter fun c => c.task == tid

/-- The contexts of a task, those of its stands that are spilled among them (R41). -/
def everyCtxOf (s : State) (tid : Nat) : List Context := ctxsOf s tid ++ s.dev.spilled.filter fun c => c.task == tid

/-- The contexts that hold slots of a core. -/
def ctxsOn (s : State) (core : Nat) : List Context :=
  (liveCtxs s).filter fun c => c.kind != .pending && coreOf s c == core

/-- The core becomes the one under issue. -/
def focusCore (s : State) (id : Nat) : State :=
  if s.core.id = id then s
  else { s with core := getCore s id, cores := s.core :: s.cores.filter fun c => c.id != id }

/-- The context under issue put back behind the others, and its task with the tasks. -/
def stash (s : State) : State :=
  { s with
    me := Context.idle
    ctxs := if s.me.kind = .idle then s.ctxs else s.ctxs ++ [s.me]
    task := Task.none
    tasks := if s.task.phase = .done ∨ s.task.phase = .waiting then s.tasks else s.tasks ++ [s.task]
    dev := if s.task.phase = .waiting then { s.dev with waiting := s.dev.waiting ++ [s.task] } else s.dev }

/-- A context becomes the one under issue, with its task and its core. -/
def focus (s : State) (id : Nat) : State :=
  if s.me.kind ≠ .idle ∧ s.me.id = id then s
  else
    let s := stash s
    match s.ctxs.find? fun c => c.id == id with
    | none => s
    | some c =>
      match s.tasks.find? fun t => t.tid == c.task with
      | none => { s with me := c, ctxs := eraseFirst (fun d => d.id == id) s.ctxs }
      | some t =>
        focusCore { s with
          me := c, ctxs := eraseFirst (fun d => d.id == id) s.ctxs
          task := t, tasks := eraseFirst (fun u => u.tid == t.tid) s.tasks } t.core

/-- A task and its core become those under issue, with no context; a task that waits for its restart has copies to end (R38). -/
def focusTask (s : State) (tid : Nat) : State :=
  let s := stash s
  match s.tasks.find? fun t => t.tid == tid with
  | some t => focusCore { s with task := t, tasks := eraseFirst (fun u => u.tid == tid) s.tasks } t.core
  | none =>
    match s.dev.waiting.find? fun t => t.tid == tid with
    | some t =>
      focusCore { s with task := t, dev := { s.dev with waiting := eraseFirst (fun u => u.tid == tid) s.dev.waiting } } t.core
    | none => s

/-- A path of the context under issue becomes its current one; the other goes to the end. -/
def focusPath (c : Context) (id : Nat) : Context :=
  if c.path.id = id then c
  else match c.paths.find? fun p => p.id == id with
    | none => c
    | some p => { c with path := p, paths := eraseFirst (fun q => q.id == id) c.paths ++ [c.path] }

/-! ## Regions (R354, R355) -/

/-- A loaded region. -/
def getRegion (s : State) (num : Nat) : Option Region := s.dev.regions.find? fun r => r.num == num

/-- A region changed. -/
def mapRegion (s : State) (num : Nat) (f : Region → Region) : State :=
  { s with dev := { s.dev with regions := updateFirst (fun r => r.num == num) f s.dev.regions } }

/-- A region and its ancestors, nearest first; a tree is at most 8 deep. -/
def regionLine (s : State) : Nat → Nat → List Region
  | 0, _ => []
  | fuel + 1, num =>
    match getRegion s num with
    | none => []
    | some r => r :: (match r.parent with | none => [] | some p => regionLine s fuel p)

/-- The line of a region. -/
def ancestry (s : State) (num : Nat) : List Region := regionLine s 8 num

/-- The region whose own field group `g` is in force for a region (R355): bits of INH as R354 numbers them. -/
def effective (s : State) (num g : Nat) : Option Region := (ancestry s num).find? fun r => !r.inherit.getLsbD g

/-- A region lies in the subtree of another. -/
def inSubtree (s : State) (num top : Nat) : Bool := (ancestry s num).any fun r => r.num == top

/-- The default lease of a reach code (R103); reach 4 takes none. -/
def defaultLease (reach : Nat) : Nat :=
  match reach with | 0 => 4096 | 1 => 1024 | 2 => 256 | 3 => 512 | _ => 0

/-- The lease length of a region at a reach (R103, R354). -/
def leaseOf (s : State) (region reach : Nat) : Nat :=
  let own := match effective s region 6 with | some r => if reach < 4 then vget r.lease reach 0 else 0 | none => 0
  if own = 0 then defaultLease reach else own

/-- The version quota of a region in lines (R110, R354). -/
def quotaOf (s : State) (region : Nat) : Nat :=
  match effective s region 2 with
  | some r => if r.vquota = 0 then 2048 else r.vquota
  | none => 2048

/-- The wait limit of a region in ns; none where it is 0 (R57, R354). -/
def waitLimitOf (s : State) (region : Nat) : Option Nat :=
  match effective s region 7 with
  | some r => if r.waitLim = 0 then none else some (256 * r.waitLim)
  | none => none

/-- The cores of a region's placement set (R354): die, cluster and core masks. -/
def placementSet (s : State) (region : Nat) : List Nat :=
  match effective s region 4 with
  | none => []
  | some r =>
    (List.range 4).flatMap fun d =>
      if r.dieMask.getLsbD d then
        (List.range 26).flatMap fun k =>
          if r.clFirst ≤ k && k ≤ r.clLast then
            (List.range 8).filterMap fun c => if r.coreMask.getLsbD c then some (208 * d + 8 * k + c) else none
          else []
      else []

/-! ## Glade banks (R42, R410, R428) -/

/-- A partition exists: partition 0, or one whose descriptor is enabled (R409). -/
def partOn (s : State) (part : Nat) : Bool := part == 0 || (vget s.dev.cfg.parts part ⟨false, 0, 0, 0, 0, 0⟩).en

/-- The partition of a core's bank group (R410); a group mapped to a partition that does not exist is partition 0's (R409). -/
def bankPart (s : State) (core bank : Nat) : Nat :=
  match lookupNat core s.dev.cfg.maps with
  | none => 0
  | some m =>
    let p := bitsOf m.toNat (6 * (bank / 16)) 6
    if partOn s p then p else 0

/-- The role of a code (R216). -/
def roleOf (code : Nat) : Role :=
  match code with | 0 => .reg | 1 => .pad | 2 => .cache | 3 => .fifo | 4 => .tile | _ => .off

/-- The code of a role (R216). -/
def roleCode : Role → Nat
  | .reg => 0 | .pad => 1 | .cache => 2 | .fifo => 3 | .tile => 4 | .off => 5

/-- The banks a role may use, in the order R428 takes them. -/
def bankOrder (r : Role) : List Nat :=
  match r with
  | .tile => List.range 32
  | .fifo => (List.range 16).map fun k => 95 - k
  | _ => ((List.range 48).map fun k => 32 + k) ++ ((List.range 32).map fun k => 31 - k) ++ (List.range 16).map fun k => 80 + k

/-- A bank of a core. -/
def bankAt (c : Core) (b : Nat) : Bank := vget c.banks b ⟨.off, none, false⟩

/-- The OFF banks a partition may take for a role, in order (R42, R428): none that is under test (R397). -/
def offBanks (s : State) (c : Core) (part : Nat) (r : Role) : List Nat :=
  (bankOrder r).filter fun b =>
    (bankAt c b).role == .off && !(bankAt c b).out && !(c.testing.any fun x => x.bank == b) && bankPart s c.id b == part

/-- The banks of a role that a task owns, ascending. -/
def ownBanks (c : Core) (tid : Nat) (r : Role) : List Nat :=
  (List.range 96).filter fun b => (bankAt c b).role == r && (bankAt c b).owner == some tid

/-- Banks given a role and an owner. -/
def setBanks (c : Core) (banks : List Nat) (r : Role) (owner : Option Nat) : Core :=
  { c with banks := banks.foldl (fun v b => vset v b ⟨r, owner, (bankAt c b).out⟩) c.banks }

/-- Files of a REG bank (R44). -/
def filesPerBank (fsize : Nat) : Nat := 4 / 2 ^ fsize

/-- The REG files of a task that no context holds, lowest bank first. -/
def freeFiles (s : State) (t : Task) : List (Nat × Nat) :=
  let used := ((ctxsOf s t.tid).filterMap fun c => c.file)
  ((ownBanks (getCore s t.core) t.tid .reg).flatMap fun b => (List.range (filesPerBank t.fsize)).map fun k => (b, k)).filter
    fun f => !used.contains f

/-- The free context slots of a core, lowest first (R1: 48 slots). -/
def freeSlots (s : State) (core : Nat) : List Nat :=
  let used := (ctxsOn s core).map fun c => c.slotNo
  (List.range 48).filter fun k => !used.contains k

/-- The unbound TILE banks of a task (R48, R62); a spilled stand keeps its bindings (R41). -/
def unboundTiles (s : State) (t : Task) : List Nat :=
  let bound := (everyCtxOf s t.tid).flatMap fun c => c.regs.m.toList.filterMap fun m => m.bank
  let busy := ((getCore s t.core).matq.filter fun o => o.task == t.tid).map fun o => o.bank
  (ownBanks (getCore s t.core) t.tid .tile).filter fun b => !bound.contains b && !busy.contains b

/-! ## Charges (R53) -/

/-- A count added to a counter of a role. -/
def addUsed (v : Vector Nat 5) (r : Role) (n : Nat) : Vector Nat 5 :=
  vset v (roleCode r) (vget v (roleCode r) 0 + n)

/-- A count taken from a counter of a role. -/
def subUsed (v : Vector Nat 5) (r : Role) (n : Nat) : Vector Nat 5 :=
  vset v (roleCode r) (vget v (roleCode r) 0 - n)

/-- The regions of a region's line changed. -/
def mapLine (s : State) (region : Nat) (f : Region → Region) : State :=
  let line := (ancestry s region).map fun r => r.num
  { s with dev := { s.dev with regions := updateAll (fun r => line.contains r.num) f s.dev.regions } }

/-- `n` banks of a role charged to a region and its ancestors (R53). -/
def charge (s : State) (region : Nat) (r : Role) (n : Nat) : State :=
  if r = .off then s else mapLine s region fun g => { g with used := addUsed g.used r n }

/-- `n` banks of a role released (R53). -/
def release (s : State) (region : Nat) (r : Role) (n : Nat) : State :=
  if r = .off then s else mapLine s region fun g => { g with used := subUsed g.used r n }

/-! ## Peers -/

/-- The core of a cluster peer (R1, R125). -/
def peerCore (core k : Nat) : Nat := core / 8 * 8 + k

/-- The task of the same launch on a core (R125, R127). DESIGN CHOICE (log entry 74): of several, the one with the lowest identifier. -/
def peerTask (s : State) (core serial : Nat) : Option Task :=
  leastBy (fun t => t.tid) ((liveTasks s).filter fun t => t.core == core && t.serial == serial)

/-! ## Budgets -/

/-- A region's own budget for a role (R314, R354, R355): all ones where it sets none. -/
def ownBudget (r : Region) (role : Role) : Nat :=
  if r.inherit.getLsbD 1 then 0x1FFFF else vget r.budget (roleCode role) 0x1FFFF

/-- A charge fits the budget of a region and of every ancestor (R51, R53). -/
def chargeFits (s : State) (region : Nat) (role : Role) (n : Nat) : Bool :=
  role == .off || (ancestry s region).all fun r =>
    ownBudget r role == 0x1FFFF || vget r.used (roleCode role) 0 + n ≤ ownBudget r role

/-- A core holds a task of a region's subtree, other than one task; one that waits for its restart does until its banks are OFF (R38). -/
def coreCounts (s : State) (top core tid : Nat) : Bool :=
  (liveTasks s ++ (waitingTasks s).filter fun t => !(ownBanks (getCore s t.core) t.tid .reg).isEmpty).any fun t =>
    t.core == core && t.tid != tid && inSubtree s t.region top

/-- A core charged to the regions that have no other task on it (R354, R370). -/
def chargeCore (s : State) (region core tid : Nat) : State :=
  mapLine s region fun g => if coreCounts s g.num core tid then g else { g with cused := g.cused + 1 }

/-- A core released from the regions that have no other task on it. -/
def releaseCore (s : State) (region core tid : Nat) : State :=
  mapLine s region fun g => if coreCounts s g.num core tid then g else { g with cused := g.cused - 1 }

/-- A core counts already, or every cores budget of the line allows one more (R370). -/
def coreFits (s : State) (region core tid : Nat) : Bool :=
  (ancestry s region).all fun r =>
    coreCounts s r.num core tid || r.inherit.getLsbD 0 || r.cused + 1 ≤ r.cores

end Sys2Proof.Machine
end

