-- ==== Sys2Proof/Decode.lean ====
section
/-! DEFINITION. Decoding of instruction words (file 09, R204 to R217), the encoder, and the table interface.

A word is read by its major opcode, bits [30:25] (R210, R215), then by its minor code, and a field the form does not
use must be zero (R217). What a decoded word's operand codes may name is checked where the word executes
(Machine/Operands.lean), because it depends on the words before it in the chain and on the context. -/

namespace Sys2Proof

/-- Why a word is no instruction (R217). -/
inductive Reject where
  /-- A major opcode that R215 leaves unassigned. -/
  | majorUnassigned
  /-- A minor, function or condition code that R215 reserves. -/
  | minorReserved
  /-- A non-zero bit in a field the form does not use. -/
  | unusedFieldNotZero
  /-- A leading word (format X) without its chain bit (R212, R217). -/
  | leadWithoutChain
  deriving DecidableEq, Repr

/-- `n` bits of a word from bit `lo` up (R5, R210). -/
def fieldAt (w : Word32) (lo n : Nat) : BitVec n := w.extractLsb' lo n

/-- Major opcode, bits [30:25] (R210). -/
def opOf (w : Word32) : BitVec 6 := fieldAt w 25 6

/-- The chain bit C, bit 31 (R205). -/
def chainBit (w : Word32) : Bool := fieldAt w 31 1 = 1#1

/-- Format T (R210). -/
def packT (c : BitVec 1) (op : BitVec 6) (d a b : BitVec 7) (f : BitVec 4) : Word32 := c ++ op ++ d ++ a ++ b ++ f

/-- Format I (R210). -/
def packI (c : BitVec 1) (op : BitVec 6) (d a : BitVec 7) (imm : BitVec 11) : Word32 := c ++ op ++ d ++ a ++ imm

/-- Format M (R210). -/
def packM (c : BitVec 1) (op : BitVec 6) (data : BitVec 7) (base index : BitVec 5) (scale : BitVec 2)
    (disp6 : BitVec 6) : Word32 := c ++ op ++ data ++ base ++ index ++ scale ++ disp6

/-- Format B (R210). -/
def packB (c : BitVec 1) (op : BitVec 6) (cond : BitVec 4) (reg : BitVec 5) (disp : BitVec 16) : Word32 :=
  c ++ op ++ cond ++ reg ++ disp

/-- Format K (R210). -/
def packK (c : BitVec 1) (op : BitVec 6) (tile : BitVec 3) (a b : BitVec 7) (fmt flags : BitVec 4) : Word32 :=
  c ++ op ++ tile ++ a ++ b ++ fmt ++ flags

/-- Format X: a leading word, always chained (R210, R212). -/
def packX (kind : BitVec 3) (payload : BitVec 22) : Word32 := 1#1 ++ 0x3F#6 ++ kind ++ payload

/-- The layout of VAGREE (R333). -/
def packV (c : BitVec 1) (op : BitVec 6) (wd ws : BitVec 3) (t va vb : BitVec 5) (f : BitVec 4) : Word32 :=
  c ++ op ++ wd ++ ws ++ t ++ va ++ vb ++ f

/-- The instruction, provided the bits its form leaves unused are zero (R217). -/
def zeroElse (unused : Bool) (i : Instr) : Except Reject Instr := if unused then .ok i else .error .unusedFieldNotZero

/-- Major 0x00 (minor codes, R215). -/
def decodeCtl (w : Word32) : Except Reject Instr :=
  match (fieldAt w 0 4).toNat with
  | 0 => zeroElse (fieldAt w 4 21 == 0#21) (.nop)
  | 1 => zeroElse (fieldAt w 4 21 == 0#21) (.ret)
  | 2 => zeroElse (fieldAt w 4 21 == 0#21) (.matl)
  | 3 => zeroElse (fieldAt w 18 7 == 0#7) (.rjoin (fieldAt w 11 7) (fieldAt w 4 7))
  | 4 => zeroElse (fieldAt w 4 21 == 0#21) (.join)
  | 5 => zeroElse (fieldAt w 4 21 == 0#21) (.yield)
  | 6 => zeroElse (fieldAt w 4 21 == 0#21) (.exit)
  | 7 => zeroElse (fieldAt w 4 21 == 0#21) (.hret)
  | 8 => zeroElse (fieldAt w 4 14 == 0#14) (.time (fieldAt w 18 7))
  | 9 => zeroElse (fieldAt w 4 14 == 0#14) (.laneid (fieldAt w 18 7))
  | 10 => zeroElse (fieldAt w 11 7 == 0#7) (.idx (fieldAt w 18 7) (fieldAt w 4 7))
  | 11 => zeroElse (fieldAt w 4 7 == 0#7) (.locq (fieldAt w 18 7) (fieldAt w 11 7))
  | 12 => zeroElse (fieldAt w 11 14 == 0#14) (.trap (fieldAt w 4 7))
  | 13 => .ok (.launch (fieldAt w 18 7) (fieldAt w 11 7) (fieldAt w 4 7))
  | 14 => zeroElse (fieldAt w 11 7 == 0#7) (.xset (fieldAt w 18 7) (fieldAt w 4 7))
  | _ => .error .minorReserved

/-- Major 0x01 (minor codes, R215). -/
def decodeJump (w : Word32) : Except Reject Instr :=
  match (fieldAt w 21 4).toNat with
  | 0 => zeroElse (fieldAt w 16 5 == 0#5) (.bra (fieldAt w 0 16))
  | 1 => zeroElse (fieldAt w 16 5 == 0#5) (.call (fieldAt w 0 16))
  | 2 => .ok (.loop (fieldAt w 16 5) (fieldAt w 0 16))
  | _ => .error .minorReserved

/-- Major 0x05 (minor codes, R215). -/
def decodeAop (w : Word32) : Except Reject Instr :=
  match (fieldAt w 0 4).toNat with
  | 0 => .ok (.aadd (fieldAt w 18 7) (fieldAt w 11 7) (fieldAt w 4 7))
  | 1 => .ok (.asub (fieldAt w 18 7) (fieldAt w 11 7) (fieldAt w 4 7))
  | 2 => .ok (.amul (fieldAt w 18 7) (fieldAt w 11 7) (fieldAt w 4 7))
  | 3 => .ok (.ashl (fieldAt w 18 7) (fieldAt w 11 7) (fieldAt w 4 7))
  | 4 => .ok (.ashr (fieldAt w 18 7) (fieldAt w 11 7) (fieldAt w 4 7))
  | 5 => .ok (.aand (fieldAt w 18 7) (fieldAt w 11 7) (fieldAt w 4 7))
  | 6 => .ok (.aor (fieldAt w 18 7) (fieldAt w 11 7) (fieldAt w 4 7))
  | 7 => .ok (.axor (fieldAt w 18 7) (fieldAt w 11 7) (fieldAt w 4 7))
  | 8 => .ok (.amin (fieldAt w 18 7) (fieldAt w 11 7) (fieldAt w 4 7))
  | 9 => .ok (.amax (fieldAt w 18 7) (fieldAt w 11 7) (fieldAt w 4 7))
  | 10 => .ok (.acmpEq (fieldAt w 18 7) (fieldAt w 11 7) (fieldAt w 4 7))
  | 11 => .ok (.acmpNe (fieldAt w 18 7) (fieldAt w 11 7) (fieldAt w 4 7))
  | 12 => .ok (.acmpLt (fieldAt w 18 7) (fieldAt w 11 7) (fieldAt w 4 7))
  | 13 => .ok (.acmpLe (fieldAt w 18 7) (fieldAt w 11 7) (fieldAt w 4 7))
  | 14 => .ok (.acmpLtu (fieldAt w 18 7) (fieldAt w 11 7) (fieldAt w 4 7))
  | 15 => .ok (.acmpLeu (fieldAt w 18 7) (fieldAt w 11 7) (fieldAt w 4 7))
  | _ => .error .minorReserved

/-- Major 0x0D (minor codes, R215). -/
def decodePred (w : Word32) : Except Reject Instr :=
  match (fieldAt w 0 4).toNat with
  | 0 => zeroElse (fieldAt w 21 4 == 0#4 && fieldAt w 14 4 == 0#4 && fieldAt w 7 4 == 0#4) (.pand (fieldAt w 18 3) (fieldAt w 11 3) (fieldAt w 4 3))
  | 1 => zeroElse (fieldAt w 21 4 == 0#4 && fieldAt w 14 4 == 0#4 && fieldAt w 7 4 == 0#4) (.por (fieldAt w 18 3) (fieldAt w 11 3) (fieldAt w 4 3))
  | 2 => zeroElse (fieldAt w 21 4 == 0#4 && fieldAt w 14 4 == 0#4 && fieldAt w 7 4 == 0#4) (.pxor (fieldAt w 18 3) (fieldAt w 11 3) (fieldAt w 4 3))
  | 3 => zeroElse (fieldAt w 21 4 == 0#4 && fieldAt w 14 4 == 0#4 && fieldAt w 4 7 == 0#7) (.pnot (fieldAt w 18 3) (fieldAt w 11 3))
  | 4 => zeroElse (fieldAt w 14 4 == 0#4 && fieldAt w 4 7 == 0#7) (.pcnt (fieldAt w 18 7) (fieldAt w 11 3))
  | 5 => zeroElse (fieldAt w 14 4 == 0#4 && fieldAt w 4 7 == 0#7) (.pfirstA (fieldAt w 18 7) (fieldAt w 11 3))
  | 6 => zeroElse (fieldAt w 21 4 == 0#4 && fieldAt w 14 4 == 0#4 && fieldAt w 4 7 == 0#7) (.pfirstP (fieldAt w 18 3) (fieldAt w 11 3))
  | 7 => zeroElse (fieldAt w 4 7 == 0#7) (.ballot (fieldAt w 18 7) (fieldAt w 11 7))
  | _ => .error .minorReserved

/-- Major 0x0E (minor codes, R215). -/
def decodeSys (w : Word32) : Except Reject Instr :=
  match (fieldAt w 0 4).toNat with
  | 0 => zeroElse (fieldAt w 11 7 == 0#7) (.gets (fieldAt w 18 7) (fieldAt w 4 7))
  | 1 => zeroElse (fieldAt w 18 7 == 0#7) (.sets (fieldAt w 11 7) (fieldAt w 4 7))
  | 2 => .ok (.lread (fieldAt w 18 7) (fieldAt w 11 7) (fieldAt w 4 7))
  | 3 => .ok (.lwrite (fieldAt w 18 7) (fieldAt w 11 7) (fieldAt w 4 7))
  | _ => .error .minorReserved

/-- Major 0x15 (minor codes, R215). -/
def decodeMinMax (w : Word32) : Except Reject Instr :=
  match (fieldAt w 3 1).toNat with
  | 0 => .ok (.imin (fieldAt w 18 7) (fieldAt w 11 7) (fieldAt w 4 7) (fieldAt w 0 3))
  | 1 => .ok (.imax (fieldAt w 18 7) (fieldAt w 11 7) (fieldAt w 4 7) (fieldAt w 0 3))
  | _ => .error .minorReserved

/-- Major 0x19 (minor codes, R215). -/
def decodeBitw (w : Word32) : Except Reject Instr :=
  match (fieldAt w 0 4).toNat with
  | 0 => .ok (.and (fieldAt w 18 7) (fieldAt w 11 7) (fieldAt w 4 7))
  | 1 => .ok (.or (fieldAt w 18 7) (fieldAt w 11 7) (fieldAt w 4 7))
  | 2 => .ok (.xor (fieldAt w 18 7) (fieldAt w 11 7) (fieldAt w 4 7))
  | 3 => .ok (.andn (fieldAt w 18 7) (fieldAt w 11 7) (fieldAt w 4 7))
  | 4 => .ok (.shl (fieldAt w 18 7) (fieldAt w 11 7) (fieldAt w 4 7))
  | 5 => .ok (.shr (fieldAt w 18 7) (fieldAt w 11 7) (fieldAt w 4 7))
  | 6 => .ok (.sar (fieldAt w 18 7) (fieldAt w 11 7) (fieldAt w 4 7))
  | 7 => .ok (.rotl (fieldAt w 18 7) (fieldAt w 11 7) (fieldAt w 4 7))
  | 8 => zeroElse (fieldAt w 4 7 == 0#7) (.popc (fieldAt w 18 7) (fieldAt w 11 7))
  | 9 => zeroElse (fieldAt w 4 7 == 0#7) (.clz (fieldAt w 18 7) (fieldAt w 11 7))
  | 10 => zeroElse (fieldAt w 4 7 == 0#7) (.brev (fieldAt w 18 7) (fieldAt w 11 7))
  | _ => .error .minorReserved

/-- Major 0x1A (minor codes, R215). -/
def decodeByte (w : Word32) : Except Reject Instr :=
  match (fieldAt w 0 4).toNat with
  | 0 => .ok (.blut (fieldAt w 18 7) (fieldAt w 11 7) (fieldAt w 4 7))
  | 1 => .ok (.bshuf (fieldAt w 18 7) (fieldAt w 11 7) (fieldAt w 4 7))
  | 2 => .ok (.bcmpEq (fieldAt w 18 7) (fieldAt w 11 7) (fieldAt w 4 7))
  | 3 => .ok (.bcmpLt (fieldAt w 18 7) (fieldAt w 11 7) (fieldAt w 4 7))
  | 4 => .ok (.bcmpLtu (fieldAt w 18 7) (fieldAt w 11 7) (fieldAt w 4 7))
  | 5 => .ok (.baddsI8 (fieldAt w 18 7) (fieldAt w 11 7) (fieldAt w 4 7))
  | 6 => .ok (.baddsN8 (fieldAt w 18 7) (fieldAt w 11 7) (fieldAt w 4 7))
  | _ => .error .minorReserved

/-- Major 0x24 (minor codes, R215). -/
def decodeFMinMax (w : Word32) : Except Reject Instr :=
  match (fieldAt w 0 4).toNat with
  | 0 => .ok (.fmin (fieldAt w 18 7) (fieldAt w 11 7) (fieldAt w 4 7))
  | 8 => .ok (.fmax (fieldAt w 18 7) (fieldAt w 11 7) (fieldAt w 4 7))
  | _ => .error .minorReserved

/-- Major 0x27 (minor codes, R215). -/
def decodeFun (w : Word32) : Except Reject Instr :=
  match (fieldAt w 4 7).toNat with
  | 0 => .ok (.fsqrt (fieldAt w 18 7) (fieldAt w 11 7) (fieldAt w 0 4))
  | 1 => .ok (.frcp (fieldAt w 18 7) (fieldAt w 11 7) (fieldAt w 0 4))
  | 2 => .ok (.frsq (fieldAt w 18 7) (fieldAt w 11 7) (fieldAt w 0 4))
  | 3 => .ok (.fexp2 (fieldAt w 18 7) (fieldAt w 11 7) (fieldAt w 0 4))
  | 4 => .ok (.flog2 (fieldAt w 18 7) (fieldAt w 11 7) (fieldAt w 0 4))
  | 5 => .ok (.fsin (fieldAt w 18 7) (fieldAt w 11 7) (fieldAt w 0 4))
  | 6 => .ok (.fcos (fieldAt w 18 7) (fieldAt w 11 7) (fieldAt w 0 4))
  | 7 => zeroElse (fieldAt w 0 4 == 0#4) (.fclass (fieldAt w 18 7) (fieldAt w 11 7))
  | _ => .error .minorReserved

/-- Major 0x2F (minor codes, R215). LDK's index must be 31, and its scale, which its form does not use, 0: `operandsOk` (R217, R288).
DEDUCED (log entry 103). -/
def decodeConst (w : Word32) : Except Reject Instr :=
  if fieldAt w 18 7 == 127#7 then .ok (.pref (fieldAt w 13 5) (fieldAt w 8 5) (fieldAt w 6 2) (fieldAt w 0 6)) else zeroElse (fieldAt w 8 5 == 31#5) (.ldk (fieldAt w 18 7) (fieldAt w 13 5) (fieldAt w 6 2) (fieldAt w 0 6))

/-- Major 0x32 (minor codes, R215). -/
def decodeAtom (w : Word32) : Except Reject Instr :=
  match (fieldAt w 16 2).toNat with
  | 0 => .ok (.atomg (fieldAt w 18 7) (fieldAt w 11 5) (fieldAt w 4 7) (fieldAt w 0 4))
  | 1 => .ok (.atomp (fieldAt w 18 7) (fieldAt w 11 5) (fieldAt w 4 7) (fieldAt w 0 4))
  | 2 => .ok (.atomr (fieldAt w 18 7) (fieldAt w 11 5) (fieldAt w 4 7) (fieldAt w 0 4))
  | _ => .error .minorReserved

/-- Major 0x33 (minor codes, R215). -/
def decodeCopy (w : Word32) : Except Reject Instr :=
  match (fieldAt w 0 4).toNat with
  | 0 => .ok (.cpy (fieldAt w 18 7) (fieldAt w 11 7) (fieldAt w 4 7) (fieldAt w 0 2))
  | 1 => .ok (.cpy (fieldAt w 18 7) (fieldAt w 11 7) (fieldAt w 4 7) (fieldAt w 0 2))
  | 2 => .ok (.cpy (fieldAt w 18 7) (fieldAt w 11 7) (fieldAt w 4 7) (fieldAt w 0 2))
  | 3 => .ok (.cpy (fieldAt w 18 7) (fieldAt w 11 7) (fieldAt w 4 7) (fieldAt w 0 2))
  | 4 => .ok (.cpyi (fieldAt w 18 7) (fieldAt w 11 7) (fieldAt w 4 7) (fieldAt w 0 2))
  | 5 => .ok (.cpyi (fieldAt w 18 7) (fieldAt w 11 7) (fieldAt w 4 7) (fieldAt w 0 2))
  | 6 => .ok (.cpyi (fieldAt w 18 7) (fieldAt w 11 7) (fieldAt w 4 7) (fieldAt w 0 2))
  | 7 => .ok (.cpyi (fieldAt w 18 7) (fieldAt w 11 7) (fieldAt w 4 7) (fieldAt w 0 2))
  | 8 => zeroElse (fieldAt w 4 21 == 0#21) (.cseal)
  | 9 => zeroElse (fieldAt w 11 14 == 0#14) (.cwait (fieldAt w 4 7))
  | 10 => zeroElse (fieldAt w 18 7 == 0#7) (.pempty (fieldAt w 11 7) (fieldAt w 4 7))
  | _ => .error .minorReserved

/-- Major 0x34 (minor codes, R215). -/
def decodeSync (w : Word32) : Except Reject Instr :=
  match (fieldAt w 0 4).toNat with
  | 0 => zeroElse (fieldAt w 4 21 == 0#21) (.fence)
  | 1 => zeroElse (fieldAt w 18 7 == 0#7) (.barinit (fieldAt w 11 7) (fieldAt w 4 7))
  | 2 => zeroElse (fieldAt w 4 7 == 0#7) (.bararr (fieldAt w 18 7) (fieldAt w 11 7))
  | 3 => zeroElse (fieldAt w 18 7 == 0#7) (.barwait (fieldAt w 11 7) (fieldAt w 4 7))
  | 4 => zeroElse (fieldAt w 18 7 == 0#7 && fieldAt w 4 7 == 0#7) (.barinv (fieldAt w 11 7))
  | 5 => .ok (.semw (fieldAt w 18 7) (fieldAt w 11 7) (fieldAt w 4 7))
  | 6 => zeroElse (fieldAt w 18 7 == 0#7) (.sems (fieldAt w 11 7) (fieldAt w 4 7))
  | 7 => zeroElse (fieldAt w 18 7 == 0#7) (.tlbinv (fieldAt w 11 7) (fieldAt w 4 7))
  | _ => .error .minorReserved

/-- Major 0x35 (minor codes, R215). -/
def decodeQueue (w : Word32) : Except Reject Instr :=
  match (fieldAt w 0 4).toNat with
  | 0 => .ok (.sendq (fieldAt w 18 7) (fieldAt w 11 7) (fieldAt w 4 7))
  | 1 => zeroElse (fieldAt w 4 7 == 0#7) (.recvq (fieldAt w 18 7) (fieldAt w 11 7))
  | 2 => zeroElse (fieldAt w 22 3 == 0#3) (.padopen (fieldAt w 18 2) (fieldAt w 20 2) (fieldAt w 11 7) (fieldAt w 4 7))
  | _ => .error .minorReserved

/-- Major 0x36 (minor codes, R215). -/
def decodeGlade (w : Word32) : Except Reject Instr :=
  if fieldAt w 3 1 == 0#1 then zeroElse (fieldAt w 11 1 == 0#1) (.poolset (fieldAt w 18 7) (fieldAt w 15 3) (fieldAt w 12 3) (fieldAt w 4 7) (fieldAt w 0 3))
  else if fieldAt w 0 4 == 8#4 then zeroElse (fieldAt w 4 8 == 0#8) (.poolq (fieldAt w 18 7) (fieldAt w 15 3) (fieldAt w 12 3))
  else .error .minorReserved

/-- Major 0x3A (minor codes, R215). -/
def decodeMtile (w : Word32) : Except Reject Instr :=
  match (fieldAt w 4 4).toNat with
  | 0 => zeroElse (fieldAt w 8 14 == 0#14 && fieldAt w 1 3 == 0#3) (.mzero (fieldAt w 22 3) (fieldAt w 0 1))
  | 1 => zeroElse (fieldAt w 8 7 == 0#7 && fieldAt w 1 3 == 0#3) (.mload (fieldAt w 22 3) (fieldAt w 15 7) (fieldAt w 0 1))
  | 2 => zeroElse (fieldAt w 8 7 == 0#7) (.mdrain (fieldAt w 22 3) (fieldAt w 15 7) (fieldAt w 0 4))
  | _ => .error .minorReserved

/-- Major 0x3B (minor codes, R215). -/
def decodeMctl (w : Word32) : Except Reject Instr :=
  match (fieldAt w 4 4).toNat with
  | 0 => zeroElse (fieldAt w 8 17 == 0#17 && fieldAt w 0 4 == 0#4) (.mseal)
  | 1 => zeroElse (fieldAt w 8 17 == 0#17) (.mwait (fieldAt w 0 4))
  | 2 => zeroElse (fieldAt w 8 7 == 0#7 && fieldAt w 0 4 == 0#4) (.epload (fieldAt w 22 3) (fieldAt w 15 7))
  | _ => .error .minorReserved

/-- Major 0x3C (minor codes, R215). -/
def decodeRgeo (w : Word32) : Except Reject Instr :=
  match (fieldAt w 0 4).toNat with
  | 0 => .ok (.rset (fieldAt w 18 7) (fieldAt w 11 7) (fieldAt w 4 7) (fieldAt w 0 2))
  | 1 => .ok (.rset (fieldAt w 18 7) (fieldAt w 11 7) (fieldAt w 4 7) (fieldAt w 0 2))
  | 2 => .ok (.rset (fieldAt w 18 7) (fieldAt w 11 7) (fieldAt w 4 7) (fieldAt w 0 2))
  | 3 => .ok (.rset (fieldAt w 18 7) (fieldAt w 11 7) (fieldAt w 4 7) (fieldAt w 0 2))
  | 4 => zeroElse (fieldAt w 10 1 == 0#1) (.rast (fieldAt w 18 7) (fieldAt w 11 7) (fieldAt w 7 3) (fieldAt w 4 3))
  | 5 => zeroElse (fieldAt w 11 7 == 0#7 && fieldAt w 4 3 == 0#3) (.travset (fieldAt w 18 7) (fieldAt w 7 4))
  | 6 => .ok (.travRay (fieldAt w 18 7) (fieldAt w 11 7) (fieldAt w 7 4) (fieldAt w 4 3))
  | 7 => .ok (.travBox (fieldAt w 18 7) (fieldAt w 11 7) (fieldAt w 7 4) (fieldAt w 4 3))
  | 8 => zeroElse (fieldAt w 20 5 == 0#5) (.fbload (fieldAt w 18 2) (fieldAt w 11 7) (fieldAt w 4 7))
  | 9 => zeroElse (fieldAt w 20 5 == 0#5) (.fbstore (fieldAt w 18 2) (fieldAt w 11 7) (fieldAt w 4 7))
  | 10 => zeroElse (fieldAt w 18 7 == 0#7) (.fbdone (fieldAt w 11 7) (fieldAt w 4 7))
  | _ => .error .minorReserved

/-- Major 0x3D (minor codes, R215). -/
def decodeTile (w : Word32) : Except Reject Instr :=
  match (fieldAt w 0 4).toNat with
  | 0 => zeroElse (fieldAt w 21 4 == 0#4 && fieldAt w 14 4 == 0#4) (.vtest (fieldAt w 18 3) (fieldAt w 11 3) (fieldAt w 4 7) (fieldAt w 0 4))
  | 1 => zeroElse (fieldAt w 21 4 == 0#4 && fieldAt w 14 4 == 0#4) (.vtest (fieldAt w 18 3) (fieldAt w 11 3) (fieldAt w 4 7) (fieldAt w 0 4))
  | 2 => zeroElse (fieldAt w 21 4 == 0#4 && fieldAt w 14 4 == 0#4) (.vtest (fieldAt w 18 3) (fieldAt w 11 3) (fieldAt w 4 7) (fieldAt w 0 4))
  | 3 => zeroElse (fieldAt w 21 4 == 0#4 && fieldAt w 14 4 == 0#4) (.vtest (fieldAt w 18 3) (fieldAt w 11 3) (fieldAt w 4 7) (fieldAt w 0 4))
  | 4 => zeroElse (fieldAt w 21 4 == 0#4 && fieldAt w 14 4 == 0#4) (.vtest (fieldAt w 18 3) (fieldAt w 11 3) (fieldAt w 4 7) (fieldAt w 0 4))
  | 5 => zeroElse (fieldAt w 21 4 == 0#4 && fieldAt w 14 4 == 0#4) (.vtest (fieldAt w 18 3) (fieldAt w 11 3) (fieldAt w 4 7) (fieldAt w 0 4))
  | 6 => zeroElse (fieldAt w 14 4 == 0#4) (.fbw (fieldAt w 18 7) (fieldAt w 11 3) (fieldAt w 4 7) (fieldAt w 0 4))
  | 7 => zeroElse (fieldAt w 14 4 == 0#4) (.fbw (fieldAt w 18 7) (fieldAt w 11 3) (fieldAt w 4 7) (fieldAt w 0 4))
  | 8 => zeroElse (fieldAt w 14 4 == 0#4) (.fbw (fieldAt w 18 7) (fieldAt w 11 3) (fieldAt w 4 7) (fieldAt w 0 4))
  | 9 => zeroElse (fieldAt w 14 4 == 0#4) (.fbw (fieldAt w 18 7) (fieldAt w 11 3) (fieldAt w 4 7) (fieldAt w 0 4))
  | _ => .error .minorReserved

/-- Major 0x3E (minor codes, R215). -/
def decodeVint (w : Word32) : Except Reject Instr :=
  match (fieldAt w 0 4).toNat with
  | 0 => zeroElse (fieldAt w 24 1 == 0#1 && fieldAt w 14 4 == 0#4 && fieldAt w 4 7 == 0#7) (.vsplit (fieldAt w 18 3) (fieldAt w 21 3) (fieldAt w 11 3))
  | 1 => zeroElse (fieldAt w 14 4 == 0#4 && fieldAt w 4 7 == 0#7) (.vends (fieldAt w 18 7) (fieldAt w 11 3))
  | 2 => zeroElse (fieldAt w 21 4 == 0#4 && fieldAt w 14 4 == 0#4) (.vmask (fieldAt w 18 3) (fieldAt w 11 3) (fieldAt w 4 7))
  | 3 => .ok (.vagree (fieldAt w 22 3) (fieldAt w 19 3) (fieldAt w 14 5) (fieldAt w 9 5) (fieldAt w 4 5))
  | 4 => zeroElse (fieldAt w 24 1 == 0#1 && fieldAt w 14 4 == 0#4 && fieldAt w 4 7 == 0#7) (.vhalve (fieldAt w 18 3) (fieldAt w 21 3) (fieldAt w 11 3))
  | _ => .error .minorReserved

/-- The instruction of a word, or why it is none (R215, R217). -/
def decodeWord (w : Word32) : Except Reject Instr :=
  match (opOf w).toNat with
  | 0x00 => decodeCtl w
  | 0x01 => decodeJump w
  | 0x02 => .ok (.brc (fieldAt w 21 4) (fieldAt w 16 5) (fieldAt w 0 16))
  | 0x03 => zeroElse (fieldAt w 22 3 == 0#3 && fieldAt w 19 2 == 0#2) (.brv (fieldAt w 21 1) (fieldAt w 16 3) (fieldAt w 0 16))
  | 0x04 => zeroElse (fieldAt w 18 7 == 0#7 && fieldAt w 0 11 == 0#11) (.brx (fieldAt w 11 7))
  | 0x05 => decodeAop w
  | 0x06 => .ok (.aaddi (fieldAt w 18 7) (fieldAt w 11 7) (fieldAt w 0 11))
  | 0x07 => .ok (.amuli (fieldAt w 18 7) (fieldAt w 11 7) (fieldAt w 0 11))
  | 0x08 => .ok (.ashli (fieldAt w 18 7) (fieldAt w 11 7) (fieldAt w 0 11))
  | 0x09 => .ok (.ashri (fieldAt w 18 7) (fieldAt w 11 7) (fieldAt w 0 11))
  | 0x0A => zeroElse (fieldAt w 11 7 == 0#7) (.amovi (fieldAt w 18 7) (fieldAt w 0 11))
  | 0x0B => .ok (.aandi (fieldAt w 18 7) (fieldAt w 11 7) (fieldAt w 0 11))
  | 0x0C => zeroElse (fieldAt w 6 7 == 124#7) (.ald (fieldAt w 18 7) (fieldAt w 13 5) (fieldAt w 0 6))
  | 0x0D => decodePred w
  | 0x0E => decodeSys w
  | 0x10 => .ok (.iadd (fieldAt w 18 7) (fieldAt w 11 7) (fieldAt w 4 7) (fieldAt w 0 4))
  | 0x11 => .ok (.isub (fieldAt w 18 7) (fieldAt w 11 7) (fieldAt w 4 7) (fieldAt w 0 4))
  | 0x12 => .ok (.imul (fieldAt w 18 7) (fieldAt w 11 7) (fieldAt w 4 7) (fieldAt w 0 4))
  | 0x13 => zeroElse (fieldAt w 3 1 == 0#1) (.imulh (fieldAt w 18 7) (fieldAt w 11 7) (fieldAt w 4 7) (fieldAt w 0 3))
  | 0x14 => .ok (.imad (fieldAt w 18 7) (fieldAt w 11 7) (fieldAt w 4 7) (fieldAt w 0 4))
  | 0x15 => decodeMinMax w
  | 0x16 => zeroElse (fieldAt w 4 7 == 0#7) (.iabs (fieldAt w 18 7) (fieldAt w 11 7) (fieldAt w 0 4))
  | 0x17 => zeroElse (fieldAt w 3 1 == 0#1) (.icmp (fieldAt w 18 7) (fieldAt w 11 7) (fieldAt w 4 7) (fieldAt w 0 3))
  | 0x18 => zeroElse (fieldAt w 3 1 == 0#1) (.sel (fieldAt w 18 7) (fieldAt w 11 7) (fieldAt w 4 7) (fieldAt w 0 3))
  | 0x19 => decodeBitw w
  | 0x1A => decodeByte w
  | 0x1B => .ok (.lshc (fieldAt w 18 7) (fieldAt w 11 7) (fieldAt w 4 7) (fieldAt w 0 4))
  | 0x1C => zeroElse (fieldAt w 0 4 == 0#4) (.xperm (fieldAt w 18 7) (fieldAt w 11 7) (fieldAt w 4 7))
  | 0x1D => zeroElse (fieldAt w 4 7 == 0#7) (.vscan (fieldAt w 18 7) (fieldAt w 11 7) (fieldAt w 0 4))
  | 0x1E => zeroElse (fieldAt w 4 7 == 0#7) (.vred (fieldAt w 18 7) (fieldAt w 11 7) (fieldAt w 0 4))
  | 0x20 => .ok (.fadd (fieldAt w 18 7) (fieldAt w 11 7) (fieldAt w 4 7) (fieldAt w 0 4))
  | 0x21 => .ok (.fsub (fieldAt w 18 7) (fieldAt w 11 7) (fieldAt w 4 7) (fieldAt w 0 4))
  | 0x22 => .ok (.fmul (fieldAt w 18 7) (fieldAt w 11 7) (fieldAt w 4 7) (fieldAt w 0 4))
  | 0x23 => .ok (.fma (fieldAt w 18 7) (fieldAt w 11 7) (fieldAt w 4 7) (fieldAt w 0 4))
  | 0x24 => decodeFMinMax w
  | 0x25 => zeroElse (fieldAt w 0 4 == 0#4) (.fcmp (fieldAt w 18 7) (fieldAt w 11 7) (fieldAt w 4 7))
  | 0x26 => .ok (.fdiv (fieldAt w 18 7) (fieldAt w 11 7) (fieldAt w 4 7) (fieldAt w 0 4))
  | 0x27 => decodeFun w
  | 0x28 => zeroElse (fieldAt w 9 2 == 0#2) (.cvt (fieldAt w 18 7) (fieldAt w 11 7) (fieldAt w 4 5) (fieldAt w 0 4))
  | 0x29 => .ok (.xsum (fieldAt w 18 7) (fieldAt w 13 5) (fieldAt w 8 5) (fieldAt w 6 2) (fieldAt w 0 6))
  | 0x2A => .ok (.sumrd (fieldAt w 18 7) (fieldAt w 13 5) (fieldAt w 8 5) (fieldAt w 6 2) (fieldAt w 0 6))
  | 0x2C => .ok (.ldg (fieldAt w 18 7) (fieldAt w 13 5) (fieldAt w 8 5) (fieldAt w 6 2) (fieldAt w 0 6))
  | 0x2D => .ok (.ldgF (fieldAt w 18 7) (fieldAt w 13 5) (fieldAt w 8 5) (fieldAt w 6 2) (fieldAt w 0 6))
  | 0x2E => .ok (.stg (fieldAt w 18 7) (fieldAt w 13 5) (fieldAt w 8 5) (fieldAt w 6 2) (fieldAt w 0 6))
  | 0x2F => decodeConst w
  | 0x30 => .ok (.ldp (fieldAt w 18 7) (fieldAt w 13 5) (fieldAt w 8 5) (fieldAt w 6 2) (fieldAt w 0 6))
  | 0x31 => .ok (.stp (fieldAt w 18 7) (fieldAt w 13 5) (fieldAt w 8 5) (fieldAt w 6 2) (fieldAt w 0 6))
  | 0x32 => decodeAtom w
  | 0x33 => decodeCopy w
  | 0x34 => decodeSync w
  | 0x35 => decodeQueue w
  | 0x36 => decodeGlade w
  | 0x38 => zeroElse (fieldAt w 2 2 == 0#2) (.mma (fieldAt w 22 3) (fieldAt w 15 7) (fieldAt w 8 7) (fieldAt w 4 4) (fieldAt w 0 2))
  | 0x39 => zeroElse (fieldAt w 2 2 == 0#2) (.mmas (fieldAt w 22 3) (fieldAt w 15 7) (fieldAt w 8 7) (fieldAt w 4 4) (fieldAt w 0 2))
  | 0x3A => decodeMtile w
  | 0x3B => decodeMctl w
  | 0x3C => decodeRgeo w
  | 0x3D => decodeTile w
  | 0x3E => decodeVint w
  | 0x3F => if chainBit w then .ok (.xpfx (fieldAt w 22 3) (fieldAt w 0 22)) else .error .leadWithoutChain
  | _ => .error .majorUnassigned

/-- A little-endian word of four bytes, the first at the lowest address (R5, R204). -/
def wordOfBytes (b0 b1 b2 b3 : Byte) : Word32 := b3 ++ b2 ++ b1 ++ b0

/-- The four bytes of a word as memory holds them (R5, R204). -/
def bytesOfWord (w : Word32) : List Byte := [fieldAt w 0 8, fieldAt w 8 8, fieldAt w 16 8, fieldAt w 24 8]

/-- The instruction at the front of a byte stream with the bytes after it; `none` for a short stream. -/
def decodeBytes : List Byte → Option (Except Reject Instr × List Byte)
  | b0 :: b1 :: b2 :: b3 :: rest => some (decodeWord (wordOfBytes b0 b1 b2 b3), rest)
  | _ => none

/-- The instruction the decoder reads from a table word of `nbits` bits (one 32-bit word, R204). -/
def decodeTableWord (nbits w : Nat) : Option Instr :=
  if nbits ≤ 32 then
    match decodeBytes (bytesOfWord (BitVec.ofNat 32 (w % 2 ^ nbits))) with
    | some (.ok i, _) => some i
    | _ => none
  else none

/-- The word of an instruction with chain bit `c`; `none` for the steps of the other agents, which have no encoding.
A leading word is always chained (R212). -/
def encode (c : BitVec 1) : Instr → Option Word32
  | .nop => some (packT c 0#6 0#7 0#7 0#7 0#4)
  | .ret => some (packT c 0#6 0#7 0#7 0#7 1#4)
  | .matl => some (packT c 0#6 0#7 0#7 0#7 2#4)
  | .rjoin a b => some (packT c 0#6 0#7 a b 3#4)
  | .join => some (packT c 0#6 0#7 0#7 0#7 4#4)
  | .yield => some (packT c 0#6 0#7 0#7 0#7 5#4)
  | .exit => some (packT c 0#6 0#7 0#7 0#7 6#4)
  | .hret => some (packT c 0#6 0#7 0#7 0#7 7#4)
  | .time d => some (packT c 0#6 d 0#7 0#7 8#4)
  | .laneid d => some (packT c 0#6 d 0#7 0#7 9#4)
  | .idx d b => some (packT c 0#6 d 0#7 b 10#4)
  | .locq d a => some (packT c 0#6 d a 0#7 11#4)
  | .trap b => some (packT c 0#6 0#7 0#7 b 12#4)
  | .launch d a b => some (packT c 0#6 d a b 13#4)
  | .xset d b => some (packT c 0#6 d 0#7 b 14#4)
  | .bra disp => some (packB c 1#6 0#4 0#5 disp)
  | .call disp => some (packB c 1#6 1#4 0#5 disp)
  | .loop reg disp => some (packB c 1#6 2#4 reg disp)
  | .brc cond reg disp => some (packB c 2#6 cond reg disp)
  | .brv sense preg disp => some (packB c 3#6 (0#3 ++ sense) (0#2 ++ preg) disp)
  | .brx a => some (packT c 4#6 0#7 a 0#7 0#4)
  | .aadd d a b => some (packT c 5#6 d a b 0#4)
  | .asub d a b => some (packT c 5#6 d a b 1#4)
  | .amul d a b => some (packT c 5#6 d a b 2#4)
  | .ashl d a b => some (packT c 5#6 d a b 3#4)
  | .ashr d a b => some (packT c 5#6 d a b 4#4)
  | .aand d a b => some (packT c 5#6 d a b 5#4)
  | .aor d a b => some (packT c 5#6 d a b 6#4)
  | .axor d a b => some (packT c 5#6 d a b 7#4)
  | .amin d a b => some (packT c 5#6 d a b 8#4)
  | .amax d a b => some (packT c 5#6 d a b 9#4)
  | .acmpEq d a b => some (packT c 5#6 d a b 10#4)
  | .acmpNe d a b => some (packT c 5#6 d a b 11#4)
  | .acmpLt d a b => some (packT c 5#6 d a b 12#4)
  | .acmpLe d a b => some (packT c 5#6 d a b 13#4)
  | .acmpLtu d a b => some (packT c 5#6 d a b 14#4)
  | .acmpLeu d a b => some (packT c 5#6 d a b 15#4)
  | .aaddi d a imm => some (packI c 6#6 d a imm)
  | .amuli d a imm => some (packI c 7#6 d a imm)
  | .ashli d a imm => some (packI c 8#6 d a imm)
  | .ashri d a imm => some (packI c 9#6 d a imm)
  | .amovi d imm => some (packI c 10#6 d 0#7 imm)
  | .aandi d a imm => some (packI c 11#6 d a imm)
  | .ald data base disp6 => some (packM c 12#6 data base 31#5 0#2 disp6)
  | .pand pd pa pb => some (packT c 13#6 (0#4 ++ pd) (0#4 ++ pa) (0#4 ++ pb) 0#4)
  | .por pd pa pb => some (packT c 13#6 (0#4 ++ pd) (0#4 ++ pa) (0#4 ++ pb) 1#4)
  | .pxor pd pa pb => some (packT c 13#6 (0#4 ++ pd) (0#4 ++ pa) (0#4 ++ pb) 2#4)
  | .pnot pd pa => some (packT c 13#6 (0#4 ++ pd) (0#4 ++ pa) 0#7 3#4)
  | .pcnt d pa => some (packT c 13#6 d (0#4 ++ pa) 0#7 4#4)
  | .pfirstA d pa => some (packT c 13#6 d (0#4 ++ pa) 0#7 5#4)
  | .pfirstP pd pa => some (packT c 13#6 (0#4 ++ pd) (0#4 ++ pa) 0#7 6#4)
  | .ballot d a => some (packT c 13#6 d a 0#7 7#4)
  | .gets d b => some (packT c 14#6 d 0#7 b 0#4)
  | .sets a b => some (packT c 14#6 0#7 a b 1#4)
  | .lread d a b => some (packT c 14#6 d a b 2#4)
  | .lwrite d a b => some (packT c 14#6 d a b 3#4)
  | .iadd d a b f => some (packT c 16#6 d a b f)
  | .isub d a b f => some (packT c 17#6 d a b f)
  | .imul d a b f => some (packT c 18#6 d a b f)
  | .imulh d a b f3 => some (packT c 19#6 d a b (0#1 ++ f3))
  | .imad d a b f => some (packT c 20#6 d a b f)
  | .imin d a b f3 => some (packT c 21#6 d a b (0#1 ++ f3))
  | .imax d a b f3 => some (packT c 21#6 d a b (1#1 ++ f3))
  | .iabs d a f => some (packT c 22#6 d a 0#7 f)
  | .icmp d a b f3 => some (packT c 23#6 d a b (0#1 ++ f3))
  | .sel d a b f3 => some (packT c 24#6 d a b (0#1 ++ f3))
  | .and d a b => some (packT c 25#6 d a b 0#4)
  | .or d a b => some (packT c 25#6 d a b 1#4)
  | .xor d a b => some (packT c 25#6 d a b 2#4)
  | .andn d a b => some (packT c 25#6 d a b 3#4)
  | .shl d a b => some (packT c 25#6 d a b 4#4)
  | .shr d a b => some (packT c 25#6 d a b 5#4)
  | .sar d a b => some (packT c 25#6 d a b 6#4)
  | .rotl d a b => some (packT c 25#6 d a b 7#4)
  | .popc d a => some (packT c 25#6 d a 0#7 8#4)
  | .clz d a => some (packT c 25#6 d a 0#7 9#4)
  | .brev d a => some (packT c 25#6 d a 0#7 10#4)
  | .blut d a b => some (packT c 26#6 d a b 0#4)
  | .bshuf d a b => some (packT c 26#6 d a b 1#4)
  | .bcmpEq d a b => some (packT c 26#6 d a b 2#4)
  | .bcmpLt d a b => some (packT c 26#6 d a b 3#4)
  | .bcmpLtu d a b => some (packT c 26#6 d a b 4#4)
  | .baddsI8 d a b => some (packT c 26#6 d a b 5#4)
  | .baddsN8 d a b => some (packT c 26#6 d a b 6#4)
  | .lshc d a b f => some (packT c 27#6 d a b f)
  | .xperm d a b => some (packT c 28#6 d a b 0#4)
  | .vscan d a f => some (packT c 29#6 d a 0#7 f)
  | .vred d a f => some (packT c 30#6 d a 0#7 f)
  | .fadd d a b f => some (packT c 32#6 d a b f)
  | .fsub d a b f => some (packT c 33#6 d a b f)
  | .fmul d a b f => some (packT c 34#6 d a b f)
  | .fma d a b f => some (packT c 35#6 d a b f)
  | .fmin d a b => some (packT c 36#6 d a b 0#4)
  | .fmax d a b => some (packT c 36#6 d a b 8#4)
  | .fcmp d a b => some (packT c 37#6 d a b 0#4)
  | .fdiv d a b f => some (packT c 38#6 d a b f)
  | .fsqrt d a f => some (packT c 39#6 d a 0#7 f)
  | .frcp d a f => some (packT c 39#6 d a 1#7 f)
  | .frsq d a f => some (packT c 39#6 d a 2#7 f)
  | .fexp2 d a f => some (packT c 39#6 d a 3#7 f)
  | .flog2 d a f => some (packT c 39#6 d a 4#7 f)
  | .fsin d a f => some (packT c 39#6 d a 5#7 f)
  | .fcos d a f => some (packT c 39#6 d a 6#7 f)
  | .fclass d a => some (packT c 39#6 d a 7#7 0#4)
  | .cvt d a dt f => some (packT c 40#6 d a (0#2 ++ dt) f)
  | .xsum data base index scale disp6 => some (packM c 41#6 data base index scale disp6)
  | .sumrd data base index scale disp6 => some (packM c 42#6 data base index scale disp6)
  | .ldg data base index scale disp6 => some (packM c 44#6 data base index scale disp6)
  | .ldgF data base index scale disp6 => some (packM c 45#6 data base index scale disp6)
  | .stg data base index scale disp6 => some (packM c 46#6 data base index scale disp6)
  | .ldk data base scale disp6 => some (packM c 47#6 data base 31#5 scale disp6)
  | .pref base index scale disp6 => some (packM c 47#6 127#7 base index scale disp6)
  | .ldp data base index scale disp6 => some (packM c 48#6 data base index scale disp6)
  | .stp data base index scale disp6 => some (packM c 49#6 data base index scale disp6)
  | .atomg d areg b f => some (packT c 50#6 d (0#2 ++ areg) b f)
  | .atomp d areg b f => some (packT c 50#6 d (1#2 ++ areg) b f)
  | .atomr d areg b f => some (packT c 50#6 d (2#2 ++ areg) b f)
  | .cpy d a b ch => some (packT c 51#6 d a b (0#2 ++ ch))
  | .cpyi d a b ch => some (packT c 51#6 d a b (1#2 ++ ch))
  | .cseal => some (packT c 51#6 0#7 0#7 0#7 8#4)
  | .cwait b => some (packT c 51#6 0#7 0#7 b 9#4)
  | .pempty a b => some (packT c 51#6 0#7 a b 10#4)
  | .fence => some (packT c 52#6 0#7 0#7 0#7 0#4)
  | .barinit a b => some (packT c 52#6 0#7 a b 1#4)
  | .bararr d a => some (packT c 52#6 d a 0#7 2#4)
  | .barwait a b => some (packT c 52#6 0#7 a b 3#4)
  | .barinv a => some (packT c 52#6 0#7 a 0#7 4#4)
  | .semw d a b => some (packT c 52#6 d a b 5#4)
  | .sems a b => some (packT c 52#6 0#7 a b 6#4)
  | .tlbinv a b => some (packT c 52#6 0#7 a b 7#4)
  | .sendq d a b => some (packT c 53#6 d a b 0#4)
  | .recvq d a => some (packT c 53#6 d a 0#7 1#4)
  | .padopen win rights a b => some (packT c 53#6 (0#3 ++ rights ++ win) a b 2#4)
  | .poolset d src dst b f3 => some (packT c 54#6 d (src ++ dst ++ 0#1) b (0#1 ++ f3))
  | .poolq d src dst => some (packT c 54#6 d (src ++ dst ++ 0#1) 0#7 8#4)
  | .mma tile ka kb fmt step => some (packK c 56#6 tile ka kb fmt (0#2 ++ step))
  | .mmas tile ka kb fmt step => some (packK c 57#6 tile ka kb fmt (0#2 ++ step))
  | .mzero tile i32 => some (packK c 58#6 tile 0#7 0#7 0#4 (0#3 ++ i32))
  | .mload tile ka i32 => some (packK c 58#6 tile ka 0#7 1#4 (0#3 ++ i32))
  | .mdrain tile ka flags => some (packK c 58#6 tile ka 0#7 2#4 flags)
  | .mseal => some (packK c 59#6 0#3 0#7 0#7 0#4 0#4)
  | .mwait flags => some (packK c 59#6 0#3 0#7 0#7 1#4 flags)
  | .epload tile ka => some (packK c 59#6 tile ka 0#7 2#4 0#4)
  | .rset d a b ch => some (packT c 60#6 d a b (0#2 ++ ch))
  | .rast d a bw bp => some (packT c 60#6 d a (0#1 ++ bw ++ bp) 4#4)
  | .travset d bpair => some (packT c 60#6 d 0#7 (bpair ++ 0#3) 5#4)
  | .travRay d a bpair bp => some (packT c 60#6 d a (bpair ++ bp) 6#4)
  | .travBox d a bpair bp => some (packT c 60#6 d a (bpair ++ bp) 7#4)
  | .fbload dch a b => some (packT c 60#6 (0#5 ++ dch) a b 8#4)
  | .fbstore dch a b => some (packT c 60#6 (0#5 ++ dch) a b 9#4)
  | .fbdone a b => some (packT c 60#6 0#7 a b 10#4)
  | .vtest pd pa b f => some (packT c 61#6 (0#4 ++ pd) (0#4 ++ pa) b f)
  | .fbw d pa b f => some (packT c 61#6 d (0#4 ++ pa) b f)
  | .vsplit wd wr pa => some (packT c 62#6 (0#1 ++ wr ++ wd) (0#4 ++ pa) 0#7 0#4)
  | .vends d pa => some (packT c 62#6 d (0#4 ++ pa) 0#7 1#4)
  | .vmask pd pa b => some (packT c 62#6 (0#4 ++ pd) (0#4 ++ pa) b 2#4)
  | .vagree gwd gws gt gva gvb => some (packV c 62#6 gwd gws gt gva gvb 3#4)
  | .vhalve wd wr pa => some (packT c 62#6 (0#1 ++ wr ++ wd) (0#4 ++ pa) 0#7 4#4)
  | .xpfx kind payload => some (packX kind payload)
  | .parkedTractServe _ => none
  | .pendingPieceStart _ => none
  | .rjoinWaitExpire _ => none
  | .versionCommit _ => none
  | .standSpill _ => none
  | .spillReturn _ => none
  | .clearingComplete _ => none
  | .waitLimitExpire _ _ => none
  | .semwWaitLimit _ _ => none
  | .yieldHoldExpire _ _ => none
  | .bankPortUrgent _ => none
  | .homeLoad _ => none
  | .homeStore _ => none
  | .homeAtomic _ => none
  | .copyStart _ _ _ => none
  | .copyComplete _ _ => none
  | .matrixOpExecute _ _ => none
  | .drainExecute _ _ => none
  | .inboxMessageArrive _ => none
  | .atomrExecute _ => none
  | .preemptRequest _ => none
  | .preemptDeferTimeout _ => none
  | .contextSave _ => none
  | .contextRestore _ _ => none
  | .selfTestComplete _ _ _ _ _ => none
  | .pageWalk _ _ _ _ => none
  | .trackerEpochEnd => none
  | .swapLineMove _ _ => none
  | .regload _ _ _ _ => none
  | .regfree _ _ _ _ => none
  | .qset _ _ _ _ => none
  | .qstop _ _ _ _ => none
  | .semset _ _ _ _ => none
  | .hostSlotWrite _ _ => none
  | .launchDequeue => none
  | .launchSemaphoreWait _ => none
  | .piecePlacement _ => none
  | .completionRecordWrite _ => none
  | .dieResetOrderly _ => none
  | .dieResetUnplanned _ => none
  | .dieResetReturn _ => none
  | .moduleReset => none
  | .bringupRom _ => none
  | .bringupFw _ => none
  | .bringupConfig _ _ => none
  | .bringupMemory _ => none
  | .bringupDies _ => none
  | .bringupHost _ => none
  | .configRecordLoad _ _ => none
  | .rootRegisterSet _ _ => none
  | .capabilityRegisterSet _ _ => none
  | .attestationRequest _ _ => none
  | .hostMemWrite _ _ => none
  | .hostMemRead _ _ => none
  | .backInvalidateResponse _ => none
  | .droopReport _ _ => none
  | .clockStepRise _ => none
  | .sagCounterClear _ _ => none
  | .trackerControlWrite _ _ => none
  | .registerWrite _ _ _ => none
  | .pendingHorizonGuardReached _ _ => none
  | .powerLoss => none
  | .hostLineAccess _ _ _ => none

/-! ## What operand codes a word may name, apart from the words before it (R211, R217, R225) -/

/-- A v register code. -/
def isV (c : BitVec 7) : Bool := c.toNat < 64
/-- An a-register code. -/
def isA (c : BitVec 7) : Bool := 64 ≤ c.toNat && c.toNat < 96
/-- A v or a-register code: a destination never names a crossbar pattern (R211). -/
def isVA (c : BitVec 7) : Bool := c.toNat < 96
/-- An a-register code, or 0 where a long immediate takes its place (R213). -/
def isAOrImm (c : BitVec 7) : Bool := isA c || c == 0#7
/-- A matrix operand (R321): a group of eight v registers, or a pair of a-registers. -/
def isMat (c : BitVec 7) : Bool := (c.toNat < 64 && c.toNat % 8 == 0) || (64 ≤ c.toNat && c.toNat ≤ 94)
/-- S and ITYPE (R216): types 6 and 7 are reserved. -/
def isIType (f : BitVec 4) : Bool := f.toNat % 8 ≤ 5
/-- S and rounding (R79): code 7 is none. -/
def isRound (f : BitVec 4) : Bool := f.toNat % 8 != 7

/-- The operand rules of a word that depend on nothing outside it; a word that breaks one raises trap 0x01 (R217).
The steps of the other agents have no operand fields. -/
def operandsOk : Instr → Bool
  | .rjoin a b => isV a && b.toNat ≤ 8 && (b != 0#7 || a == 0#7)
  | .time d => isA d
  | .laneid d => isV d
  | .idx d b => isA d && b.toNat ≤ 2
  | .locq d a => isA d && isA a
  | .launch d a b => isA d && isA a && isA b
  | .xset d b => d.toNat ≤ 3 && b.toNat ≤ 63 && (d != 3#7 || b.toNat ≤ 7)
  | .brc cond _ _ => cond.toNat ≤ 7
  | .brx a => isVA a
  | .aadd d a b | .asub d a b | .amul d a b | .ashl d a b | .ashr d a b | .aand d a b | .aor d a b | .axor d a b
  | .amin d a b | .amax d a b | .acmpEq d a b | .acmpNe d a b | .acmpLt d a b | .acmpLe d a b | .acmpLtu d a b
  | .acmpLeu d a b => isA d && isA a && isAOrImm b
  | .aaddi d a _ | .amuli d a _ | .ashli d a _ | .ashri d a _ | .aandi d a _ => isA d && isA a
  | .amovi d _ => isA d
  | .ald data _ _ => isA data
  | .pand pd _ _ | .por pd _ _ | .pxor pd _ _ => pd != 0#3
  | .pnot pd _ | .pfirstP pd _ => pd != 0#3
  | .pcnt d _ | .pfirstA d _ => isA d
  | .ballot d _ => isA d || (1 ≤ d.toNat && d.toNat ≤ 7)
  | .gets d _ => isA d
  | .sets a _ => isA a
  | .lread d a b => isA d && isV a && isA b
  | .lwrite d a b => isV d && isA a && isA b
  | .iadd d _ _ f | .isub d _ _ f | .imul d _ _ f | .imad d _ _ f => isVA d && isIType f
  | .imulh d _ _ f3 | .imin d _ _ f3 | .imax d _ _ f3 => isVA d && f3.toNat ≤ 5
  | .iabs d _ f => isVA d && isIType f && f.toNat % 2 == 0
  | .icmp d _ _ f3 => d.toNat / 8 ≤ 5 && d.toNat % 8 != 0 && f3.toNat ≤ 5
  | .sel d _ _ _ => isVA d
  | .and d _ _ | .or d _ _ | .xor d _ _ | .andn d _ _ | .shl d _ _ | .shr d _ _ | .sar d _ _ | .rotl d _ _ => isVA d
  | .popc d _ | .clz d _ | .brev d _ => isVA d
  | .blut d _ b => isVA d && 64 ≤ b.toNat && b.toNat ≤ 92
  | .bshuf d _ _ | .bcmpEq d _ _ | .bcmpLt d _ _ | .bcmpLtu d _ _ | .baddsI8 d _ _ | .baddsN8 d _ _ => isVA d
  | .lshc d _ _ f => isVA d && f != 0#4
  | .xperm d _ _ => isVA d
  | .vscan d _ f => f.toNat ≤ 13 && (if f.toNat < 8 then isVA d else isV d)
  | .vred d _ f => f.toNat ≤ 13 && (if f.toNat < 11 then isVA d else isV d)
  | .fadd d _ _ f | .fsub d _ _ f | .fmul d _ _ f | .fma d _ _ f | .fdiv d _ _ f => isVA d && isRound f
  | .fmin d _ _ | .fmax d _ _ => isVA d
  | .fcmp d _ _ => d.toNat / 8 ≤ 7 && d.toNat % 8 != 0
  | .fsqrt d _ f | .frcp d _ f | .frsq d _ f | .fexp2 d _ f | .flog2 d _ f | .fsin d _ f | .fcos d _ f => isVA d && isRound f
  | .fclass d _ => isVA d
  | .cvt d _ dt f => isVA d && dt.toNat ≤ 16 && isRound f
  | .ldk data _ scale _ => data != 127#7 && scale == 0#2
  | .atomg d _ _ f | .atomp d _ _ f | .atomr d _ _ f => isVA d && f.toNat ≤ 8
  | .cpy d a b _ | .cpyi d a b _ => isA d && isA a && isA b
  | .cwait b => b.toNat ≤ 15
  | .pempty a b | .barinit a b | .sems a b => isA a && isAOrImm b
  | .bararr d a => isA d && isA a
  | .barwait a b => isA a && isA b
  | .barinv a => isA a
  | .semw d a b => isA d && isA a && isAOrImm b
  | .tlbinv a b => (b == 0#7 && isA a) || (b == 1#7 && a == 0#7)
  | .sendq d a b => (d.toNat ≤ 7 || isA d) && isV a && 1 ≤ b.toNat && b.toNat ≤ 8
  | .recvq d a => isA d && isV a
  | .padopen _ _ a b => isA a && isAOrImm b
  | .poolset d src dst b f3 => isA d && src.toNat ≤ 5 && dst.toNat ≤ 5 && src != dst && 1 ≤ b.toNat && b.toNat ≤ 96
      && f3.toNat % 4 != 3 && (f3.toNat % 4 == 0 || src == 1#3)
  | .poolq d src _ => isA d && src.toNat ≤ 5
  | .mma _ ka kb fmt _ => isMat ka && isMat kb && fmt.toNat ≤ 9
  | .mmas _ ka kb fmt _ => isMat ka && isMat kb && ((2 ≤ fmt.toNat && fmt.toNat ≤ 5) || (7 ≤ fmt.toNat && fmt.toNat ≤ 9))
  | .mload _ ka _ => 64 ≤ ka.toNat && ka.toNat ≤ 94
  | .mdrain _ ka _ => 64 ≤ ka.toNat && ka.toNat ≤ 92
  | .epload tile ka => tile.toNat ≤ 3 && isA ka
  | .rset d a b _ => isA d && 64 ≤ a.toNat && a.toNat ≤ 84 && 64 ≤ b.toNat && b.toNat ≤ 94
  | .rast d a _ bp => isV d && isA a && bp != 0#3
  | .travset d _ => isV d
  | .travRay d a _ bp | .travBox d a _ bp => isV d && isV a && bp != 0#3
  | .fbload _ a b | .fbstore _ a b => isA a && isA b
  | .fbdone a b => isA a && isA b
  | .vtest _ _ b f => isV b && f.toNat ≤ 5
  | .fbw d _ b f => isV d && isV b && 6 ≤ f.toNat && f.toNat ≤ 9
  | .vsplit wd wr _ | .vhalve wd wr _ => wd != wr
  | .vends d _ => isV d
  | .vmask _ _ b => isVA b
  | .xpfx kind payload =>
      match kind.toNat with
      | 0 => true
      | 1 => payload.toNat / 2 ^ 16 == 0
      | 2 => payload.toNat / 2 ^ 20 != 3 && payload.toNat % 2 ^ 12 == 0
          && (payload.toNat / 2 ^ 18 % 4 != 3 || (payload.toNat / 2 ^ 12 % 8 != 7 && payload.toNat / 2 ^ 15 % 8 == 0))
      | 3 => payload.toNat / 2 ^ 10 % 32 ≤ 17 || payload.toNat / 2 ^ 10 % 32 == 31
      | _ => false
  | .nop | .ret | .matl | .join | .yield | .exit | .hret | .trap _ | .bra _ | .call _ | .loop _ _ | .brv _ _ _
  | .xsum _ _ _ _ _ | .sumrd _ _ _ _ _ | .ldg _ _ _ _ _ | .ldgF _ _ _ _ _ | .stg _ _ _ _ _ | .pref _ _ _ _
  | .ldp _ _ _ _ _ | .stp _ _ _ _ _ | .cseal | .fence | .mzero _ _ | .mseal | .mwait _ | .vagree _ _ _ _ _ => true
  | .parkedTractServe _ | .pendingPieceStart _ | .rjoinWaitExpire _ | .versionCommit _ | .standSpill _
  | .spillReturn _ | .clearingComplete _ | .waitLimitExpire _ _ | .semwWaitLimit _ _ | .yieldHoldExpire _ _
  | .bankPortUrgent _ | .homeLoad _ | .homeStore _ | .homeAtomic _ | .copyStart _ _ _ | .copyComplete _ _
  | .matrixOpExecute _ _ | .drainExecute _ _ | .inboxMessageArrive _ | .atomrExecute _ | .preemptRequest _
  | .preemptDeferTimeout _ | .contextSave _ | .contextRestore _ _ | .selfTestComplete _ _ _ _ _
  | .pageWalk _ _ _ _ | .trackerEpochEnd | .swapLineMove _ _ | .regload _ _ _ _ | .regfree _ _ _ _
  | .qset _ _ _ _ | .qstop _ _ _ _ | .semset _ _ _ _ | .hostSlotWrite _ _ | .launchDequeue
  | .launchSemaphoreWait _ | .piecePlacement _ | .completionRecordWrite _ | .dieResetOrderly _
  | .dieResetUnplanned _ | .dieResetReturn _ | .moduleReset | .bringupRom _ | .bringupFw _
  | .bringupConfig _ _ | .bringupMemory _ | .bringupDies _ | .bringupHost _ | .configRecordLoad _ _
  | .rootRegisterSet _ _ | .capabilityRegisterSet _ _ | .attestationRequest _ _ | .hostMemWrite _ _
  | .hostMemRead _ _ | .backInvalidateResponse _ | .droopReport _ _ | .clockStepRise _ | .sagCounterClear _ _
  | .trackerControlWrite _ _ | .registerWrite _ _ _ | .pendingHorizonGuardReached _ _ | .powerLoss
  | .hostLineAccess _ _ _ => true

end Sys2Proof
end

