-- ==== Sys2Proof/Machine/Operands.lean ====
section
/-! DEFINITION. Operands: the leading words of an instruction (R212 to R214), its pipe (R215), the registers it names, and
the checks that need no result: encoding (R217), tags (R64) and uniform operands (R227). Then the values operands read
(R66, R211, R258) and the registers results go to (R24, R60, R64). -/

namespace Sys2Proof.Machine

/-! ## Leading words -/

/-- The extra fields of a kind 3 leading word (R214). -/
structure Extra where
  third : Nat
  typ : Nat
  pred : Nat
  aux : Nat
  deriving DecidableEq, Repr

/-- The extra fields in force, at their resets without a kind 3 word (R214). -/
def extraOf (l : Lead) : Extra :=
  match l.extra with
  | none => ⟨0, 31, 0, 0⟩
  | some p => ⟨bitsOf p.toNat 15 7, bitsOf p.toNat 10 5, bitsOf p.toNat 7 3, bitsOf p.toNat 0 7⟩

/-- The leading words with one more (R212): a repeated kind, a reserved kind and a third word make them bad. -/
def addLead (l : Lead) (kind : BitVec 3) (payload : BitVec 22) : Lead :=
  let bad := l.bad || 2 ≤ l.count || !operandsOk (.xpfx kind payload)
  match kind.toNat with
  | 0 => { l with imm := some payload, count := l.count + 1, bad := bad || l.imm.isSome }
  | 1 => { l with join := some (payload.setWidth 16), count := l.count + 1, bad := bad || l.join.isSome }
  | 2 => { l with cross := some payload, count := l.count + 1, bad := bad || l.cross.isSome }
  | 3 => { l with extra := some payload, count := l.count + 1, bad := bad || l.extra.isSome }
  | _ => { l with count := l.count + 1, bad := true }

/-- The kind 0 immediate of a T word (R213). -/
def immOf (l : Lead) : Option Int := l.imm.map fun p => p.toInt

/-- The immediate of an I word: imm11, or with a kind 0 word the 33 bits of R213. -/
def immI (l : Lead) (imm : BitVec 11) : Int :=
  match l.imm with
  | none => imm.toInt
  | some p => (p ++ imm).toInt

/-- OPD, PAT and PARM of a kind 2 leading word (R68). -/
def crossOf (l : Lead) : Option (Nat × Nat × Nat) :=
  l.cross.map fun p => (bitsOf p.toNat 20 2, bitsOf p.toNat 18 2,
    if bitsOf p.toNat 18 2 = 3 then bitsOf p.toNat 12 3 else bitsOf p.toNat 12 6)

/-! ## Types (R214) -/

/-- The width of a type code in bits (R214). -/
def typeBits (t : Nat) : Nat :=
  if t = 14 ∨ t = 15 then 4 else if t = 0 ∨ t = 1 ∨ t = 12 ∨ t = 13 ∨ t = 16 then 8
  else if t = 2 ∨ t = 3 ∨ t = 8 ∨ t = 9 then 16 else if t = 6 ∨ t = 7 ∨ t = 11 then 64 else 32

/-- The width of an ITYPE (R216). -/
def itypeBits (f : Nat) : Nat := if f % 8 < 2 then 32 else if f % 8 < 4 then 16 else 8

/-- An ITYPE is signed (R216). -/
def itypeSigned (f : Nat) : Bool := f % 2 == 0

/-- The tag of a register that holds elements of a type code (R63, R289). -/
def typeTag (t : Nat) : Tag :=
  if t = 0 ∨ t = 1 then .int8 else if t = 2 ∨ t = 3 then .int16 else if t = 4 ∨ t = 5 then .int32
  else if t = 6 ∨ t = 7 then .raw else if t = 8 then .f16 else if t = 9 then .bf16 else if t = 10 then .f32
  else if t = 11 then .f64 else if t = 12 then .e4m3 else if t = 13 then .e5m2 else if t = 14 then .mx4
  else if t = 15 then .hs4 else if t = 16 then .hs8 else .cell

/-- The tag of an ITYPE (R64). -/
def itypeTag (f : Nat) : Tag := if f % 8 < 2 then .int32 else if f % 8 < 4 then .int16 else .int8

/-- The format a floating-point word works in: its TYPE, f32 by default (R274). -/
def fpType (l : Lead) : Nat := if (extraOf l).typ = 31 then 10 else (extraOf l).typ

/-- The type of an M word: TYPE, else TF (R210, R289). -/
def memType (l : Lead) (data : BitVec 7) : Nat :=
  if (extraOf l).typ = 31 then (if data.getLsbD 6 then 10 else 4) else (extraOf l).typ

/-- The v register of an M word's data field (R210). -/
def dataReg (data : BitVec 7) : Nat := data.toNat % 64

/-- The type of an ATOM (R216): n32 by default, f32 for FADD. -/
def atomType (l : Lead) (f : BitVec 4) : Nat :=
  if (extraOf l).typ = 31 then (if f = 8#4 then 10 else 4) else (extraOf l).typ

/-- The access size of a type in bytes (R289): packed types take a whole lane. -/
def typeSize (t : Nat) : Nat := if t < 8 ∨ t = 11 then typeBits t / 8 else 4

/-- Elements converted per lane by CVT, and the registers of its two groups (R282). -/
def cvtElems (st dt : Nat) : Nat := later 1 (32 / earlier (typeBits st) (typeBits dt))
/-- Registers of a CVT group (R282). -/
def cvtGroup (st dt bits : Nat) : Nat := cvtElems st dt * bits / 32

/-- The type pairs CVT converts (R283). -/
def cvtPair (st dt : Nat) : Bool :=
  let plain (t : Nat) : Bool := t ≤ 13
  let wide (t : Nat) : Bool := 8 ≤ t && t ≤ 11
  st != dt && ((plain st && plain dt) || (st == 14 && wide dt) || (wide st && dt == 14)
    || ((st == 15 || st == 16) && wide dt))

/-! ## Pipes (R207, R215) -/

/-- The pipes of R207. -/
inductive Pipe where
  | none | a | v | l | m | g | s
  deriving DecidableEq, Repr

/-- The pipe a word asks for (R207, R215). -/
def pipeOf : Instr → Pipe
  | .nop | .xpfx _ _ => .none
  | .laneid _ => .v
  | .launch _ _ _ | .ald _ _ _ => .l
  | .iadd _ _ _ _ | .isub _ _ _ _ | .imul _ _ _ _ | .imulh _ _ _ _ | .imad _ _ _ _ | .imin _ _ _ _ | .imax _ _ _ _
  | .iabs _ _ _ | .icmp _ _ _ _ | .sel _ _ _ _ | .and _ _ _ | .or _ _ _ | .xor _ _ _ | .andn _ _ _ | .shl _ _ _
  | .shr _ _ _ | .sar _ _ _ | .rotl _ _ _ | .popc _ _ | .clz _ _ | .brev _ _ | .blut _ _ _ | .bshuf _ _ _
  | .bcmpEq _ _ _ | .bcmpLt _ _ _ | .bcmpLtu _ _ _ | .baddsI8 _ _ _ | .baddsN8 _ _ _ | .fadd _ _ _ _ | .fsub _ _ _ _
  | .fmul _ _ _ _ | .fma _ _ _ _ | .fmin _ _ _ | .fmax _ _ _ | .fcmp _ _ _ | .cvt _ _ _ _ => .v
  | .lshc _ _ _ _ | .xperm _ _ _ | .vscan _ _ _ | .vred _ _ _ | .fdiv _ _ _ _ | .fsqrt _ _ _ | .frcp _ _ _
  | .frsq _ _ _ | .fexp2 _ _ _ | .flog2 _ _ _ | .fsin _ _ _ | .fcos _ _ _ | .fclass _ _ => .s
  | .xsum _ _ _ _ _ | .sumrd _ _ _ _ _ | .ldg _ _ _ _ _ | .ldgF _ _ _ _ _ | .stg _ _ _ _ _ | .ldk _ _ _ _
  | .pref _ _ _ _ | .ldp _ _ _ _ _ | .stp _ _ _ _ _ | .atomg _ _ _ _ | .atomp _ _ _ _ | .atomr _ _ _ _ | .cpy _ _ _ _
  | .cpyi _ _ _ _ | .cseal | .cwait _ | .pempty _ _ | .fence | .barinit _ _ | .bararr _ _ | .barwait _ _ | .barinv _
  | .semw _ _ _ | .sems _ _ | .tlbinv _ _ | .sendq _ _ _ | .recvq _ _ | .padopen _ _ _ _ | .poolset _ _ _ _ _
  | .poolq _ _ _ => .l
  | .mma _ _ _ _ _ | .mmas _ _ _ _ _ | .mzero _ _ | .mload _ _ _ | .mdrain _ _ _ | .mseal | .mwait _
  | .epload _ _ => .m
  | .rset _ _ _ _ | .rast _ _ _ _ | .travset _ _ | .travRay _ _ _ _ | .travBox _ _ _ _ | .fbload _ _ _
  | .fbstore _ _ _ | .fbdone _ _ | .vtest _ _ _ _ | .fbw _ _ _ _ | .vsplit _ _ _ | .vends _ _ | .vmask _ _ _
  | .vagree _ _ _ _ _ | .vhalve _ _ _ => .g
  | _ => .a

/-- The words that transfer control (R208). -/
def transfers : Instr → Bool
  | .bra _ | .call _ | .loop _ _ | .brc _ _ _ | .brv _ _ _ | .brx _ | .ret | .exit | .hret => true
  | _ => false

/-- The words that end a path or a handler: they act after a trap of their chain (R218). -/
def endsPath : Instr → Bool
  | .exit | .hret => true
  | _ => false

/-- JOIN and RJOIN, which stand alone in slot 0 (R208). -/
def isJoin : Instr → Bool
  | .join | .rjoin _ _ => true
  | _ => false

/-! ## The v registers a word names -/

/-- A use of v registers: an operand code, how many registers from there, the operand it is (0 A, 1 B, 2 third, 3 none
that a crossbar pattern reaches), whether it is written. -/
structure VUse where
  code : Nat
  count : Nat
  opd : Nat
  dest : Bool
  deriving DecidableEq, Repr

/-- A source of a vector word (R258). -/
def vsrc (opd : Nat) (c : BitVec 7) (count : Nat) : VUse := ⟨c.toNat, count, opd, false⟩
/-- A destination (R258). -/
def vdst (c : BitVec 7) (count : Nat) : VUse := ⟨c.toNat, count, 3, true⟩
/-- The B source, absent where a long immediate stands (R213, R258). -/
def bsrc (l : Lead) (b : BitVec 7) (count : Nat) : List VUse := if l.imm.isSome then [] else [vsrc 1 b count]
/-- The index register of an M word (R210). -/
def idxUse (index : BitVec 5) : List VUse := if index.toNat = 31 then [] else [⟨index.toNat, 1, 3, false⟩]
/-- Registers per operand of a type (R59): a pair for 64 bits. -/
def regsOf (t : Nat) : Nat := if typeBits t = 64 then 2 else 1
/-- The addend of FMA and IMAD: THIRD with a kind 3 word, else D (R214). -/
def addendCode (l : Lead) (d : BitVec 7) : Nat := if l.extra.isSome then (extraOf l).third else d.toNat
/-- Registers per operand of a scan operation (R272). -/
def scanRegs (f : BitVec 4) : Nat := if 11 ≤ f.toNat then 2 else 1

/-- Every v register a word names, with its role. -/
def vUses (i : Instr) (l : Lead) : List VUse :=
  let n := regsOf (fpType l)
  match i with
  | .rjoin a b => if b = 0#7 then [] else [⟨a.toNat, b.toNat, 3, false⟩]
  | .laneid d => [vdst d 1]
  | .brx a => [vsrc 0 a 1]
  | .ballot _ a => [vsrc 0 a 1]
  | .lread _ a _ => [vsrc 0 a 1]
  | .lwrite d _ _ => [vdst d 1]
  | .iadd d a b _ | .isub d a b _ | .imul d a b _ => [vdst d 1, vsrc 0 a 1] ++ bsrc l b 1
  | .imulh d a b _ | .imin d a b _ | .imax d a b _ => [vdst d 1, vsrc 0 a 1] ++ bsrc l b 1
  | .imad d a b _ => [vdst d 1, vsrc 0 a 1, ⟨addendCode l d, 1, 2, false⟩] ++ bsrc l b 1
  | .iabs d a _ => [vdst d 1, vsrc 0 a 1]
  | .icmp _ a b _ => vsrc 0 a 1 :: bsrc l b 1
  | .sel d a b _ => [vdst d 1, vsrc 0 a 1] ++ bsrc l b 1
  | .and d a b | .or d a b | .xor d a b | .andn d a b | .shl d a b | .shr d a b | .sar d a b | .rotl d a b
  | .bshuf d a b | .bcmpEq d a b | .bcmpLt d a b | .bcmpLtu d a b | .baddsI8 d a b | .baddsN8 d a b
  | .xperm d a b => [vdst d 1, vsrc 0 a 1] ++ bsrc l b 1
  | .lshc d a b _ => [vdst d 1, vsrc 0 a 1] ++ bsrc l b 1
  | .popc d a | .clz d a | .brev d a => [vdst d 1, vsrc 0 a 1]
  | .blut d a _ => [vdst d 1, vsrc 0 a 1]
  | .vscan d a f | .vred d a f => [vdst d (scanRegs f), vsrc 0 a (scanRegs f)]
  | .fadd d a b _ | .fsub d a b _ | .fmul d a b _ | .fdiv d a b _ => [vdst d n, vsrc 0 a n, vsrc 1 b n]
  | .fma d a b _ => [vdst d n, vsrc 0 a n, vsrc 1 b n, ⟨addendCode l d, n, 2, false⟩]
  | .fmin d a b | .fmax d a b => [vdst d n, vsrc 0 a n, vsrc 1 b n]
  | .fcmp _ a b => [vsrc 0 a n, vsrc 1 b n]
  | .fsqrt d a _ | .frcp d a _ | .frsq d a _ | .fexp2 d a _ | .flog2 d a _ | .fsin d a _ | .fcos d a _ =>
      [vdst d n, vsrc 0 a n]
  | .fclass d a => [vdst d 1, vsrc 0 a n]
  | .cvt d a dt _ =>
      [vdst d (cvtGroup (fpType l) dt.toNat (typeBits dt.toNat)),
       vsrc 0 a (cvtGroup (fpType l) dt.toNat (typeBits (fpType l)))]
  | .xsum data _ index _ _ | .stg data _ index _ _ | .stp data _ index _ _ =>
      ⟨dataReg data, regsOf (memType l data), 3, false⟩ :: idxUse index
  | .sumrd data _ index _ _ => ⟨dataReg data, if data.getLsbD 6 then 2 else 1, 3, true⟩ :: idxUse index
  | .ldg data _ index _ _ | .ldgF data _ index _ _ | .ldp data _ index _ _ =>
      ⟨dataReg data, regsOf (memType l data), 3, true⟩ :: idxUse index
  | .ldk data _ _ _ => [⟨dataReg data, regsOf (memType l data), 3, true⟩]
  | .pref _ index _ _ => idxUse index
  | .atomg d _ b f | .atomp d _ b f | .atomr d _ b f =>
      [vdst d (regsOf (atomType l f))] ++ bsrc l b (regsOf (atomType l f))
        ++ (if (extraOf l).third = 0 then [] else [⟨(extraOf l).third, 1, 2, false⟩])
  | .sendq _ a b => [⟨a.toNat, 4 * b.toNat, 0, false⟩]
  | .recvq _ a => [vdst a 1]
  | .mma _ ka kb _ _ =>
      (if ka.toNat < 64 then [vsrc 0 ka 8] else []) ++ (if kb.toNat < 64 then [vsrc 1 kb 8] else [])
  | .mmas _ ka kb _ _ =>
      [⟨(extraOf l).third, 2, 2, false⟩] ++
      (if ka.toNat < 64 then [vsrc 0 ka 8] else []) ++ (if kb.toNat < 64 then [vsrc 1 kb 8] else [])
  | .rast d _ _ _ => [vdst d 2]
  | .travset d _ => [vdst d 1]
  | .travRay d a _ _ => [vdst d 3, vsrc 0 a 8]
  | .travBox d a _ _ => [vdst d 3, vsrc 0 a 6]
  | .vtest _ _ b _ => [vsrc 1 b 2]
  | .fbw d _ b _ => [⟨d.toNat, 2, 3, false⟩, vsrc 1 b 2]
  | .vends d _ => [vdst d 3]
  | .vmask _ _ b => [vsrc 1 b 1]
  | .vagree _ _ _ gva gvb => [⟨2 * gva.toNat, 2, 3, false⟩, ⟨2 * gvb.toNat, 2, 3, false⟩]
  | _ => []

/-- Whether a word aligns its v register groups to their size: 64-bit pairs and CVT groups (R59, R282). -/
def vAligned : Instr → Bool
  | .sendq _ _ _ | .recvq _ _ | .rast _ _ _ _ | .travRay _ _ _ _ | .travBox _ _ _ _ | .vtest _ _ _ _ | .fbw _ _ _ _
  | .vends _ _ | .rjoin _ _ => false
  | _ => true

/-- A use fits the register file and its alignment (R44, R59, R66). An a-register code names no v register. -/
def vUseOk (aligned : Bool) (fsize : Nat) (u : VUse) : Bool :=
  if u.code < 64 then u.code + u.count ≤ fsize && (!aligned || u.code % u.count == 0)
  else if u.code < 96 then true
  else !u.dest && (u.code - 96) % 8 + u.count ≤ fsize && (!aligned || (u.code - 96) % 8 % u.count == 0)

/-- A word's crossbar override names a plain v source of it (R68). -/
def crossOk (i : Instr) (l : Lead) : Bool :=
  match crossOf l with
  | none => true
  | some (opd, _, _) => (vUses i l).any fun u => u.opd == opd && !u.dest && decide (u.code < 64)

/-- The T words whose B field may hold an immediate, and the I words (R212, R213, R258; log entry 22). -/
def takesImm : Instr → Bool
  | .aadd _ _ b | .asub _ _ b | .amul _ _ b | .ashl _ _ b | .ashr _ _ b | .aand _ _ b | .aor _ _ b | .axor _ _ b
  | .amin _ _ b | .amax _ _ b | .acmpEq _ _ b | .acmpNe _ _ b | .acmpLt _ _ b | .acmpLe _ _ b | .acmpLtu _ _ b
  | .acmpLeu _ _ b => b == 0#7
  | .aaddi _ _ _ | .amuli _ _ _ | .ashli _ _ _ | .ashri _ _ _ | .amovi _ _ | .aandi _ _ _ => true
  | .iadd _ _ b _ | .isub _ _ b _ | .imul _ _ b _ | .imad _ _ b _ | .lshc _ _ b _ => b == 0#7
  | .imulh _ _ b _ | .imin _ _ b _ | .imax _ _ b _ | .icmp _ _ b _ | .sel _ _ b _ => b == 0#7
  | .and _ _ b | .or _ _ b | .xor _ _ b | .andn _ _ b | .shl _ _ b | .shr _ _ b | .sar _ _ b | .rotl _ _ b
  | .bcmpEq _ _ b | .bcmpLt _ _ b | .bcmpLtu _ _ b | .baddsI8 _ _ b | .baddsN8 _ _ b
  | .xperm _ _ b => b == 0#7
  | .atomg _ _ b _ | .atomp _ _ b _ | .atomr _ _ b _ => b == 0#7
  | .pempty _ b | .barinit _ b | .sems _ b | .semw _ _ b | .padopen _ _ _ b => b == 0#7
  | _ => false

/-- A B field that must name a register or give way to an immediate does so (R213). -/
def immGiven (i : Instr) (l : Lead) : Bool :=
  match i with
  | .aadd _ _ b | .asub _ _ b | .amul _ _ b | .ashl _ _ b | .ashr _ _ b | .aand _ _ b | .aor _ _ b | .axor _ _ b
  | .amin _ _ b | .amax _ _ b | .acmpEq _ _ b | .acmpNe _ _ b | .acmpLt _ _ b | .acmpLe _ _ b | .acmpLtu _ _ b
  | .acmpLeu _ _ b | .pempty _ b | .barinit _ b | .sems _ b | .semw _ _ b | .padopen _ _ _ b =>
      b != 0#7 || l.imm.isSome
  | _ => true

/-- The affine shifts take an immediate amount of 0 to 63 (R240). -/
def shiftImmOk (i : Instr) (l : Lead) : Bool :=
  match i with
  | .ashli _ _ imm | .ashri _ _ imm => 0 ≤ immI l imm && immI l imm ≤ 63
  | .ashl _ _ _ | .ashr _ _ _ => (match immOf l with | some n => 0 ≤ n && n ≤ 63 | none => true)
  | _ => true

/-- Fields of a kind 3 word a word leaves unused hold their resets, and the used ones hold what the word accepts
(R214, R243, R272, R274, R283, R289, R296, R322, R329). -/
def extraOk (i : Instr) (l : Lead) : Bool :=
  let e := extraOf l
  let only (third typ pred aux : Bool) : Bool :=
    (third || e.third == 0) && (typ || e.typ == 31) && (pred || e.pred == 0) && (aux || e.aux == 0)
  let fp : Bool := e.typ == 31 || (8 ≤ e.typ && e.typ ≤ 11)
  let mem (data : BitVec 7) : Bool := e.typ == 31 || (e.typ ≤ 16 && !data.getLsbD 6)
  let atom (f : BitVec 4) : Bool := e.typ == 31 || (if f = 8#4 then e.typ == 10 || e.typ == 11 else 4 ≤ e.typ && e.typ ≤ 7)
  match i with
  | .fadd _ _ _ _ | .fsub _ _ _ _ | .fmul _ _ _ _ | .fmin _ _ _ | .fmax _ _ _ | .fdiv _ _ _ _ | .fsqrt _ _ _
  | .frcp _ _ _ | .frsq _ _ _ | .fexp2 _ _ _ | .flog2 _ _ _ | .fsin _ _ _ | .fcos _ _ _ | .fclass _ _ =>
      only false true false false && fp
  | .fcmp _ _ _ => only false true false false && (e.typ == 31 || e.typ == 10 || e.typ == 11)
  | .fma _ _ _ _ => only true true false false && fp
  | .imad _ _ _ _ => only true false false false
  | .cvt _ a dt _ =>
      only false true false false && cvtPair (fpType l) dt.toNat
        && (!isA a || typeBits (fpType l) == 64 || cvtGroup (fpType l) dt.toNat (typeBits (fpType l)) == 1)
  | .ldg data _ _ _ _ | .ldgF data _ _ _ _ | .stg data _ _ _ _ | .ldk data _ _ _ | .ldp data _ _ _ _
  | .stp data _ _ _ _ => only false true false false && mem data
  | .pref _ _ _ _ => only false false false false
  | .xsum data _ _ _ _ => only false true false false && (e.typ == 31 || (e.typ ≤ 9 && !data.getLsbD 6))
  | .sumrd _ _ _ _ _ => only false false false true && e.aux ≤ 1
  | .ald _ _ _ => only false true false false && (e.typ ≤ 7 || e.typ == 10 || e.typ == 11 || e.typ == 17 || e.typ == 31)
  | .aaddi _ _ _ | .amovi _ _ => only false true false false && (e.typ == 17 || e.typ == 31)
  | .atomg _ _ _ f | .atomp _ _ _ f | .atomr _ _ _ f =>
      only true true false true && e.third ≤ 63 && e.aux ≤ 3 && atom f
  | .cpy _ _ _ _ | .cpyi _ _ _ _ =>
      only true false true true && e.aux ≤ 1 && (if e.aux = 1 then 64 ≤ e.third && e.third ≤ 95 else e.third == 0)
  | .sendq _ _ _ => only false false true false
  | .vscan _ _ f | .vred _ _ f =>
      only false false false true && e.aux ≤ 6 && (e.aux == 0 || f == 8#4 || f == 11#4)
  | .mmas _ _ _ _ _ => only true false false true && e.third ≤ 63 && e.aux ≤ 31 && e.third % 2 == 0
  | .vtest _ _ _ _ => only true false false true && 64 ≤ e.third && e.third ≤ 95 && e.aux ≤ 3
  | .fbw _ _ _ _ => only true false false true && 64 ≤ e.third && e.third ≤ 95 && e.aux ≤ 15
  | _ => l.extra.isNone

/-- The leading words a word must have (R217). -/
def extraGiven (i : Instr) (l : Lead) : Bool :=
  match i with
  | .mmas _ _ _ _ _ | .vtest _ _ _ _ | .fbw _ _ _ _ => l.extra.isSome
  | _ => true

/-- The leading words before a word are of kinds the word takes, with fields it accepts (R212 to R214, R217). -/
def leadOk (i : Instr) (l : Lead) : Bool :=
  !l.bad && (l.imm.isNone || takesImm i) && immGiven i l && shiftImmOk i l
    && (match i with | .brc _ _ _ | .brv _ _ _ | .brx _ => true | _ => l.join.isNone)
    && crossOk i l && extraOk i l && extraGiven i l

/-- The 64-bit integer or floating-point results that no a-register takes (R260). -/
def destOk (i : Instr) (l : Lead) : Bool :=
  match i with
  | .fadd d _ _ _ | .fsub d _ _ _ | .fmul d _ _ _ | .fma d _ _ _ | .fdiv d _ _ _ => !isA d || regsOf (fpType l) == 1
  | .fmin d _ _ | .fmax d _ _ => !isA d || regsOf (fpType l) == 1
  | .fsqrt d _ _ | .frcp d _ _ | .frsq d _ _ | .fexp2 d _ _ | .flog2 d _ _ | .fsin d _ _ | .fcos d _ _ =>
      !isA d || regsOf (fpType l) == 1
  | .cvt d _ dt _ => !isA d || (cvtGroup (fpType l) dt.toNat (typeBits dt.toNat) == 1 && typeBits dt.toNat != 64)
  | .vscan d _ f => !isA d || f.toNat < 8
  | _ => true

/-- The words that name a w register need VIEWS (R330). -/
def needsViews : Instr → Bool
  | .rast _ _ _ _ | .vtest _ _ _ _ | .fbw _ _ _ _ | .vsplit _ _ _ | .vends _ _ | .vmask _ _ _ | .vagree _ _ _ _ _
  | .vhalve _ _ _ => true
  | _ => false

/-- Registers of a context's file for an FSIZE (R43, R44). -/
def fileRegs (fsize : Nat) : Nat := 16 * 2 ^ fsize

/-- Special register numbers GETS and SETS name (R223). -/
def srOk (i : Instr) : Bool :=
  match i with
  | .gets _ b => b.toNat ≤ 20
  | .sets _ b => b == 0#7 || b == 1#7 || b == 9#7 || b == 10#7 || b == 11#7 || b == 12#7
  | _ => true

/-- A patterned code or override of pattern 3 with XG = 7 (R67). -/
def mirrorOk (i : Instr) (l : Lead) (xc : Word64) : Bool :=
  bitsOf xc.toNat 18 3 != 7 || !(vUses i l).any fun u => 120 ≤ u.code

/-- The encoding checks of R217 on a word after its leading words; a word that fails one raises trap 0x01. -/
def encodingOk (i : Instr) (l : Lead) (fsize : Nat) (views : Bool) (xc : Word64) : Bool :=
  operandsOk i && leadOk i l && destOk i l && srOk i && (!needsViews i || views) && mirrorOk i l xc
    && (vUses i l).all (vUseOk (vAligned i) (fileRegs fsize))

/-- The words and forms that run at supervisor level only (R217). -/
def privileged : Instr → Bool
  | .tlbinv _ _ | .lread _ _ _ | .lwrite _ _ _ | .hret => true
  | .sets _ b => b == 9#7 || b == 10#7 || b == 11#7
  | _ => false

/-! ## Registers written, for chain conflicts (R217) -/

/-- A register a word writes. -/
inductive RegName where
  | v (n : Nat) | a (n : Nat) | p (n : Nat) | m (n : Nat)
  deriving DecidableEq, Repr

/-- The registers of an operand code that names a v or an a-register. -/
def codeNames (c count : Nat) : List RegName :=
  if c < 64 then (List.range count).map fun k => .v (c + k) else [.a (c - 64)]

/-- The two v registers of a w register (R61). -/
def wNames (w : BitVec 3) : List RegName := [.v (48 + 2 * w.toNat), .v (49 + 2 * w.toNat)]

/-- Every register, p register and tile binding a word writes (R217): RECVQ the four words of the least message (R307),
whose length is not known before issue. DESIGN CHOICE (log entry 101). -/
def writesOf (i : Instr) (l : Lead) : List RegName :=
  ((vUses i l).filter fun u => u.dest).flatMap (fun u => codeNames u.code u.count) ++
  match i with
  | .recvq d a => codeNames d.toNat 1 ++ codeNames a.toNat 4
  | .time d | .idx d _ | .locq d _ | .launch d _ _ | .gets d _ | .lread d _ _ | .pcnt d _ | .pfirstA d _
  | .bararr d _ | .semw d _ _ | .poolset d _ _ _ _ | .poolq d _ _ | .rset d _ _ _ => codeNames d.toNat 1
  | .aadd d _ _ | .asub d _ _ | .amul d _ _ | .ashl d _ _ | .ashr d _ _ | .aand d _ _ | .aor d _ _ | .axor d _ _
  | .amin d _ _ | .amax d _ _ | .acmpEq d _ _ | .acmpNe d _ _ | .acmpLt d _ _ | .acmpLe d _ _ | .acmpLtu d _ _
  | .acmpLeu d _ _ | .aaddi d _ _ | .amuli d _ _ | .ashli d _ _ | .ashri d _ _ | .amovi d _ | .aandi d _ _ =>
      codeNames d.toNat 1
  | .ald data _ _ => codeNames data.toNat 1
  | .loop reg _ => [.a reg.toNat]
  | .pand pd _ _ | .por pd _ _ | .pxor pd _ _ | .pnot pd _ | .pfirstP pd _ => [.p pd.toNat]
  | .ballot d _ => if isA d then codeNames d.toNat 1 else [.p d.toNat]
  | .icmp d _ _ _ => [.p (d.toNat % 8)]
  | .fcmp d _ _ => [.p (d.toNat % 8)]
  | .mma t _ _ _ _ | .mmas t _ _ _ _ | .mzero t _ | .mload t _ _ | .mdrain t _ _ => [.m t.toNat]
  | .rast _ a bw bp => codeNames a.toNat 1 ++ [.p bp.toNat] ++ wNames bw
  | .travRay _ _ _ bp | .travBox _ _ _ bp => [.p bp.toNat]
  | .vtest pd _ _ _ => wNames pd
  | .vsplit wd wr _ | .vhalve wd wr _ => wNames wd ++ wNames wr
  | .vmask pd _ _ => wNames pd
  | .vagree gwd _ _ _ _ => wNames gwd
  | _ => []

/-! ## Operand values -/

/-- A resolved source operand: v registers through a lane map, a form, or an immediate. -/
inductive Src where
  | vreg (reg : Nat) (map : Option (Nat × Nat))
  | form (f : AReg)
  | imm (x : Int)
  deriving DecidableEq, Repr

/-- The source lane of R66 for a pattern with its parameter. -/
def patternLane (pat parm lane : Nat) : Nat :=
  if pat = 0 then (lane + parm) % 64 else if pat = 1 then parm % 64
  else if pat = 2 then natXor lane parm % 64 else natXor lane (2 ^ parm - 1) % 64

/-- The XC parameter of a pattern (R67). -/
def xcParm (xc : Word64) (pat : Nat) : Nat :=
  if pat = 3 then bitsOf xc.toNat 18 3 else bitsOf xc.toNat (6 * pat) 6

/-- A source code with its override (R66, R68, R211). -/
def srcOf (r : Regs) (l : Lead) (opd code : Nat) : Src :=
  if code < 64 then
    .vreg code (match crossOf l with | some (o, pat, parm) => if o = opd then some (pat, parm) else none | none => none)
  else if code < 96 then .form (vget r.a (code - 64) AReg.zero)
  else .vreg ((code - 96) % 8) (some ((code - 96) / 8, xcParm r.xc ((code - 96) / 8)))

/-- The B source: a long immediate in its place, or the register it names (R213, R258). -/
def srcB (r : Regs) (l : Lead) (code : BitVec 7) : Src :=
  match immOf l with
  | some x => .imm x
  | none => srcOf r l 1 code.toNat

/-- The lane a map reads for a lane (R66). -/
def mapLane (map : Option (Nat × Nat)) (lane : Nat) : Nat :=
  match map with
  | none => lane
  | some (pat, parm) => patternLane pat parm lane

/-- A form's value at an item (R11). -/
def formAt (f : AReg) (ix iy iz : Nat) : Word64 :=
  BitVec.ofInt 64 (Int.ofNat f.base.toNat + f.sx.toInt * Int.ofNat ix + f.sy.toInt * Int.ofNat iy
    + f.sz.toInt * Int.ofNat iz)

/-- The item of a lane: of a stand, the lane's item; of a tract, its first item (R19, R116). -/
def itemOf (c : Context) (lane : Nat) : Nat × Nat × Nat := (c.box.x0 + lane, c.box.y0, c.box.z0)

/-- A form's value at a lane of a context (R11, R211). -/
def formLane (c : Context) (f : AReg) (lane : Nat) : Word64 :=
  formAt f (itemOf c lane).1 (itemOf c lane).2.1 (itemOf c lane).2.2

/-- A form is uniform: all its strides are zero (R11). -/
def AReg.isUniform (f : AReg) : Bool := f.sx == 0 && f.sy == 0 && f.sz == 0

/-- A v register's lane. -/
def vLane (r : Regs) (reg lane : Nat) : Word32 := vget (vget r.v reg VReg.fresh).lanes lane 0

/-- A v register's tag. -/
def vTag (r : Regs) (reg : Nat) : Tag := (vget r.v reg VReg.fresh).tag

/-- A source's 32-bit value at a lane; an immediate fills every element of `bits` bits (R211, R258). -/
def src32 (c : Context) (r : Regs) (bits : Nat) (s : Src) (lane : Nat) : Word32 :=
  match s with
  | .vreg reg map => vLane r reg (mapLane map lane)
  | .form f => (formLane c f lane).setWidth 32
  | .imm x => BitVec.ofNat 32 ((List.range (32 / bits)).foldl (fun acc k => acc + wrapInt bits x * 2 ^ (k * bits)) 0)

/-- A source register `k` after the named one at a lane (R66, R282): for groups of registers. -/
def srcWord (c : Context) (r : Regs) (s : Src) (k lane : Nat) : Word32 :=
  match s with
  | .vreg reg map => vLane r (reg + k) (mapLane map lane)
  | .form f => (formLane c f lane >>> (32 * k)).setWidth 32
  | .imm x => BitVec.ofInt 32 x

/-- A source's 64-bit value at a lane: a pair, a form's value, a sign-extended immediate (R59, R213). -/
def src64 (c : Context) (r : Regs) (s : Src) (lane : Nat) : Word64 :=
  match s with
  | .vreg reg map => vLane r (reg + 1) (mapLane map lane) ++ vLane r reg (mapLane map lane)
  | .form f => formLane c f lane
  | .imm x => BitVec.ofInt 64 x

/-- The tags of a source over `count` registers; an immediate carries tag 0 (R258). -/
def srcTags (r : Regs) (s : Src) (count : Nat) : List Tag :=
  match s with
  | .vreg reg _ => (List.range count).map fun k => vTag r (reg + k)
  | .form f => [f.tag]
  | .imm _ => [.raw]

/-- Every tag of a source is accepted: `t`, or 0 (R64, R59). -/
def tagsIn (t : Tag) (l : List Tag) : Bool := l.all fun u => u == t || u == .raw

/-- The tag a uniform operand of affine arithmetic accepts (R64). -/
def affineTag (t : Tag) : Bool := t == .int32 || t == .raw || t == .cell

/-- An a-register by number. -/
def aReg (r : Regs) (n : Nat) : AReg := vget r.a n AReg.zero

/-- An a-register by operand code. -/
def aCode (r : Regs) (c : BitVec 7) : AReg := aReg r (c.toNat - 64)

/-- A uniform form of a value (R11). -/
def uniform (x : Word64) (t : Tag) : AReg := ⟨x, 0, 0, 0, t⟩

/-- A p register's value; p0 reads the path's mask (R25). -/
def pReg (c : Context) (r : Regs) (n : Nat) : Word64 := if n = 0 then c.path.mask else vget r.p n 0

/-- A pair of tag 14 for a w register (R61). -/
def wTagged (r : Regs) (w : BitVec 3) : Bool :=
  vTag r (48 + 2 * w.toNat) == .view && vTag r (49 + 2 * w.toNat) == .view

/-! ## Tags checked before a word has an effect (R64, and the tables of each family) -/

/-- The addend's source (R214). -/
def addend (r : Regs) (l : Lead) (d : BitVec 7) : Src := srcOf r l 2 (addendCode l d)

/-- Integer sources of 32 bits of which one may be a sum-cell address (R264). -/
def cellPair (r : Regs) (x y : Src) : Bool :=
  let tx := srcTags r x 1
  let ty := srcTags r y 1
  (tagsIn .int32 tx && tagsIn .int32 ty) || (tx == [.cell] && tagsIn .int32 ty) || (tagsIn .int32 tx && ty == [.cell])

/-- The tags of a matrix operand in registers (R133). -/
def matTags (r : Regs) (t : Tag) (k : BitVec 7) : Bool :=
  if k.toNat < 64 then (List.range 8).all fun j => vTag r (k.toNat + j) == t || vTag r (k.toNat + j) == .raw else true

/-- The tag of an operand of a step format (R133): the first for A, the second for B. -/
def stepTag (fmt : Nat) (first : Bool) : Tag :=
  match fmt with
  | 0 => .bf16 | 1 => .f16 | 2 => .e4m3 | 3 => .e5m2 | 4 => if first then .e4m3 else .e5m2
  | 5 => if first then .e5m2 else .e4m3 | 6 => .int8 | 7 => .hs8 | 8 => .mx4 | _ => .hs4

/-- The tile tag a step format requires (R133). -/
def tileTag (fmt : Nat) : Tag := if fmt = 6 then .int32 else .f32

/-- The tag of an m register (R62). -/
def mTag (r : Regs) (n : BitVec 3) : Tag := (vget r.m n.toNat MReg.unbound).tag

/-- The scan operation's tag check (R272). -/
def scanTags (r : Regs) (s : Src) (f : BitVec 4) : Bool :=
  if f.toNat < 5 then tagsIn .int32 (srcTags r s 1) else if f.toNat < 8 then true
  else if f.toNat < 11 then tagsIn .f32 (srcTags r s 1) else tagsIn .f64 (srcTags r s 2)

/-- The lanes with a view in which the slot a word names is not valid or does not carry the lane's SERIAL (R335). -/
def serialFails (c : Context) (r : Regs) (ws : BitVec 3) (slot : Nat) : List Nat :=
  let st := vget r.slots slot Setup.empty
  (lanesOf c.path.mask).filter fun k =>
    !((vLane r (48 + 2 * ws.toNat) k == 0 && vLane r (49 + 2 * ws.toNat) k == 0)
      || (st.valid && (vget (vget r.w ws.toNat (Vector.replicate 64 0)) k 0).toNat / 2 ^ 32 == st.serial.toNat))

/-! ## Places in a tile (R46, R163, R318) -/

/-- The view mask of a w register at a lane. -/
def wMask (r : Regs) (w lane : Nat) : Word64 :=
  (vLane r (49 + 2 * w) lane).setWidth 64 <<< 32 ||| (vLane r (48 + 2 * w) lane).setWidth 64

/-- A bank-rotation code's map of an offset (R46). -/
def rotateOff (code off : Nat) : Nat :=
  if code = 0 then off
  else off / 128 * 128 + natXor (bitsOf off 4 3) (bitsOf off (6 + code) 3) * 16 + off % 16

/-- BASE of a tile. -/
def tileBase (d : Word64) : Nat := bitsOf d.toNat 0 21
/-- TX0. -/
def tileX (d : Word64) : Nat := bitsOf d.toNat 21 13
/-- TY0. -/
def tileY (d : Word64) : Nat := bitsOf d.toNat 34 13
/-- ROT. -/
def tileRot (d : Word64) : Nat := bitsOf d.toNat 47 4

/-- The bytes of a tile in pad (R163). -/
def tileBytes : Nat := 196608
/-- The bytes of its colours, which lie before its depths. -/
def colourBytes : Nat := 131072

/-- The pixel of a lane: a register pair, read as any vector source. -/
def pixelIn (l : Lead) (c : Context) (r : Regs) (b : BitVec 7) (lane : Nat) : Nat × Nat :=
  let src := srcOf r l 1 b.toNat
  ((srcWord c r src 0 lane).toNat, (srcWord c r src 1 lane).toNat)

/-- The pad offset that R163's layout gives a view of a pixel, in the tile or not, modulo 2^64: of its depth or its colour. -/
def layoutAt (d : Word64) (depth : Bool) (xy : Nat × Nat) (v : Nat) : Nat :=
  let n := Int.ofNat v + 64 * (Int.ofNat xy.1 - Int.ofNat (tileX d) + 32 * (Int.ofNat xy.2 - Int.ofNat (tileY d)))
  rotateOff (tileRot d) (wrapInt 64 (Int.ofNat (tileBase d) + if depth then Int.ofNat colourBytes + 4 * n else 8 * n))

/-- The pad offset that special register 10 holds for a failing lane (R318). DESIGN CHOICE (log entry 80): that of its lowest view, the
depth for VTEST and the colour for FBW. -/
def offsetIn (l : Lead) (c : Context) (r : Regs) (d : Word64) (depth : Bool) (b : BitVec 7) (ws lane : Nat) : Nat :=
  layoutAt d depth (pixelIn l c r b lane) ((lowestLane (wMask r ws lane)).getD 0)

/-- A tile descriptor operand that the leading word names (R329). -/
def tileNamed (l : Lead) (r : Regs) : Word64 := (aReg r ((extraOf l).third - 64)).base

/-! ## Checks made lane by lane -/

/-- The lanes that fail the slot check of a word (R318, R335, R336), ascending. -/
def slotFails (i : Instr) (l : Lead) (c : Context) (r : Regs) : List Nat :=
  match i with
  | .vtest _ pa _ _ | .fbw _ pa _ _ => serialFails c r pa ((extraOf l).aux % 4)
  | _ => []

/-- The tags of the registers a word reads are accepted. -/
def regTagsOk (i : Instr) (l : Lead) (r : Regs) : Bool :=
  let ft := typeTag (fpType l)
  let n := regsOf (fpType l)
  let int (f : Nat) (x : Src) : Bool := tagsIn (itypeTag f) (srcTags r x 1)
  let sa (a : BitVec 7) : Src := srcOf r l 0 a.toNat
  let fp (x : Src) : Bool := tagsIn ft (srcTags r x n)
  let aff (k : BitVec 7) : Bool := affineTag (aCode r k).tag
  let affB (b : BitVec 7) : Bool := l.imm.isSome || affineTag (aCode r b).tag
  let atom (b : BitVec 7) (f : BitVec 4) : Bool :=
    let t := atomType l f
    if f = 8#4 then tagsIn (typeTag t) (srcTags r (srcB r l b) (regsOf t))
    else if 3 ≤ f.toNat then true
    else tagsIn .int32 (srcTags r (srcB r l b) (regsOf t))
  match i with
  | .loop reg _ => (aReg r reg.toNat).tag == .int32 || (aReg r reg.toNat).tag == .raw
  | .aadd _ a b | .asub _ a b | .amul _ a b | .ashl _ a b | .ashr _ a b | .amin _ a b | .amax _ a b
  | .acmpEq _ a b | .acmpNe _ a b | .acmpLt _ a b | .acmpLe _ a b | .acmpLtu _ a b | .acmpLeu _ a b => aff a && affB b
  | .aaddi _ a imm => (extraOf l).typ == 17 || (imm == 0#11 && l.imm.isNone && l.extra.isNone) || aff a
  | .amuli _ a _ | .ashli _ a _ | .ashri _ a _ => aff a
  | .iadd _ a b f | .isub _ a b f =>
      if f.toNat < 2 then cellPair r (sa a) (srcB r l b) else int f.toNat (sa a) && int f.toNat (srcB r l b)
  | .imul _ a b f => int f.toNat (sa a) && int f.toNat (srcB r l b)
  | .imulh _ a b f | .imin _ a b f | .imax _ a b f | .icmp _ a b f => int f.toNat (sa a) && int f.toNat (srcB r l b)
  | .imad d a b f => int f.toNat (sa a) && int f.toNat (srcB r l b) && int f.toNat (addend r l d)
  | .iabs _ a f => int f.toNat (sa a)
  | .bcmpEq _ a b | .bcmpLt _ a b | .bcmpLtu _ a b | .baddsI8 _ a b | .baddsN8 _ a b =>
      tagsIn .int8 (srcTags r (sa a) 1) && tagsIn .int8 (srcTags r (srcB r l b) 1)
  | .vscan _ a f | .vred _ a f => scanTags r (sa a) f
  | .fadd _ a b _ | .fsub _ a b _ | .fmul _ a b _ | .fdiv _ a b _ => fp (sa a) && fp (srcOf r l 1 b.toNat)
  | .fma d a b _ => fp (sa a) && fp (srcOf r l 1 b.toNat) && fp (addend r l d)
  | .fmin _ a b | .fmax _ a b | .fcmp _ a b => fp (sa a) && fp (srcOf r l 1 b.toNat)
  | .fsqrt _ a _ | .frcp _ a _ | .frsq _ a _ | .fexp2 _ a _ | .flog2 _ a _ | .fsin _ a _ | .fcos _ a _ => fp (sa a)
  | .fclass _ a => fp (sa a)
  | .cvt _ a dt _ =>
      let t := fpType l
      tagsIn (if t = 6 ∨ t = 7 then .int32 else typeTag t) (srcTags r (sa a) (cvtGroup t dt.toNat (typeBits t)))
  | .xsum data base index _ _ =>
      let t := memType l data
      (aReg r base.toNat).tag == .cell
        && (index.toNat == 31 || vTag r index.toNat == .int32 || vTag r index.toNat == .raw)
        && tagsIn (if t = 6 ∨ t = 7 then .int32 else typeTag t) (srcTags r (.vreg (dataReg data) none) (regsOf t))
  | .sumrd _ base index _ _ =>
      (aReg r base.toNat).tag == .cell
        && (index.toNat == 31 || vTag r index.toNat == .int32 || vTag r index.toNat == .raw)
  | .atomg _ _ b f | .atomp _ _ b f | .atomr _ _ b f => atom b f
  | .mma t ka kb fmt _ =>
      mTag r t == tileTag fmt.toNat && matTags r (stepTag fmt.toNat true) ka && matTags r (stepTag fmt.toNat false) kb
  | .mmas t ka kb fmt _ =>
      mTag r t == tileTag fmt.toNat && matTags r (stepTag fmt.toNat true) ka && matTags r (stepTag fmt.toNat false) kb
        && tagsIn .int32 [vTag r (extraOf l).third, vTag r ((extraOf l).third + 1)]
  | .mdrain t _ _ => mTag r t != .invalid
  | .rset _ a _ _ => (List.range 12).all fun k => let t := (aReg r (a.toNat - 64 + k)).tag; t == .f32 || t == .raw
  | .travRay d a _ _ =>
      (vTag r d.toNat == .int32 || vTag r d.toNat == .raw) && tagsIn .f32 (srcTags r (sa a) 8)
  | .travBox d a _ _ =>
      (vTag r d.toNat == .int32 || vTag r d.toNat == .raw) && tagsIn .f32 (srcTags r (sa a) 6)
  | .vtest _ pa b _ =>
      wTagged r pa && tagsIn .int32 (srcTags r (srcOf r l 1 b.toNat) 2)
  | .fbw d pa b _ =>
      wTagged r pa && tagsIn .int32 (srcTags r (srcOf r l 1 b.toNat) 2)
        && tagsIn .f16 [vTag r d.toNat, vTag r (d.toNat + 1)]
  | .vsplit _ _ pa | .vhalve _ _ pa => wTagged r pa
  | .vends _ pa => wTagged r pa
  | .vmask _ pa b => wTagged r pa && tagsIn .int32 (srcTags r (srcOf r l 1 b.toNat) 1)
  | .vagree _ gws _ gva gvb =>
      wTagged r gws && tagsIn .f16 [vTag r (2 * gva.toNat), vTag r (2 * gva.toNat + 1)]
        && tagsIn .f16 [vTag r (2 * gvb.toNat), vTag r (2 * gvb.toNat + 1)]
  | _ => true

/-- The operand tags of a word, and the slot it names, are accepted; otherwise trap 0x03. -/
def tagsOk (i : Instr) (l : Lead) (c : Context) (r : Regs) : Bool := regTagsOk i l r && (slotFails i l c r).isEmpty

/-- The lane that takes trap 0x03 of a word: the lowest that fails a check made lane by lane; none when a register's tag fails (R318). -/
def tagLane (i : Instr) (l : Lead) (c : Context) (r : Regs) : Option Nat :=
  if regTagsOk i l r then (slotFails i l c r).head? else none

/-- The pad offset that such a lane reports (R318). -/
def tagOffset (i : Instr) (l : Lead) (c : Context) (r : Regs) (lane : Nat) : Option Nat :=
  match i with
  | .vtest _ pa b _ => some (offsetIn l c r (tileNamed l r) true b pa.toNat lane)
  | .fbw _ pa b _ => some (offsetIn l c r (tileNamed l r) false b pa.toNat lane)
  | _ => none

/-- The a-registers a word needs uniform (R227 and each family). -/
def uniformRegs (i : Instr) (l : Lead) : List Nat :=
  let n (c : BitVec 7) : List Nat := if isA c then [c.toNat - 64] else []
  let run (c : BitVec 7) (k : Nat) : List Nat := (List.range k).map fun j => c.toNat - 64 + j
  let mat (c : BitVec 7) : List Nat := if isA c then run c 2 else []
  match i with
  | .locq _ a => n a
  | .launch _ a b => n a ++ n b
  | .loop reg _ => [reg.toNat]
  | .sets a _ => n a
  | .lread _ _ b => n b
  | .lwrite _ a b => n a ++ n b
  | .blut _ _ b => run b 4
  | .ldk _ base _ _ => [base.toNat]
  | .pempty a b | .barinit a b | .sems a b => n a ++ n b
  | .bararr _ a => n a
  | .barwait a b => n a ++ n b
  | .barinv a => n a
  | .semw _ a b => n a ++ n b
  | .tlbinv a _ => n a
  | .sendq d _ _ => n d
  | .padopen _ _ a b => n a ++ n b
  | .mma _ ka kb _ _ => mat ka ++ mat kb
  | .mmas _ ka kb _ _ => mat ka ++ mat kb ++ [(extraOf l).aux % 32]
  | .mload _ ka _ => run ka 2
  | .mdrain _ ka _ => run ka 4
  | .epload _ ka => n ka
  | .rset _ a b _ => run a 12 ++ run b 2
  | .rast _ a _ _ => n a
  | .travset _ bpair | .travRay _ _ bpair _ | .travBox _ _ bpair _ => [2 * bpair.toNat, 2 * bpair.toNat + 1]
  | .fbload _ a b | .fbstore _ a b => n a ++ n b
  | .fbdone a b => n a ++ n b
  | .vtest _ _ _ _ | .fbw _ _ _ _ => [(extraOf l).third - 64]
  | .vagree _ _ gt _ _ => [gt.toNat]
  | _ => []

/-- Every operand a word needs uniform is; otherwise trap 0x04 (R227). -/
def uniformOk (i : Instr) (l : Lead) (r : Regs) : Bool :=
  (uniformRegs i l).all fun k => (aReg r k).isUniform

/-! ## Registers read, for their checks (R69, R70) -/

/-- The v registers a word reads, with whether it reads lanes other than its active ones. -/
def vReads (i : Instr) (l : Lead) : List (Nat × Bool) :=
  let w (k : BitVec 3) : List (Nat × Bool) := [(48 + 2 * k.toNat, false), (49 + 2 * k.toNat, false)]
  (match i with
  | .atomg d _ _ f | .atomp d _ _ f | .atomr d _ _ f => if f = 7#4 ∧ d.toNat < 64 then [(d.toNat, false)] else []
  | .vtest _ pa _ _ | .fbw _ pa _ _ | .vsplit _ _ pa | .vhalve _ _ pa | .vends _ pa | .vmask _ pa _
  | .vagree _ pa _ _ _ => w pa
  | _ => []) ++
  ((vUses i l).filter fun u => !u.dest).flatMap fun u =>
    if u.code < 64 then (List.range u.count).map fun k => (u.code + k, l.cross.isSome)
    else if u.code < 96 then [] else (List.range u.count).map fun k => ((u.code - 96) % 8 + k, true)

/-- The a-registers a word reads. -/
def aReads (i : Instr) (l : Lead) : List Nat :=
  let n (c : BitVec 7) : List Nat := if isA c then [c.toNat - 64] else []
  ((vUses i l).filter fun u => !u.dest && decide (64 ≤ u.code) && decide (u.code < 96)).map (fun u => u.code - 64) ++
  match i with
  | .aadd _ a b | .asub _ a b | .amul _ a b | .ashl _ a b | .ashr _ a b | .aand _ a b | .aor _ a b | .axor _ a b
  | .amin _ a b | .amax _ a b | .acmpEq _ a b | .acmpNe _ a b | .acmpLt _ a b | .acmpLe _ a b | .acmpLtu _ a b
  | .acmpLeu _ a b => n a ++ n b
  | .aaddi _ a _ | .amuli _ a _ | .ashli _ a _ | .ashri _ a _ | .aandi _ a _ => n a
  | .brc _ reg _ | .loop reg _ => [reg.toNat]
  | .xsum _ base _ _ _ | .sumrd _ base _ _ _ | .ldg _ base _ _ _ | .ldgF _ base _ _ _ | .stg _ base _ _ _
  | .ldk _ base _ _ | .pref base _ _ _ | .ldp _ base _ _ _ | .stp _ base _ _ _ | .ald _ base _ => [base.toNat]
  | .atomg d areg b f | .atomp d areg b f | .atomr d areg b f => areg.toNat :: n b ++ if f = 7#4 then n d else []
  | .cpy d a _ _ | .cpyi d a _ _ => n d ++ n a
  | .rast _ a _ _ => n a
  | _ => uniformRegs i l

/-- The p registers a word reads; p0 is the path's mask and no stored register (R25). -/
def pReads (i : Instr) (l : Lead) : List Nat :=
  (match i with
  | .brv _ p _ => [p.toNat % 8]
  | .pand _ a b | .por _ a b | .pxor _ a b => [a.toNat, b.toNat]
  | .pnot _ a | .pfirstA _ a | .pfirstP _ a | .pcnt _ a => [a.toNat]
  | .sel _ _ _ p => [p.toNat % 8]
  | _ => [(extraOf l).pred]).filter fun n => n != 0

/-! ## Arithmetic of forms (R13, R240 to R243) -/

/-- A form from exact strides: none when one does not fit 32 signed bits (R240). -/
def mkForm (base : Int) (sx sy sz : Int) (t : Tag) : Option AReg :=
  if fitsSigned 32 sx && fitsSigned 32 sy && fitsSigned 32 sz then
    some ⟨BitVec.ofInt 64 base, BitVec.ofInt 32 sx, BitVec.ofInt 32 sy, BitVec.ofInt 32 sz, t⟩
  else none

/-- The sum of a form and `k` times another. -/
def addForms (f g : AReg) (k : Int) (t : Tag) : Option AReg :=
  mkForm (Int.ofNat f.base.toNat + k * Int.ofNat g.base.toNat) (f.sx.toInt + k * g.sx.toInt) (f.sy.toInt + k * g.sy.toInt)
    (f.sz.toInt + k * g.sz.toInt) t

/-- A form times a signed number. -/
def scaleForm (f : AReg) (k : Int) (t : Tag) : Option AReg :=
  mkForm (Int.ofNat f.base.toNat * k) (f.sx.toInt * k) (f.sy.toInt * k) (f.sz.toInt * k) t

/-- The product of two forms, of which one must be uniform (R240). -/
def mulForms (f g : AReg) (t : Tag) : Option AReg :=
  if g.isUniform then scaleForm f g.base.toInt t
  else if f.isUniform then scaleForm g f.base.toInt t
  else none

/-- A form shifted left by a uniform amount below 64. -/
def shlForms (f g : AReg) (t : Tag) : Option AReg :=
  if g.isUniform && decide (g.base.toNat ≤ 63) then scaleForm f (Int.ofNat (2 ^ g.base.toNat)) t else none

/-- A function of two uniform values. -/
def uniForms (f g : AReg) (t : Tag) (op : Word64 → Word64 → Word64) : Option AReg :=
  if f.isUniform && g.isUniform then some (uniform (op f.base g.base) t) else none

/-- An arithmetic shift right; 63 and above give copies of the sign (R240). -/
def ashrVal (x n : Word64) : Word64 := x.sshiftRight (earlier n.toNat 63)

/-- 1 where a relation holds, else 0. -/
def truth (p : Bool) : Word64 := if p then 1 else 0

/-- The tag AADD and ASUB write: 13 when exactly one source carries it (R241). -/
def addTag (t u : Tag) : Tag := if (t == .cell) != (u == .cell) then .cell else .int32

/-- An immediate of these words: a uniform form with tag 1 (R226). -/
def immForm (x : Int) : AReg := uniform (BitVec.ofInt 64 x) .int32

/-- The B operand: a register or a long immediate (R213). -/
def affineB (l : Lead) (r : Regs) (b : BitVec 7) : AReg := match immOf l with | some x => immForm x | none => aCode r b

/-- A form with another tag. -/
def AReg.retag (f : AReg) (t : Tag) : AReg := { f with tag := t }

/-- The sum-cell type is given (R243). -/
def cellType (l : Lead) : Bool := (extraOf l).typ == 17

/-- AADDI (R241, R243): with .cell tag 13; with immediate 0 and no prefix the move AMOV, tag 0; else as AADD. -/
def aaddiForm (f : AReg) (imm : BitVec 11) (l : Lead) : Option AReg :=
  if cellType l then addForms f (immForm (immI l imm)) 1 .cell
  else if imm = 0 ∧ l.imm = none ∧ l.extra = none then some (f.retag .raw)
  else addForms f (immForm (immI l imm)) 1 (addTag f.tag .int32)

/-- The result of a word of majors 0x05 to 0x0B: a form, or none for a non-form (R240). -/
def affineResult (i : Instr) (l : Lead) (r : Regs) : Option AReg :=
  match i with
  | .aadd _ a b => addForms (aCode r a) (affineB l r b) 1 (addTag (aCode r a).tag (affineB l r b).tag)
  | .asub _ a b => addForms (aCode r a) (affineB l r b) (-1) (addTag (aCode r a).tag (affineB l r b).tag)
  | .amul _ a b => mulForms (aCode r a) (affineB l r b) .int32
  | .ashl _ a b => shlForms (aCode r a) (affineB l r b) .int32
  | .ashr _ a b => uniForms (aCode r a) (affineB l r b) .int32 ashrVal
  | .aand _ a b => uniForms (aCode r a) (affineB l r b) .raw fun x y => x &&& y
  | .aor _ a b => uniForms (aCode r a) (affineB l r b) .raw fun x y => x ||| y
  | .axor _ a b => uniForms (aCode r a) (affineB l r b) .raw fun x y => x ^^^ y
  | .amin _ a b => uniForms (aCode r a) (affineB l r b) .int32 fun x y => if x.slt y then x else y
  | .amax _ a b => uniForms (aCode r a) (affineB l r b) .int32 fun x y => if x.slt y then y else x
  | .acmpEq _ a b => uniForms (aCode r a) (affineB l r b) .int32 fun x y => truth (x == y)
  | .acmpNe _ a b => uniForms (aCode r a) (affineB l r b) .int32 fun x y => truth (x != y)
  | .acmpLt _ a b => uniForms (aCode r a) (affineB l r b) .int32 fun x y => truth (x.slt y)
  | .acmpLe _ a b => uniForms (aCode r a) (affineB l r b) .int32 fun x y => truth (x.sle y)
  | .acmpLtu _ a b => uniForms (aCode r a) (affineB l r b) .int32 fun x y => truth (x.ult y)
  | .acmpLeu _ a b => uniForms (aCode r a) (affineB l r b) .int32 fun x y => truth (x.ule y)
  | .aaddi _ a imm => aaddiForm (aCode r a) imm l
  | .amuli _ a imm => scaleForm (aCode r a) (immI l imm) .int32
  | .ashli _ a imm => shlForms (aCode r a) (immForm (immI l imm)) .int32
  | .ashri _ a imm => uniForms (aCode r a) (immForm (immI l imm)) .int32 ashrVal
  | .amovi _ imm => some ((immForm (immI l imm)).retag (if cellType l then .cell else .int32))
  | .aandi _ a imm => uniForms (aCode r a) (immForm (immI l imm)) .raw fun x y => x &&& y
  | _ => some AReg.zero

/-! ## Words that keep a tract whole (R14, R286, R317) -/

/-- The a-registers whose affine form sends a once-per-tract word to the stands. -/
def onceRegs (i : Instr) (l : Lead) : Option (List Nat) :=
  match i with
  | .fence | .cseal | .cwait _ | .mseal | .mwait _ => some []
  | .pempty _ _ | .barinit _ _ | .bararr _ _ | .barwait _ _ | .barinv _ | .sems _ _ | .semw _ _ _ | .tlbinv _ _
  | .epload _ _ | .fbload _ _ _ | .fbstore _ _ _ | .fbdone _ _ => some (uniformRegs i l)
  | .poolset _ _ _ _ _ | .poolq _ _ _ => some []
  | .ald _ base _ => some [base.toNat]
  | .cpy d a _ _ | .cpyi d a _ _ =>
      if (extraOf l).pred = 0 then
        some ([d.toNat - 64, a.toNat - 64] ++ if (extraOf l).aux = 1 then [(extraOf l).third - 64] else [])
      else none
  | .atomg d areg b f | .atomp d areg b f | .atomr d areg b f =>
      if isA d && (isA b || l.imm.isSome) && (extraOf l).third == 0 then
        some ([areg.toNat] ++ (if f = 7#4 then [d.toNat - 64] else []) ++ if isA b then [b.toNat - 64] else [])
      else none
  | _ => none

/-- The control words that keep a tract whole whatever they read (R14). BRC, BRX and the affine words decide where they
execute. -/
def keepsTract : Instr → Bool
  | .nop | .bra _ | .brc _ _ _ | .call _ | .ret | .loop _ _ | .join | .rjoin _ _ | .yield | .exit | .hret | .time _
  | .locq _ _ | .idx _ _ | .gets _ _ | .sets _ _ | .xset _ _ | .xpfx _ _ | .trap _ | .launch _ _ _ => true
  | .aadd _ _ _ | .asub _ _ _ | .amul _ _ _ | .ashl _ _ _ | .ashr _ _ _ | .aand _ _ _ | .aor _ _ _ | .axor _ _ _
  | .amin _ _ _ | .amax _ _ _ | .acmpEq _ _ _ | .acmpNe _ _ _ | .acmpLt _ _ _ | .acmpLe _ _ _ | .acmpLtu _ _ _
  | .acmpLeu _ _ _ | .aaddi _ _ _ | .amuli _ _ _ | .ashli _ _ _ | .ashri _ _ _ | .amovi _ _ | .aandi _ _ _ => true
  | _ => false

/-- A word that sends a tract to its stands before it executes (R14), BRC apart: an affine word whose result is a non-form is one. -/
def needsStand (i : Instr) (l : Lead) (r : Regs) : Bool :=
  if keepsTract i then (affineResult i l r).isNone
  else match i with
  | .brx a => !(isA a && (aCode r a).isUniform)
  | _ =>
    match onceRegs i l with
    | some regs => !regs.all fun k => (aReg r k).isUniform
    | none => true

end Sys2Proof.Machine
end

