-- ==== Sys2Proof/Machine/Ops.lean ====
section
/-! DEFINITION. The shared operations of the meanings: writing registers (R24, R60, R64), moving through a chain (R206,
R218), the end of a task (R35, R38, R395), fault records (R396), taking a trap (R390 to R392) and returning from one
(R393). -/

namespace Sys2Proof.Machine

/-- What a word comes to: a new state, a trap without effect, or a stall (the word issues again). -/
inductive Res (α : Type) where
  | ok (a : α)
  | trap (t : Trap)
  | stall (w : Stall)
  deriving DecidableEq, Repr

/-- One operation after another. -/
def Res.bind {α β : Type} (x : Res α) (f : α → Res β) : Res β :=
  match x with
  | .ok a => f a
  | .trap t => .trap t
  | .stall w => .stall w

/-- A condition that must hold, else a trap. -/
def Res.need (p : Bool) (t : Trap) : Res Unit := if p then .ok () else .trap t

/-- A condition that must hold, else a stall. -/
def Res.wait (p : Bool) (w : Stall) : Res Unit := if p then .ok () else .stall w

/-! ## The word under issue -/

/-- The context under issue has lanes. -/
def isStand (s : State) : Bool := s.me.kind == .stand

/-- The active lanes of the path under issue; p0 (R25). -/
def p0 (s : State) : Word64 := s.me.path.mask

/-- The registers a word reads: as they stood before its chain (R200). -/
def readRegs (s : State) : Regs := s.me.path.snap.getD s.me.regs

/-- The packet of the chain under issue, or of the next one (R204). -/
def packetOf (p : Path) : BitVec 32 := match p.run with | some (k, _) => k | none => p.pc

/-- The slot of the word under issue, or of the next one. -/
def slotOf (p : Path) : Nat := match p.run with | some (_, k :: _) => k | _ => p.slot

/-- The code base of the context: its handler's, else its task's (R204, R392). -/
def codeBase (s : State) : Nat := match s.me.frame with | some f => f.code | none => s.task.code

/-- The byte address of a slot of a packet (R204). -/
def slotAddr (base : Nat) (packet : BitVec 32) (slot : Nat) : Nat := base + 12 * packet.toNat + 4 * slot

/-- The byte address of the word under issue. -/
def wordAddr (s : State) : Nat := slotAddr (codeBase s) (packetOf s.me.path) (slotOf s.me.path)

/-- The lane a trap elects when no lane has faulted on its own (R37): the lowest active lane, 64 in a tract. -/
def electedLane (s : State) : Nat := if isStand s then (lowestLane (p0 s)).getD 0 else 64

/-- A trap at the word itself: special register 10 holds the word's byte address (R390). -/
def trapHere (s : State) (code : BitVec 8) (detail : Nat) : Trap :=
  ⟨code, BitVec.ofNat 8 detail, 0, BitVec.ofNat 64 (wordAddr s), electedLane s⟩

/-- A trap at an address, of the whole word. -/
def trapAt (s : State) (code : BitVec 8) (detail addr : Nat) : Trap :=
  ⟨code, BitVec.ofNat 8 detail, 0, BitVec.ofNat 64 addr, electedLane s⟩

/-- A trap at an address a lane has formed (R98, R287). -/
def trapLane (code : BitVec 8) (detail addr lane : Nat) : Trap :=
  ⟨code, BitVec.ofNat 8 detail, 0, BitVec.ofNat 64 addr, lane⟩

/-- Trap 0x03 of a word, in the lane whose check has failed, with that lane's pad offset (R64, R318). -/
def tagTrap (i : Instr) (s : State) : Trap :=
  let l := s.me.path.lead
  let r := readRegs s
  match tagLane i l s.me r with
  | some lane => trapLane 0x03 0 ((tagOffset i l s.me r lane).getD (wordAddr s)) lane
  | none => trapHere s 0x03 0

/-- A failed translation as a trap at a lane (R378). -/
def trapXlat (f : XFail) (va lane : Nat) : Trap :=
  ⟨f.code, BitVec.ofNat 8 f.detail, BitVec.ofNat 2 f.level, BitVec.ofNat 64 va, lane⟩

/-- What a failed translation with code 0 waits for: a home (R406), or the host (R419). -/
def XFail.wait (f : XFail) : Stall := if f.level = 1 then .hostLine f.detail else .load

/-- A failed translation's outcome for a word: a trap, or a wait. -/
def Res.xlat {α : Type} (f : XFail) (va lane : Nat) : Res α :=
  if f.code = 0 then .stall f.wait else .trap (trapXlat f va lane)

/-- The canopy time of the context under issue (R247). -/
def myTime (s : State) : Nat := coreClock s s.task.core

/-! ## Writing registers of the context under issue -/

/-- The registers changed. -/
def mapRegs (s : State) (f : Regs → Regs) : State := { s with me := { s.me with regs := f s.me.regs } }

/-- The path changed. -/
def mapPath (s : State) (f : Path → Path) : State := { s with me := { s.me with path := f s.me.path } }

/-- An a-register written, by number (R64), with its parity (R69). -/
def setA (s : State) (n : Nat) (f : AReg) : State :=
  mapRegs s fun r => { r with a := vset r.a n f, errA := r.errA.filter fun k => k != n }

/-- An a-register written, by operand code. -/
def setACode (s : State) (c : BitVec 7) (f : AReg) : State := setA s (c.toNat - 64) f

/-- A uniform result with a tag in an a-register named by its operand code. -/
def setUniform (s : State) (c : BitVec 7) (x : Word64) (t : Tag) : State := setACode s c (uniform x t)

/-- Lanes of a v register written with their residues (R69), and the tag of the whole register (R64). -/
def setVMask (s : State) (n : Nat) (mask : Word64) (t : Tag) (val : Nat → Word32) : State :=
  mapRegs s fun r => { r with
    v := vset r.v n ⟨vmask (vget r.v n VReg.fresh).lanes mask val, t⟩
    errV := r.errV.filter fun e => !(e.1 == n && mask.getLsbD e.2.1) }

/-- The lanes of p0 of a v register written. -/
def setV (s : State) (n : Nat) (t : Tag) (val : Nat → Word32) : State := setVMask s n (p0 s) t val

/-- A register pair written with 64-bit values, the low word in the even register (R59). -/
def setVPair (s : State) (n : Nat) (t : Tag) (val : Nat → Word64) : State :=
  setV (setV s n t fun l => (val l).setWidth 32) (n + 1) t fun l => (val l >>> 32).setWidth 32

/-- The bits of p0 of a p register written; the others keep their values (R60). -/
def setP (s : State) (n : Nat) (val : Word64) : State :=
  mapRegs s fun r => { r with
    p := vset r.p n ((vget r.p n 0 &&& ~~~(p0 s)) ||| (val &&& p0 s))
    errP := r.errP.filter fun k => k != n }

/-- The mode register written (R81). -/
def setMode (s : State) (m : Word64) : State := mapRegs s fun r => { r with mode := m }

/-- The pending horizon raised to a WCT (R105). -/
def raiseHorizon (s : State) (w : Nat) : State :=
  { s with me := { s.me with horizon := later s.me.horizon w }, task := { s.task with horizon := later s.task.horizon w } }

/-- A WCT of a store or atomic received: it enters the pending horizon (R105), and H within a call-out (R177). -/
def raiseWrite (s : State) (w : Nat) : State :=
  let s := raiseHorizon s w
  { s with me := { s.me with calloutH := if s.me.callout then later s.me.calloutH w else s.me.calloutH } }

/-- The task becomes exposed (R109). -/
def expose (s : State) : State := { s with task := { s.task with exposed := true } }

/-- The form that lane values make over the active lanes (R24): uniform, affine in x, or none. -/
def formOfLanes (c : Context) (mask : Word64) (t : Tag) (val : Nat → Word64) : Option AReg :=
  match lanesOf mask with
  | [] => some (uniform 0 t)
  | [l] => some (uniform (val l) t)
  | l :: k :: rest =>
    let diff := (val k - val l).toInt
    let gap := Int.ofNat (k - l)
    let sx := diff / gap
    let f : AReg := ⟨val l - BitVec.ofInt 64 (sx * Int.ofNat (c.box.x0 + l)), BitVec.ofInt 32 sx, 0, 0, t⟩
    if sx * gap = diff && fitsSigned 32 sx && (k :: rest).all (fun j => formLane c f j == val j) then some f else none

/-- Lane results of 32 bits written to a destination code: the lanes of p0 of a v register, or a form over the stand
with each lane extended by the result's type (R24, R64, R260). -/
def setDest (s : State) (d : BitVec 7) (t : Tag) (signed : Bool) (val : Nat → Word32) : Res State :=
  if isA d then
    match formOfLanes s.me (p0 s) t fun l => if signed then (val l).signExtend 64 else (val l).setWidth 64 with
    | some f => .ok (setACode s d f)
    | none => .trap (trapHere s 0x04 0)
  else .ok (setV s d.toNat t val)

/-! ## Bytes of tasks in flight -/

/-- A task has no copy or matrix operation left to end (R124, R141). -/
def opsDone (t : Task) : Bool := t.ops.all fun o => o.done

/-- A request of a task is on its way to a home. -/
def inFlight (s : State) (tid : Nat) : Bool := s.flight.any fun q => q.task == tid

/-! ## The end of a task -/

/-- Every context of a task discarded (R38, R395). -/
def dropContexts (s : State) (tid : Nat) : State :=
  let gone := ((ctxsOf s tid) ++ s.dev.spilled.filter fun c => c.task == tid).map fun c => c.id
  { s with
    me := if s.me.task = tid then Context.idle else s.me
    ctxs := s.ctxs.filter fun c => c.task != tid
    remote := s.remote.filter fun r => !gone.contains r.ctx
    core := { s.core with clearing := s.core.clearing.filter fun c => c.task != tid }
    cores := s.cores.map fun c => { c with clearing := c.clearing.filter fun k => k.task != tid }
    dev := { s.dev with
      spilled := s.dev.spilled.filter fun c => c.task != tid
      areas := s.dev.areas.filter fun a => a.1 != tid
      sems := s.dev.sems.map fun m => { m with waiters := m.waiters.filter fun w => !gone.contains w.1 } } }

/-- The credits that the entries of an inbox hold go back with it; messages in transit to it are dropped. -/
def dropInbox (s : State) (t : Task) : State :=
  { s with transit := s.transit.filter fun m => m.toTask != t.tid }

/-- A task's banks return to OFF and its charges are released; its CACHE lines, its registrations and its cores count go
(R35, R53, R395). -/
def releaseTask (s : State) (t : Task) : State :=
  let c := getCore s t.core
  let s := [Role.reg, .pad, .cache, .fifo, .tile].foldl
    (fun s r => release s t.region r (ownBanks c t.tid r).length) s
  let s := if (ownBanks c t.tid .reg).isEmpty then s else releaseCore s t.region t.core t.tid
  let c := setBanks c ((List.range 96).filter fun b => (bankAt c b).owner == some t.tid) .off none
  putCore s { c with
    cache := c.cache.filter fun l => l.task != t.tid
    merge := c.merge.filter fun m => m.task != t.tid }

/-- A task removed from the state. -/
def removeTask (s : State) (tid : Nat) : State :=
  { s with
    task := if s.task.tid = tid then Task.none else s.task
    tasks := s.tasks.filter fun t => t.tid != tid
    dev := { s.dev with waiting := s.dev.waiting.filter fun t => t.tid != tid } }

/-- A launch changed, by serial. -/
def mapLaunch (s : State) (serial : Nat) (f : Launch → Launch) : State :=
  { s with dev := { s.dev with launches := updateFirst (fun g => g.serial == serial) f s.dev.launches } }

/-- The latest WCT that a task's contexts, copies and drains have received (R111). -/
def Task.lastWct (t : Task) : Nat := t.ops.foldl (fun m o => later m o.wct) t.horizon

/-- A task counts once toward its launch's completion (R35, R395). -/
def countTask (s : State) (t : Task) : State :=
  mapLaunch s t.serial fun g => { g with live := g.live.filter (fun k => k != t.tid), horizon := later g.horizon t.lastWct }

/-- A task that has ended leaves: banks, charges and state (R35). -/
def finishTask (s : State) (t : Task) : State := countTask (removeTask (releaseTask (dropInbox s t) t) t.tid) t

/-- A task whose items have all retired, or that has ended fatally, goes on when its copies, matrix operations and stores
have ended (R35, R124, R141): to its commit when it holds version bytes, else out. A task that waits for its restart
gives its banks back (R38). -/
def settle (s : State) (tid : Nat) : State :=
  match getTask s tid with
  | none => s
  | some t =>
    if !opsDone t || inFlight s tid then s
    else match t.phase with
      | .retiring => if t.void || t.vlines.isEmpty then finishTask s t else putTask s { t with phase := .committing }
      | .waiting => releaseTask s t
      | _ => s

/-- A task none of whose items is left starts to retire (R35). -/
def retireTask (s : State) (tid : Nat) : State :=
  if (ctxsOf s tid).isEmpty && !s.dev.spilled.any (fun c => c.task == tid) then
    settle (mapTask s tid fun t => if t.phase = .running then { t with phase := .retiring } else t) tid
  else s

/-! ## Fault records (R396) -/

/-- A number placed at a bit position. -/
def atBit (x lo : Nat) : Nat := x * 2 ^ lo

/-- What a fault record says beside the trap and the task. -/
structure Report where
  kind : Nat
  slot : Nat
  pc : Nat
  vdisc : Bool
  restart : Bool
  drst : Bool
  bank : Nat
  pipe : Nat
  deriving DecidableEq, Repr

/-- The 512 bits of a fault record (R396). -/
def recordBits (s : State) (t : Task) (k : Trap) (r : Report) (lost head size : Nat) : Nat :=
  k.code.toNat + atBit k.detail.toNat 8 + atBit k.level.toNat 16 + atBit r.kind 18 + atBit r.slot 21
    + atBit (bitNat t.exposed) 23 + atBit (bitNat r.vdisc) 24 + atBit (bitNat r.restart) 25 + atBit (bitNat r.drst) 26
    + atBit (k.lane % 128) 32 + atBit (t.aborts % 16) 48 + atBit (t.tid % 2 ^ 48) 64 + atBit (t.region % 4096) 112
    + atBit (r.pc % 2 ^ 48) 128 + atBit k.addr.toNat 192 + atBit (coreClock s t.core % 2 ^ 64) 256
    + atBit (t.core / 208) 320 + atBit (t.core % 208) 322 + atBit (earlier lost 0xFFFF) 336
    + atBit r.bank 384 + atBit r.pipe 391 + atBit (1 - head / 2 ^ size % 2) 511

/-- A fault record raised: counted for its launch, and written to the ring of the effective fault domain, the record
before FRHEAD, or dropped and counted in LOST (R366, R396). -/
def faultRecord (s : State) (t : Task) (k : Trap) (r : Report) : State :=
  let s := mapLaunch s t.serial fun g => { g with faults := earlier (g.faults + 1) 0xFFFF }
  match effective s t.region 5 with
  | none => s
  | some d =>
    if d.fring = 0 then s
    else if 2 ^ d.frsize ≤ (d.frhead - d.frtail).toNat then
      mapRegion s d.num fun g => { g with lost := earlier (g.lost + 1) 0xFFFF }
    else
      let head := d.frhead.toNat
      let s := deviceWrite s d.part (d.fring + 64 * (head % 2 ^ d.frsize))
        (bytesLE 64 (recordBits s t k r d.lost head d.frsize))
      let s := mapRegion s d.num fun g => { g with frhead := g.frhead + 1, lost := 0 }
      deviceWrite s 0 (d.addr + 80) (bytesLE 4 (d.frhead + 1).toNat)

/-! ## Restart, fatal end, region fault -/

/-- The copies that a save cancelled will not be issued again: they count as ended. -/
def Task.dropCancelled (t : Task) : Task :=
  { t with
    cancelled := []
    ops := updateAll (fun o => t.cancelled.any fun c => c.2.op == o.id) (fun o => { o with done := true }) t.ops }

/-- A task that ends as R395 states: its version bytes go, those that its copies still write too, and what it has issued still ends. -/
def Task.ended (t : Task) : Task :=
  { t.dropCancelled with vlines := [], vwct := [], void := true, phase := .retiring, preqAt := Option.none, choice := false, saveAt := Option.none }

/-- A task set up to run again from its piece (R38): its version bytes, inbox, windows and epilogue slots go; it waits
ahead of the pieces that wait. `direct` re-runs it in direct mode (R110); what its copies still write is of the run that has aborted. -/
def restartTask (s : State) (tid : Nat) (direct : Bool) : State :=
  match getTask s tid with
  | none => s
  | some t =>
    let s := dropContexts (dropInbox s t) tid
    let t := { t.dropCancelled with
      rerun := direct, exposed := false, retired := 0, vlines := [], vwct := [], inbox := [], ringAt := (0, 0), withdrawn := none, credits := Task.none.credits
      windows := Task.none.windows, epi := Task.none.epi, preqAt := none, asked := false, choice := false, saveAt := none, badInbox := []
      horizon := t.lastWct, phase := .waiting }
    let s := removeTask (putTask s t) tid
    let c := getCore s t.core
    let s := putCore s { c with merge := c.merge.filter fun m => m.task != tid }
    settle { s with dev := { s.dev with waiting := t :: s.dev.waiting } } tid

/-- The launch's status, kept once it is set (R367). -/
def setStatus (s : State) (serial code : Nat) : State :=
  mapLaunch s serial fun g => if g.status = 0 then { g with status := code } else g

/-- A fatal end (R395): contexts discarded, version bytes dropped, banks returned, a fault record; the launch completes
with status 4. -/
def fatalTask (s : State) (tid : Nat) (k : Trap) (r : Report) : State :=
  match getTask s tid with
  | none => s
  | some t =>
    let s := dropContexts s tid
    let s := faultRecord s t k { r with vdisc := t.vmode, restart := false }
    let s := setStatus s t.serial 4
    settle (mapTask s tid Task.ended) tid

/-- The record of a task that a region fault ends: kind 6, with the place of the trap in the named task alone. -/
def regionReport (r : Report) (t : Task) (named : Bool) : Report :=
  { r with kind := 6, vdisc := t.vmode, slot := if named then r.slot else 0, pc := if named then r.pc else 0 }

/-- A task has ended already and waits for what it has issued, or has its commit time (R108). -/
def Task.leaving (t : Task) : Bool := (t.phase == .retiring && (t.void || t.vlines.isEmpty)) || t.commitAt.isSome

/-- Every task of a list ends as R395 states, with a record for each. -/
def endTasks (k : Trap) (r : Report) (named : Nat) : List Nat → State → State
  | [], s => s
  | tid :: rest, s =>
    endTasks k r named rest
      (match getTask s tid with
       | none => s
       | some t =>
         if t.leaving then s
         else
           let s := faultRecord (dropContexts s tid) t k (regionReport r t (tid == named))
           settle (mapTask s tid Task.ended) tid)

/-- A saved task that ends: its areas and its spilled stands go (R41), and it counts toward its launch (R35). -/
def dropSaved (s : State) (t : Task) : State :=
  countTask { s with dev := { s.dev with
    saved := s.dev.saved.filter fun u => u.task.tid != t.tid
    areas := s.dev.areas.filter fun a => a.1 != t.tid
    spilled := s.dev.spilled.filter fun c => c.task != t.tid } } t

/-- A saved task that ends as R395 states: a record, its area free, and its launch one task fewer. -/
def endSaved (k : Trap) (r : Report) : List Saved → State → State
  | [], s => s
  | v :: rest, s =>
    let s := faultRecord s v.task k (regionReport r v.task false)
    endSaved k r rest (dropSaved s v.task)

/-- STATE of a loaded region set, in the tree cache and in its control block (R354, R356). -/
def setRegionState (s : State) (num n : Nat) : State :=
  match getRegion s num with
  | none => s
  | some g =>
    deviceWrite (mapRegion s num fun g => { g with state := n }) 0 (g.addr + 7)
      [BitVec.ofNat 8 (g.part / 16 + atBit (g.level % 8) 2 + atBit (n % 4) 5)]

/-- A launch that places nothing more and counts as ended with status 5, when a task of it has still to retire or a piece to be placed
(R367). Its wait for a semaphore ends, and it leaves that semaphore's queue. -/
def Launch.cut (g : Launch) : Launch :=
  if g.live.isEmpty && g.waits.isEmpty && g.placed == g.total then g
  else { g with status := if g.status = 0 then 5 else g.status, stopped := true, waits := [], shadow := Vector.replicate 4 [], back := [] }

/-- The launches of some regions cut short (R367, R400). -/
def cutLaunches (s : State) (mine : Nat → Bool) : State :=
  let gone (w : Nat × Nat) : Bool := w.1 == 0 && s.dev.launches.any fun g => g.serial == w.2 && mine g.region
  { s with dev := { s.dev with
    launches := s.dev.launches.map fun g => if mine g.region then g.cut else g
    sems := s.dev.sems.map fun m => { m with waiters := m.waiters.filter fun w => !gone w } } }

/-- A region faults (R400): STATE 2, every task of its subtree ends, and its launches complete with status 5 and place
nothing more. -/
def regionFault (s : State) (num : Nat) (k : Trap) (r : Report) (named : Nat) : State :=
  let s := setRegionState s num 2
  let mine (g : Nat) : Bool := inSubtree s g num
  let s := cutLaunches s mine
  let s := endSaved k r (s.dev.saved.filter fun v => mine v.task.region) s
  endTasks k r named (((liveTasks s ++ waitingTasks s).filter fun t => mine t.region).map fun t => t.tid) s

/-- An abort by a handler's EXIT, or by a soft error (R393, R398): the eighth is fatal, kind 7, beside the record of the soft error. -/
def abortTask (s : State) (tid : Nat) (k : Trap) (r : Report) : State :=
  match getTask s tid with
  | none => s
  | some t =>
    if 8 ≤ t.aborts + 1 then
      let t := { t with aborts := t.aborts + 1 }
      let s := putTask s t
      let s := if r.kind = 4 ∨ r.kind = 5 then faultRecord s t k { r with vdisc := t.vmode } else s
      fatalTask s tid k { r with kind := 7 }
    else
      let t := { t with aborts := t.aborts + 1 }
      let s := faultRecord (putTask s t) t k { r with vdisc := t.vmode, restart := true }
      restartTask s tid false

/-! ## Taking a trap and returning from it -/

/-- The cause registers as a trap sets them (R390): CODE, DETAIL, LEVEL and SLOT; the address; the lane. -/
def setCause (c : Context) (k : Trap) (slot : Nat) : Context :=
  { c with
    cause := BitVec.ofNat 64 (k.code.toNat + atBit k.detail.toNat 8 + atBit k.level.toNat 16 + atBit slot 21)
    causeAddr := k.addr
    causeLane := BitVec.ofNat 64 (k.lane % 128) }

/-- A path between chains; within a packet it keeps the packet as it was fetched (R209). -/
def Path.settled (p : Path) : Path :=
  { p with
    wait := .none, run := none, words := if p.slot = 0 then none else p.words, lead := Lead.none, snap := none, reseed := false
    pend := none, pendSlots := [], first := none, gone := 0 }

/-- A path that resumes, with words to issue again or at its next chain (R218, R393). -/
def Path.resumed (p : Path) (redo : Option Redo) : Path :=
  match redo with
  | none => p.settled
  | some r => { p.settled with run := some (r.packet, r.slots), words := r.words, first := r.kept }

/-- Entry to the handler (R392): the frame holds the trapped path as it resumes, with the words to issue again; the
handler runs as one path in the elected lane, from its entry packet, in the region's handler code. DESIGN CHOICE (log entry 92): its
return stack is empty. -/
def enterHandler (s : State) (k : Trap) (slot pc : Nat) (redo : Option Redo) (d : Region) : State :=
  let c := s.me
  { s with me := { c with
    frame := some ⟨c.path.resumed redo, c.paths, c.recs, slot, pc, k, d.hcode⟩
    path := Path.start c.nextPath (BitVec.ofNat 32 d.hentry)
      (if c.kind = .stand then BitVec.ofNat 64 (2 ^ k.lane) else 0)
    paths := []
    recs := []
    nextPath := c.nextPath + 1 } }

/-- The last three routes of R391: fatal within a handler or with none, else the handler. -/
def takeMasked (s : State) (k : Trap) (slot pc : Nat) (redo : Option Redo) : State :=
  let r : Report := ⟨0, slot, pc, false, false, false, 0, 0⟩
  if s.me.frame.isSome then fatalTask s s.task.tid k { r with kind := 2 }
  else match effective s s.task.region 5 with
    | none => fatalTask s s.task.tid k { r with kind := 1 }
    | some d =>
      if d.hcode = 0 then fatalTask s s.task.tid k { r with kind := 1 } else enterHandler s k slot pc redo d

/-- The PAD bank of a task with the error that an access at an offset has met: of the same slot, else the first. -/
def padUnit (t : Task) (off : Nat) : Option (Nat × Nat) :=
  ((t.badPad.find? fun b => b / 16384 == off / 16384).or t.badPad.head?).map fun b => (t.core, t.padSlots.getD (b / 16384) 96)

/-- The core and the bank that a soft error of the context under issue concerns (R70, R397): of a v register, the bank of its file; of a pad,
its own or a peer's, the bank of the slot; none for the affine file, p registers, pipes and memory. -/
def faultUnit (s : State) (k : Trap) : Option (Nat × Nat) :=
  if 2 ≤ s.me.badWrites then none
  else match roleOf k.detail.toNat with
  | .reg =>
    if s.me.regs.errV.any fun e => e.2.1 == k.lane && e.2.2 == (k.code == 0x21) then
      s.me.file.map fun f => (s.task.core, f.1)
    else none
  | .pad =>
    (padUnit s.task k.addr.toNat).or
      ((peerTask s (peerCore s.task.core (bitsOf k.addr.toNat 21 3)) s.task.serial).bind fun t => padUnit t (k.addr.toNat % 2 ^ 21))
  | .fifo => s.task.badInbox.head?.map fun e => (s.task.core, e.1)
  | .tile => s.task.badTiles.head?.map fun b => (s.task.core, b)
  | _ => none

/-- A bank of a core put down for a self-test (R397). -/
def askTest (s : State) (unit : Nat × Nat) : State :=
  mapCore s unit.1 fun c =>
    let b := bankAt c unit.2
    if c.testing.any fun x => x.bank == unit.2 then c
    else { c with testing := c.testing ++ [⟨unit.2, b.owner.getD 0, b.role, false⟩] }

/-- A soft error (R391, second route): the context waits for the self-test, whose end decides (R397, R398). -/
def awaitTest (s : State) (k : Trap) (slot pc : Nat) (redo : Option Redo) : State :=
  let u := faultUnit s k
  let s := { s with me := { s.me with test := some ⟨k, slot, pc, redo, decide (2 ≤ s.me.badWrites), u⟩, badWrites := 0 } }
  match u with | none => s | some x => askTest s x

/-- Taking a trap (R391): the cause registers, then the first route that applies. `slot` and `pc` are those of the
trapping word, `redo` the words HRET issues again. -/
def takeTrap (s : State) (k : Trap) (slot pc : Nat) (redo : Option Redo) : State :=
  if k.code = 0x20 ∨ k.code = 0x21 then awaitTest s k slot pc redo
  else
    let s := { s with me := setCause s.me k slot }
    if k.code = 0x18 then
      if s.task.exposed then fatalTask s s.task.tid k ⟨3, slot, pc, false, false, false, 0, 0⟩ else restartTask s s.task.tid true
    else takeMasked s k slot pc redo

/-- Return from a handler (R255, R393): the frame is cleared and the trapped path resumes, first with the words to issue
again. A deferral of pre-emption ends with the last handler of the task, and the choice is due (R400). -/
def returnFromHandler (s : State) (f : Frame) : State :=
  let others := (ctxsOf s s.task.tid).any fun c => c.frame.isSome && c.id != s.me.id
  let task := if s.task.preqAt.isSome && !others then { s.task with preqAt := none, choice := true } else s.task
  { s with
    me := { s.me with path := f.path, paths := f.paths, recs := f.recs, frame := none }
    task := task }

/-! ## Through a chain -/

/-- Every lane's LFSR reseeded from the mode register (R80). -/
def seedLanes (mode : Word64) : Vector Word32 64 := Vector.ofFn fun l => lfsrSeed (mode >>> 17) l.val

/-- The LFSRs that a word steps (R80): those of the chain's registers as they stood before it, once its SETS has written a new seed, so
that the chain's words round with the old state and the new one stands (R82, R228). -/
def lfsrOf (s : State) : Vector Word32 64 :=
  if s.me.path.reseed then (readRegs s).lfsr else s.me.regs.lfsr

/-- The LFSRs as a word leaves them. -/
def setLfsr (s : State) (l : Vector Word32 64) : State :=
  if s.me.path.reseed then mapPath s fun p => { p with snap := p.snap.map fun r => { r with lfsr := l } }
  else mapRegs s fun r => { r with lfsr := l }

/-- The trap that a word of the chain under issue has raised is taken, with the words that HRET issues again (R218). -/
def takePend (s : State) (k : Trap) (slot : Nat) (again : List Nat) (kept : Option Regs) : State :=
  let p := s.me.path
  takeTrap (mapPath s Path.settled) k slot (slotAddr (codeBase s) (packetOf p) slot)
    (if again.isEmpty then none else some ⟨packetOf p, again, p.words, kept⟩)

/-- The chain under issue ends: the path stands at its next chain, and a trap one of its words raised is taken (R218). -/
def endChain (s : State) : State :=
  match s.me.path.pend with
  | none => mapPath s Path.settled
  | some (k, slot) => takePend s k slot s.me.path.pendSlots none

/-- The word under issue is over; the next word of its chain follows, or the chain ends. -/
def nextWord (s : State) : State :=
  match s.me.path.run with
  | some (k, _ :: c :: rest) => mapPath s fun p => { p with run := some (k, c :: rest), lead := Lead.none, wait := .none }
  | _ => endChain s

/-- A word that has taken effect. -/
def wordDone (s : State) : State := nextWord s

/-- HRET issues no word again after 0x28, nor after 0x19 with APPLIED (R254, R393). -/
def resumesAfter (k : Trap) : Bool := k.code == 0x28 || (k.code == 0x19 && k.detail.getLsbD 0)

/-- The slots of the word under issue with its leading words. -/
def wordSlots (p : Path) : List Nat :=
  ((List.range p.lead.count).map fun j => slotOf p - p.lead.count + j) ++ [slotOf p]

/-- A word raises a trap: it is kept to the end of its chain, so that the chain's other words take effect (R218); the
first trap of a chain is the one taken. -/
def wordTrap (s : State) (k : Trap) : State :=
  let s := mapPath s fun p => { p with
    pend := match p.pend with | some x => some x | none => some (k, slotOf p)
    pendSlots := if resumesAfter k then p.pendSlots else p.pendSlots ++ wordSlots p }
  nextWord s

/-- Two stalls are of one kind, so that the wait goes on. -/
def Stall.same (v w : Stall) : Bool :=
  match v, w with
  | .emptyLine _, .emptyLine _ => true
  | _, _ => v == w

/-- A word stalls: it has had no effect and issues again (R316). The time its wait began is kept. A line the host may
hold is asked for (R419). -/
def wordStall (s : State) (w : Stall) : State :=
  let s := match w with | .hostLine pa => sendBackInvalidate s pa | _ => s
  mapPath s fun p => { p with
    wait := match p.wait with
      | .stall v since => if v.same w then .stall w since else .stall w (myTime s)
      | _ => .stall w (myTime s) }

/-- A word's outcome put into the machine. -/
def wordEnd (s : State) (r : Res State) : State :=
  match r with
  | .ok t => wordDone t
  | .trap k => wordTrap s k
  | .stall w => wordStall s w

/-- A path goes on at a packet after the chain under issue (R230). -/
def goTo (s : State) (target : BitVec 32) : State := mapPath s fun p => { p with pc := target, slot := 0 }

/-- A displacement in packets from the packet under issue (R204, R230). -/
def branchTarget (s : State) (disp : BitVec 16) : BitVec 32 := packetOf s.me.path + disp.signExtend 32

/-- Core clocks of a die in ns, rounded up: 1.2 GHz, less 75 MHz for each droop step (R1, R421). -/
def clocksNs (s : State) (core n : Nat) : Nat :=
  let mhz := 1200 - 75 * (vget s.dev.sag (core / 208) ⟨0, 0, 0, 0, 0, 0, 0⟩).now
  (n * 1000 + mhz - 1) / mhz

/-- Words wait as FENCE does: every write of the context has returned its WCT, and canopy time has reached the pending
horizon + 4 ns (R106). -/
def fenceReady (s : State) : Bool :=
  !(s.flight.any fun q => q.ctx == s.me.id && (match q.kind with | .fill => false | _ => true))
    && decide (s.me.horizon + 4 ≤ myTime s)

/-- The packet after the one under issue. -/
def fallThrough (s : State) : BitVec 32 := packetOf s.me.path + 1

end Sys2Proof.Machine
end

