-- ==== Sys2Proof/Machine/Tract.lean ====
section
/-! DEFINITION. Fetch (R204); batches (R123, R140); windows, materialisation and parked tracts (R19 to R22, R350); splits
and pending pieces (R16, R17); paths, divergence and joins (R26 to R28, R234); and the end of a path or a tract (R35). -/

namespace Sys2Proof.Machine

/-! ## Fetch -/

/-- A word of code (R204): read at its home through translation, with the execute right; the parameter window holds no code (R364).
A home on a die in reset makes it wait (R406); a line that cannot be read is an ECC error of no bank's role (R389, log entry 73). -/
def fetchWord (s : State) (va : Nat) : Except XFail (State × Word32) :=
  if va < 4096 then .error ⟨0x0A, 19, 0⟩
  else match translate s s.task.part va .fetch with
    | .error f => .error f
    | .ok (s, x) =>
      if homeDown s x.pa (xlatHome x) then .error ⟨0, 0, 0⟩
      else if lineBad s x.pa then .error ⟨0x21, 5, 0⟩
      else
        let q := readAtHome (noteMiss s s.task.part (some va) x.pa) s.task.part x.pa (xlatHome x) 4
        .ok (q.1, BitVec.ofNat 32 (ofBytesLE q.2.1))

/-- The three words of a packet (R204). -/
def fetchPacket (s : State) (packet : BitVec 32) : Except XFail (State × Word32 × Word32 × Word32) :=
  let at_ (k : Nat) : Nat := slotAddr (codeBase s) packet k
  match fetchWord s (at_ 0) with
  | .error f => .error f
  | .ok (s, w0) =>
    match fetchWord s (at_ 1) with
    | .error f => .error f
    | .ok (s, w1) =>
      match fetchWord s (at_ 2) with
      | .error f => .error f
      | .ok (s, w2) => .ok (s, w0, w1, w2)

/-- A word of a packet by slot. -/
def packetWord (w : Word32 × Word32 × Word32) (k : Nat) : Word32 :=
  if k = 0 then w.1 else if k = 1 then w.2.1 else w.2.2

/-- The packet begins with a JOIN (R232). DESIGN CHOICE (log entry 93): one that cannot be fetched now does not. -/
def packetJoins (s : State) (packet : BitVec 32) : Bool :=
  match fetchWord s (slotAddr (codeBase s) packet 0) with
  | .ok (_, w) => (match decodeWord w with | .ok .join => true | _ => false)
  | .error _ => false

/-! ## Batches (R123, R140) -/

/-- An operation belongs to the latest batch of a number. -/
def inBatch (b : Batches) (n : Nat) (o : OpState) : Bool :=
  match o.batch with
  | none => false
  | some k => (vget b.ids n []).contains k

/-- A batch number's latest batch has an operation still to end. -/
def batchPending (t : Task) (b : Batches) (n : Nat) : Bool := t.ops.any fun o => inBatch b n o && !o.done

/-- A batch number's latest batch has failed and its trap has not been taken (R303). -/
def batchFailed (t : Task) (b : Batches) (n : Nat) : Bool :=
  !b.taken.getLsbD n && t.ops.any fun o => inBatch b n o && o.done && o.fault.isSome

/-- The batches pending (R123). -/
def pendingCount (t : Task) (b : Batches) : Nat := ((List.range 16).filter (batchPending t b)).length

/-- The batch counter as special registers 7 and 8 read it (R123, R140). -/
def batchWord (t : Task) (b : Batches) : Word64 :=
  BitVec.ofNat 64 (b.next.toNat
    + atBit ((List.range 16).foldl (fun acc n => acc + bitNat (batchPending t b n) * 2 ^ n) 0) 8
    + atBit ((List.range 16).foldl (fun acc n => acc + bitNat (batchFailed t b n) * 2 ^ n) 0) 24)

/-- The counter after one more batch with the given number. -/
def batchNext (b : Batches) (id : Nat) : Batches :=
  { next := b.next + 1
    ids := vset b.ids b.next.toNat [id]
    taken := b.taken &&& ~~~(1#16 <<< b.next.toNat) }

/-- The unsealed operations of a family of a context put into a batch. -/
def sealOps (t : Task) (ctx : Nat) (matrix : Bool) (id : Nat) : Task :=
  { t with
    ops := updateAll (fun o => o.ctx == ctx && o.matrix == matrix && o.batch.isNone) (fun o => { o with batch := some id })
      t.ops }

/-- The context's unsealed copies, or matrix operations, put into the next batch, empty or not (R302, R326). -/
def sealNow (s : State) (matrix : Bool) : State :=
  let b := if matrix then s.me.matBat else s.me.copyBat
  let id := s.nextOp
  let me := if matrix then { s.me with matBat := batchNext b id } else { s.me with copyBat := batchNext b id }
  { s with nextOp := id + 1, me := me, task := sealOps s.task s.me.id matrix id }

/-- CSEAL and MSEAL: the word stalls while 8 batches of the family are pending (R123, R140). -/
def sealBatch (s : State) (matrix : Bool) : Res State :=
  if 8 ≤ pendingCount s.task (if matrix then s.me.matBat else s.me.copyBat) then .stall .batch else .ok (sealNow s matrix)

/-- The seal of a split or a materialisation: it stalls while it would make a ninth pending batch (R16, R350). -/
def sealTract (s : State) : Res State :=
  if decide (8 ≤ pendingCount s.task s.me.copyBat)
      && (s.task.ops.any fun o => o.ctx == s.me.id && !o.matrix && o.batch.isNone && !o.done) then .stall .batch
  else .ok (sealNow s false)

/-! ## Windows -/

/-- The end of the window piece that starts at item `x` of a row (R19, R20): the window's end, the box's end or the next
seam, whichever comes first. -/
def pieceEnd (b : Box) (seams : List Nat) (x : Nat) : Nat :=
  seams.foldl (fun e m => if x < m ∧ m < e then m else e) (earlier b.x1 (x / 64 * 64 + 64))

/-- The cursor (z, y, x) after a window piece; none after the last. -/
def nextCursor (b : Box) (seams : List Nat) (c : Nat × Nat × Nat) : Option (Nat × Nat × Nat) :=
  let e := pieceEnd b seams c.2.2
  if e < b.x1 then some (c.1, c.2.1, e)
  else if c.2.1 + 1 < b.y1 then some (c.1, c.2.1 + 1, b.x0)
  else if c.1 + 1 < b.z1 then some (c.1 + 1, b.y0, b.x0)
  else none

/-- The window pieces from a cursor on, at most `fuel` of them. -/
def piecesFrom (b : Box) (seams : List Nat) : Nat → Nat × Nat × Nat → List (Nat × Nat × Nat)
  | 0, _ => []
  | fuel + 1, c => c :: (match nextCursor b seams c with | none => [] | some d => piecesFrom b seams fuel d)

/-- The first cursor of a box. -/
def firstCursor (b : Box) : Nat × Nat × Nat := (b.z0, b.y0, b.x0)

/-! ## Stands (R22) -/

/-- A form folded into a row (R22). -/
def foldForm (f : AReg) (y z : Nat) : AReg :=
  { f with base := formAt ⟨f.base, 0, f.sy, f.sz, f.tag⟩ 0 y z, sy := 0, sz := 0 }

/-- The v registers of a new stand: value forms expanded over all 64 lanes, the others 0 with tag 15 (R22). -/
def expandForms (forms : List VForm) (x0 : Nat) : Vector VReg 64 :=
  forms.foldl (fun v f => vset v f.reg ⟨Vector.ofFn fun l : Fin 64 =>
    f.base + f.slope * BitVec.ofNat 32 (x0 + l.val), f.tag⟩) (Vector.replicate 64 VReg.fresh)

/-- The registers of a stand made from a tract (R22). -/
def standRegs (r : Regs) (x0 y z : Nat) : Regs :=
  { r with
    a := r.a.map fun f => foldForm f y z
    v := expandForms r.vforms x0
    vforms := []
    p := Vector.replicate 8 0
    w := Regs.reset.w
    m := Regs.reset.m
    slots := Regs.reset.slots
    lfsr := seedLanes r.mode
    errV := []
    errP := [] }

/-- A tract's path in a stand with a mask; the registers that a transfer to be issued again reads become the stand's (R22, R218). -/
def standPath (p : Path) (x0 y z : Nat) (mask : Word64) : Path :=
  { p with mask := mask, first := p.first.map fun r => standRegs r x0 y z }

/-- A stand over a window piece of a tract (R19, R22): it begins at the materialising word. What the tract's later loads wait for, they
wait for in the stand (R33). -/
def makeStand (c : Context) (b : Nat × Nat × Nat) (id slot : Nat) (file : Nat × Nat) : Context :=
  let x0 := b.2.2 / 64 * 64
  let e := pieceEnd c.box c.seams b.2.2
  let mask := maskWhere fun l => decide (b.2.2 ≤ x0 + l) && decide (x0 + l < e)
  { c with
    id := id, kind := .stand, slotNo := slot, file := some file
    box := ⟨x0, x0 + 64, b.2.1, b.2.1 + 1, b.1, b.1 + 1⟩
    cursor := (0, 0, 0), seams := [], parkedAt := 0, sealedOnce := false
    regs := standRegs c.regs x0 b.2.1 b.1
    path := standPath { c.path with id := 0, wait := .none, snap := none } x0 b.2.1 b.1 mask
    paths := [], recs := [], nextPath := 1, nextRec := 0
    frame := c.frame.map fun f => { f with path := standPath f.path x0 b.2.1 b.1 mask }
    urgent := false }

/-- Stands made from a list of window pieces, with slots and files to take, as contexts behind the others. -/
def addStands (c : Context) : List (Nat × Nat × Nat) → List Nat → List (Nat × Nat) → State → State
  | b :: bs, slot :: slots, file :: files, s =>
    addStands c bs slots files
      { s with ctxs := s.ctxs ++ [makeStand c b s.nextCtx slot file], nextCtx := s.nextCtx + 1 }
  | _, _, _, s => s

/-- The cursor after a number of window pieces. -/
def skipPieces (b : Box) (seams : List Nat) : Nat → Nat × Nat × Nat → Nat × Nat × Nat
  | 0, c => c
  | n + 1, c => match nextCursor b seams c with | none => c | some d => skipPieces b seams n d

/-- Materialisation of the tract under issue (R20, R350): its copies are sealed once; as many stands as slots and files
allow are made in order, each for one free slot and one free file; when every window has one, the tract's slot becomes the first
stand, and else the tract parks at the word, whole where no slot or no file is free (R21). The word then issues in each stand. -/
def materialise (s : State) : Res State :=
  let go (s : State) : State :=
    let c := { s.me with sealedOnce := true, cursor := firstCursor s.me.box }
    let files := freeFiles s s.task
    let slots := freeSlots s s.task.core
    let pieces := piecesFrom c.box c.seams 49 c.cursor
    let n := pieces.length
    if n ≤ files.length ∧ n ≤ slots.length then
      match pieces, files with
      | b :: bs, f :: fs =>
        addStands { c with frame := c.frame } bs slots fs { s with me := makeStand c b c.id c.slotNo f }
      | _, _ => s
    else
      let k := earlier files.length slots.length
      addStands c pieces slots files { s with
        me := { c with kind := .parked, parkedAt := myTime s, cursor := skipPieces c.box c.seams k c.cursor
                       path := { c.path with wait := .stall .park (myTime s) } } }
  if s.me.sealedOnce then .ok (go s) else (sealTract s).bind fun s => .ok (go s)

/-- The window at a parked tract's cursor is its last (R21). -/
def lastWindow (c : Context) : Bool := (nextCursor c.box c.seams c.cursor).isNone

/-- A parked tract's next window made into a stand, with a free file and a free slot (R21). The stand of the last window takes the
tract's own slot, so that a core whose every slot holds a parked tract goes on (R20, R40, log entry 90). -/
def serveParked (s : State) (id : Nat) : State :=
  let s := focus s id
  let c := s.me
  match (freeFiles s s.task).head?, nextCursor c.box c.seams c.cursor, (freeSlots s s.task.core).head? with
  | some file, none, _ => { s with me := makeStand c c.cursor c.id c.slotNo file }
  | some file, some d, some slot => { s with
      ctxs := s.ctxs ++ [makeStand c c.cursor s.nextCtx slot file], nextCtx := s.nextCtx + 1
      me := { c with cursor := d } }
  | _, _, _ => s

/-! ## Splits (R16, R17) -/

/-- The contexts on a context's pending list. -/
def pendingOf (s : State) (id : Nat) : List Context := (liveCtxs s).filter fun c => c.kind == .pending && c.holder == id

/-- The order of pieces: lowest item indices first (R17). -/
def pieceKey (c : Context) : Nat := c.box.z0 * 2 ^ 64 + c.box.y0 * 2 ^ 32 + c.box.x0

/-- A split piece of the tract under issue: its box, its packet, the seams inside it (R16, R32). -/
def splitPiece (c : Context) (box : Box) (pc : BitVec 32) : Context :=
  { c with
    box := box
    seams := c.seams.filter fun m => decide (box.x0 < m) && decide (m < box.x1)
    path := { c.path with pc := pc, slot := 0 } }

/-- Pieces that do not keep the tract's slot take free slots, or go onto its pending list (R17). -/
def addPieces (owner : Nat) : List Context → List Nat → State → State
  | [], _, s => s
  | p :: ps, slot :: slots, s =>
    addPieces owner ps slots { s with
      ctxs := s.ctxs ++ [{ p with id := s.nextCtx, slotNo := slot, path := p.path.settled }], nextCtx := s.nextCtx + 1 }
  | p :: ps, [], s =>
    addPieces owner ps [] { s with
      ctxs := s.ctxs ++ [{ p with id := s.nextCtx, kind := .pending, holder := owner, path := p.path.settled }]
      nextCtx := s.nextCtx + 1 }

/-- A tract split into pieces, lowest first (R16): the copies are sealed, the first piece keeps the slot, the others
follow R17. -/
def splitTract (s : State) (pieces : List (Box × BitVec 32)) : Res State :=
  (sealTract s).bind fun s =>
    match pieces.map fun p => splitPiece s.me p.1 p.2 with
    | [] => .ok s
    | first :: rest => .ok (addPieces s.me.id rest (freeSlots s s.task.core) { s with me := first })

/-- A split into `n` pieces would push the pending list past 8 entries (R17). -/
def splitOverflows (s : State) (n : Nat) : Bool :=
  decide (8 < (pendingOf s s.me.id).length + (n - 1 - (freeSlots s s.task.core).length))

/-! ## Paths (R26 to R28) -/

/-- Every path of a context. -/
def pathsOf (c : Context) : List Path := c.path :: c.paths

/-- The records that hold a path, innermost first. -/
def recordsOf (c : Context) (id : Nat) : List Record := (c.recs.filter fun r => r.members.contains id).reverse

/-- A divergence serialises when the stand holds 8 paths, or within serialised execution (R28). -/
def serialises (c : Context) : Bool :=
  decide (8 ≤ (pathsOf c).length) || (recordsOf c c.path.id).any fun r => r.serial

/-- The current path splits off the lanes of `far` (R26): in a new path that stands as `far` says, with a record when a
join is named; or, serialised, in a record that runs them later (R28). -/
def diverge (c : Context) (stay : Path) (far : Path) (join : Option (BitVec 32)) : Context :=
  let outer := (recordsOf c c.path.id).map fun r => r.id
  if serialises c then
    { c with
      path := stay
      recs := c.recs ++ [⟨c.nextRec, join, true, [stay.id], outer, some far, 0, none⟩]
      nextRec := c.nextRec + 1 }
  else
    let far := { far with id := c.nextPath, age := 0 }
    let recs := c.recs.map fun r => if r.members.contains stay.id then { r with members := r.members ++ [far.id] } else r
    { c with
      path := stay
      paths := c.paths ++ [far]
      nextPath := c.nextPath + 1
      recs := if join.isSome then recs ++ [⟨c.nextRec, join, false, [stay.id, far.id], outer, none, 0, none⟩] else recs
      nextRec := if join.isSome then c.nextRec + 1 else c.nextRec }

/-- A divergence needs room on the reconvergence stack when it pushes a record (R28). -/
def divergeFits (c : Context) (join : Option (BitVec 32)) : Bool :=
  decide (c.recs.length < 32) || !(join.isSome || serialises c)

/-- Paths and records during settling: the live paths, the records, and the next path number. -/
structure Web where
  paths : List Path
  recs : List Record
  nextPath : Nat
  deriving DecidableEq, Repr

/-- A path waits at a join. -/
def waitsAtJoin (p : Path) : Bool := match p.wait with | .join _ => true | _ => false

/-- A path waits at the join of a record. -/
def waitsFor (p : Path) (rid : Nat) : Bool := p.wait == .join rid

/-- The members of a record among live paths. -/
def liveMembers (w : Web) (r : Record) : List Path := w.paths.filter fun p => r.members.contains p.id

/-- A record is complete: every live descendant has arrived; at this join, or for one that names none at an enclosing
join (R27, R28). -/
def recordComplete (w : Web) (r : Record) : Bool :=
  (liveMembers w r).all fun p => if r.join.isSome then waitsFor p r.id else waitsAtJoin p

/-- The union of the masks of paths. -/
def unionMask (l : List Path) : Word64 := l.foldl (fun m p => m ||| p.mask) 0

/-- The lanes that wait at an enclosing join without a path (R28). -/
def parkMembers (w : Web) (l : List Path) : List Record :=
  w.recs.map fun r => { r with parked := r.parked ||| unionMask (l.filter fun p => waitsFor p r.id) }

/-- A path set going in place of a record, with the enclosing records as its own. DESIGN CHOICE (log entry 71): it counts as made now,
after every path there is, in R29's order. -/
def spawn (w : Web) (p : Path) (outer : List Nat) : Web :=
  { paths := w.paths ++ [{ p with id := w.nextPath, wait := .none, age := 0 }]
    recs := w.recs.map fun r => if outer.contains r.id then { r with members := r.members ++ [w.nextPath] } else r
    nextPath := w.nextPath + 1 }

/-- One complete record resolved (R27, R28): the lanes held for later start; or the lanes that wait merge and go on after
the JOIN. -/
def resolve (w : Web) (r : Record) : Web :=
  let here := liveMembers w r
  let rest := w.paths.filter fun p => !r.members.contains p.id
  match r.others with
  | some far =>
    let w := { w with recs := parkMembers w here, paths := rest }
    if r.join.isSome then
      let w := { w with recs := updateFirst (fun q => q.id == r.id) (fun q => { q with others := none, members := [] }) w.recs }
      spawn w far (r.id :: r.outer)
    else spawn { w with recs := w.recs.filter fun q => q.id != r.id } far r.outer
  | none =>
    let recs := w.recs.filter fun q => q.id != r.id
    if r.join.isSome then
      let mask := unionMask here ||| r.parked
      if mask = 0 then { w with recs := recs, paths := rest }
      else
        match r.join with
        | some k =>
          let p : Path := { (here.headD (Path.start 0 k 0)) with
            pc := k, slot := 1, mask := mask, ret := r.ret.getD [], wait := .none, run := none }
          spawn { w with recs := recs, paths := rest } p r.outer
        | none => w
    else { w with recs := recs }

/-- Complete records resolved, the innermost first, until none is left. -/
def resolveAll : Nat → Web → Web
  | 0, w => w
  | fuel + 1, w =>
    match w.recs.reverse.find? (recordComplete w) with
    | none => w
    | some r => resolveAll fuel (resolve w r)

/-- A context's paths after an arrival or an exit: `none` when no path is left. The first path listed is current. -/
def settlePaths (c : Context) (paths : List Path) : Option Context :=
  let w := resolveAll 64 ⟨paths, c.recs, c.nextPath⟩
  match w.paths with
  | [] => none
  | p :: ps =>
    some { c with
      path := (w.paths.find? fun q => q.id == c.path.id).getD p
      paths := match w.paths.find? fun q => q.id == c.path.id with
        | none => ps
        | some _ => w.paths.filter fun q => q.id != c.path.id
      recs := w.recs, nextPath := w.nextPath }

/-! ## The end of a context -/

/-- The number of items of a box. -/
def boxItems (b : Box) : Nat := (b.x1 - b.x0) * (b.y1 - b.y0) * (b.z1 - b.z0)

/-- Items counted as retired (R35, R399). -/
def countRetired (s : State) (n : Nat) : State := { s with task := { s.task with retired := s.task.retired + n } }

/-- A context that has ended: its unsealed operations are sealed (R124, R141), its waiters leave, its slot and file are
free; the lowest piece of its pending list takes the slot, with the rest of the list (R17); the task retires when no
context is left (R35). -/
def endContext (s : State) : State :=
  let c := s.me
  let id := s.nextOp
  let task := sealOps (sealOps s.task c.id false id) c.id true id
  let s := { s with nextOp := id + 1, task := task, me := Context.idle }
  match leastBy pieceKey (s.ctxs.filter fun p => p.kind == .pending && p.holder == c.id) with
  | some p =>
    { s with ctxs := s.ctxs.map fun q =>
        if q.id = p.id then { q with kind := .tract, slotNo := c.slotNo }
        else if q.kind = .pending ∧ q.holder = c.id then { q with holder := p.id } else q }
  | none => retireTask s task.tid

/-- The current path's lanes retire and the path is gone (R35, R239). -/
def endPath (s : State) : State :=
  let s := countRetired s (countLanes (p0 s))
  match settlePaths s.me s.me.paths with
  | some c => { s with me := c }
  | none => endContext s

/-- The executing tract retires whole (R35). -/
def endTract (s : State) : State := endContext (countRetired s (boxItems s.me.box))

/-! ## Conditions on a tract's form (R15, R16) -/

/-- A BRC condition on a value (R216, R231). -/
def brcHolds (cond : Nat) (x : Word64) : Bool :=
  match cond with
  | 0 => x == 0
  | 1 => x != 0
  | 2 => x.slt 0
  | 3 => x.sle 0
  | 4 => (0 : Word64).slt x
  | 5 => (0 : Word64).sle x
  | 6 => x.getLsbD 0
  | _ => !x.getLsbD 0

/-- The dimension in which alone a form varies. -/
def oneDim (f : AReg) : Option Nat :=
  if f.sx != 0 && f.sy == 0 && f.sz == 0 then some 0
  else if f.sx == 0 && f.sy != 0 && f.sz == 0 then some 1
  else if f.sx == 0 && f.sy == 0 && f.sz != 0 then some 2
  else none

/-- A form's stride in a dimension. -/
def strideIn (f : AReg) (k : Nat) : Int := if k = 0 then f.sx.toInt else if k = 1 then f.sy.toInt else f.sz.toInt

/-- A box's extent in a dimension. -/
def extentIn (b : Box) (k : Nat) : Nat × Nat := if k = 0 then (b.x0, b.x1) else if k = 1 then (b.y0, b.y1) else (b.z0, b.z1)

/-- A box with another extent in a dimension. -/
def boxWith (b : Box) (k lo hi : Nat) : Box :=
  if k = 0 then { b with x0 := lo, x1 := hi } else if k = 1 then { b with y0 := lo, y1 := hi } else { b with z0 := lo, z1 := hi }

/-- A number held in a range. -/
def holdIn (lo hi : Nat) (x : Int) : Nat := if x < Int.ofNat lo then lo else if Int.ofNat hi < x then hi else x.toNat

/-- The runs of indices in [lo, hi) over which base + s·index is below, at and above zero in the stride's direction, with
whether the condition holds there (R15, R16). -/
def signRuns (cond : Nat) (base s : Int) (lo hi : Nat) : List (Nat × Nat × Bool) :=
  let up := decide (0 < s)
  let b := if up then base else -base
  let t := if up then s else -s
  let first := holdIn lo hi (-(b / t))
  let nought := if b % t = 0 ∧ Int.ofNat lo ≤ -(b / t) ∧ -(b / t) < Int.ofNat hi then 1 else 0
  let holds (v : Int) : Bool := brcHolds cond (BitVec.ofInt 64 (if up then v else -v))
  [(lo, first, holds (-1)), (first, first + nought, holds 0), (first + nought, hi, holds 1)]

/-- Runs without the empty ones, neighbours that agree joined. -/
def joinRuns : List (Nat × Nat × Bool) → List (Nat × Nat × Bool)
  | [] => []
  | (lo, hi, t) :: rest =>
    if hi ≤ lo then joinRuns rest
    else match joinRuns rest with
      | (l, h, u) :: more => if t = u then (lo, h, t) :: more else (lo, hi, t) :: (l, h, u) :: more
      | [] => [(lo, hi, t)]

/-- The runs into which a BRC cuts a tract; none where it materialises (R15). -/
def splitRuns (b : Box) (cond : Nat) (f : AReg) : Option (Nat × List (Nat × Nat × Bool)) :=
  if 6 ≤ cond then none
  else match oneDim f with
    | none => none
    | some k =>
      let lo := (extentIn b k).1
      let hi := (extentIn b k).2
      let at_ (i : Nat) : Int := f.base.toInt + strideIn f k * Int.ofNat i
      if fitsSigned 64 (at_ lo) && fitsSigned 64 (at_ (hi - 1)) then
        some (k, joinRuns (signRuns cond f.base.toInt (strideIn f k) lo hi))
      else none

/-- A BRC that sends a tract to its stands (R15, R17). -/
def brcStands (s : State) (cond : Nat) (f : AReg) : Bool :=
  !f.isUniform && match splitRuns s.me.box cond f with
    | none => true
    | some (_, runs) => runs.isEmpty || (1 < runs.length && splitOverflows s runs.length)

/-- A word sends its tract to stands (R14, R15, R206): LREAD and LWRITE do but in a tract's handler (R256). -/
def wordStands (s : State) (i : Instr) (l : Lead) : Bool :=
  match i with
  | .brc cond reg _ => brcStands s cond.toNat (aReg (readRegs s) reg.toNat)
  | .lread _ _ _ | .lwrite _ _ _ => s.me.frame.isNone
  | _ => needsStand i l (readRegs s)

/-- The word under issue materialises its tract first. -/
def materialises (s : State) (i : Instr) : Bool := !isStand s && wordStands s i s.me.path.lead

/-! ## Running a word -/

/-- The checks of R218 on one word that need no result: encoding, privilege, tags, uniform operands. In a tract that will
materialise for the word, all but the encoding are checked in the stands (R206). -/
def issueTrap (i : Instr) (s : State) : Option Trap :=
  let l := s.me.path.lead
  let r := readRegs s
  if !encodingOk i l s.task.fsize s.task.views r.xc then some (trapHere s 0x01 0)
  else if materialises s i then none
  else if privileged i && s.me.frame.isNone then some (trapHere s 0x0A 17)
  else if !tagsOk i l s.me r then some (tagTrap i s)
  else if !uniformOk i l r then some (trapHere s 0x04 0)
  else none

/-- A register that a word reads no longer agrees with its check (R69, R70): trap 0x20, or 0x21 where ECC finds it. -/
def registerError (i : Instr) (s : State) : Option Trap :=
  let l := s.me.path.lead
  let r := readRegs s
  match (vReads i l).findSome? fun u => r.errV.find? fun e => e.1 == u.1 && (u.2 || (p0 s).getLsbD e.2.1) with
  | some e => some { trapHere s (if e.2.2 then 0x21 else 0x20) (roleCode .reg) with lane := e.2.1 }
  | none =>
    if (aReads i l).any (fun n => r.errA.contains n) || (pReads i l).any (fun n => r.errP.contains n) then
      some (trapHere s 0x20 (roleCode .reg))
    else none

/-- The words whose write-back residue is predicted: IADD, ISUB and those that the address adders serve (R69). -/
def predicted : Instr → Bool
  | .iadd _ _ _ _ | .isub _ _ _ _ | .xsum _ _ _ _ _ | .sumrd _ _ _ _ _ | .ldg _ _ _ _ _ | .ldgF _ _ _ _ _ | .stg _ _ _ _ _
  | .ldk _ _ _ _ | .pref _ _ _ _ | .ldp _ _ _ _ _ | .stp _ _ _ _ _ | .ald _ _ _ | .atomg _ _ _ _ | .atomp _ _ _ _
  | .atomr _ _ _ _ => true
  | _ => false

/-- The number of the pipe that executes a word (R396). -/
def pipeNumber (i : Instr) : Nat :=
  match pipeOf i with | .v => 1 | .l => 2 | .m => 3 | .g => 4 | .s => 5 | _ => 0

/-- A write-back that has missed its prediction once (R397, R398): the event counts, with a record of kind 4, and the word issues again. -/
def missOnce (i : Instr) (s : State) : State :=
  let s := { s with me := { s.me with badWrites := 0 }, dev := { s.dev with softErrors := s.dev.softErrors + 1 } }
  faultRecord s s.task (trapHere s 0x20 (roleCode .reg)) ⟨4, slotOf s.me.path, wordAddr s, false, false, false, 127, pipeNumber i⟩

/-- What an error of the hardware makes of a word before it has an effect: a register's is its trap, a first write-back that misses its
prediction issues the word again, and a second one is a trap (R69, R398). -/
def unitError (i : Instr) (s : State) : Option State :=
  match registerError i s with
  | some k => some (wordTrap s k)
  | none =>
    if s.me.badWrites = 0 ∨ predicted i = false then none
    else if s.me.badWrites = 1 then some (missOnce i s)
    else some (wordTrap s (trapHere s 0x20 (roleCode .reg)))

/-- The context under issue materialises at its word and the word issues in its stands (R14). -/
def toStands (s : State) : State :=
  match materialise s with
  | .ok t => t
  | .trap k => wordTrap s k
  | .stall w => wordStall s w

/-- A word with the issue checks of R218, a materialisation where the word needs lanes (R14), an error of the hardware (R69), and else
what the word does. -/
def runChecked (i : Instr) (s : State) (go : State → State) : Host.Outcome State Fault Refusal :=
  match issueTrap i s with
  | some k => .next (wordTrap s k)
  | none =>
    if materialises s i then .next (toStands s)
    else match unitError i s with | some t => .next t | none => .next (go s)

/-- A word whose effect comes to a new state, a trap or a stall. -/
def runWord (i : Instr) (s : State) (body : State → Res State) : Host.Outcome State Fault Refusal :=
  runChecked i s fun s => wordEnd s (body s)

/-- A word whose effect moves, ends or splits the path or the context itself. -/
def runFlow (i : Instr) (s : State) (body : State → State) : Host.Outcome State Fault Refusal := runChecked i s body

end Sys2Proof.Machine
end

