-- ==== Sys2Proof/Machine/Access.lean ====
section
/-! DEFINITION. Memory accesses of words: addresses per lane (R98), the checks of R287, the parameter window (R364), loads
through CACHE (R290), stores on their way and at their home (R105, R291), version lines (R107, R110), atomics (R297), and
the pad with its full/empty bits (R45, R46, R55). -/

namespace Sys2Proof.Machine

/-! ## The pad -/

/-- Bytes [off, off + n) lie in the task's pad (R45). -/
def padIn (t : Task) (off n : Nat) : Bool :=
  decide (off < 0x18_0000) && decide (off + n ≤ 16384 * t.padSlots.length) && decide (off + n ≤ 0x18_0000)

/-- The lines that bytes [off, off + n) touch. -/
def linesOf (off n : Nat) : List Nat :=
  if n = 0 then [] else (List.range ((off + n - 1) / 128 - off / 128 + 1)).map fun k => off / 128 + k

/-- The empty lines among those an access touches, with its offset and lane (R55). -/
def emptyIn (t : Task) (off n lane : Nat) : List (Nat × Nat × Nat) :=
  ((linesOf off n).filter fun k => t.empty.contains k).map fun k => (k, off, lane)

/-- An access of the pad waits while a line it touches is empty (R55). -/
def waitFull (l : List (Nat × Nat × Nat)) : Res Unit := if l.isEmpty then .ok () else .stall (.emptyLine l)

/-- Bytes of the pad. -/
def padRead (t : Task) (off n : Nat) : List Byte := t.pad.getBytes off n

/-- Lines set full (R55). -/
def setFull (t : Task) (lines : List Nat) : Task := { t with empty := t.empty.filter fun k => !lines.contains k }

/-- A store into the pad: the bytes, and every line it writes becomes full (R55). Bytes written hold no error any more (R70). -/
def padWrite (t : Task) (off : Nat) (bytes : List Byte) : Task :=
  setFull { t with
    pad := t.pad.setBytes off bytes
    badPad := t.badPad.filter fun b => !(decide (off ≤ b) && decide (b < off + bytes.length)) } (linesOf off bytes.length)

/-- Bytes [off, off + n) of the pad, through a rotation code, touch 64 bits that hold an uncorrectable error (R70). -/
def padBad (t : Task) (code off n : Nat) : Bool :=
  t.badPad.any fun b => (List.range n).any fun k => rotateOff code (off + k) / 8 == b / 8

/-- A VTEST or FBW of a task has taken effect in some of its lanes and not in all (R341). -/
def lanesOpen (s : State) (t : Task) : Bool := (ctxsOf s t.tid).any fun c => (pathsOf c).any fun p => p.gone != 0

/-- Trap 0x21 at the first lane that reads such bytes. -/
def eccTrap (t : Task) (lanes : List Nat) (off : Nat → Nat) (n : Nat) : Option Trap :=
  (lanes.find? fun l => padBad t 0 (off l) n).map fun l => ⟨0x21, BitVec.ofNat 8 (roleCode .pad), 0, BitVec.ofNat 64 (off l), l⟩

/-- A pad number of `n` bytes. -/
def padNat (t : Task) (off n : Nat) : Nat := ofBytesLE (padRead t off n)

/-- No trap, or the first. -/
def Res.check (t : Option Trap) : Res Unit :=
  match t with
  | none => .ok ()
  | some k => .trap k

/-! ## What a pad access waits for (R52, R55, R139) -/

/-- A pad offset lies in a slot whose lines a clearing is moving (R52). -/
def padMoving (s : State) (off : Nat) : Bool :=
  s.core.clearing.any fun c => c.task == s.task.tid && c.slots.contains (off / 16384)

/-- BASE of a pad operand (R135). -/
def pairBase (first : Word64) : Nat := bitsOf first.toNat 0 21
/-- RPITCH. -/
def pairPitch (first : Word64) : Nat := bitsOf first.toNat 21 11
/-- TPITCH. -/
def pairStep (second : Word64) : Nat := bitsOf second.toNat 0 16
/-- ROT. -/
def pairRot (second : Word64) : Nat := bitsOf second.toNat 16 4

/-- The offset of vector `i` of a pad operand at a step (R136). -/
def vectorOff (first second : Word64) (i step : Nat) : Nat :=
  pairBase first + 16 * (i * pairPitch first + step * pairStep second)

/-- The pad ranges an operand of a matrix step reads. -/
def sourceReads (step : Nat) : MatSrc → List (Nat × Nat)
  | .regs _ => []
  | .pad first second => lanes64.map fun i => (vectorOff first second i step, 32)

/-- The pad ranges a queued matrix operation reads (R136, R137, R324). -/
def matReads (o : MatOp) : List (Nat × Nat) :=
  match o.work with
  | .step _ k a b rowScale col =>
      sourceReads k a ++ sourceReads k b ++ (if rowScale.isSome then [(col + 512 * k, 512)] else [])
  | .load (.pad first second) => (lanesOf o.rows).map fun r => (vectorOff first second r 0, 256)
  | _ => []

/-- An unfinished matrix operation that satisfies a test still reads a line (R139). -/
def matHolds (s : State) (p : MatOp → Bool) (line : Nat) : Bool :=
  s.core.matq.any fun o => p o && (matReads o).any fun r => (linesOf r.1 r.2).contains line

/-! ## Waiters that are served first (R56) -/

/-- The remote atomic a path waits for. -/
def remoteOf (s : State) (ctx path : Nat) : Option Remote := s.remote.find? fun q => q.ctx == ctx && q.path == path

/-- A lane of a remote atomic at its peer: the core, the offset, the operand, the compare value. -/
structure RemoteLane where
  lane : Nat
  addr : Nat
  core : Nat
  off : Nat
  y : Nat
  c : Nat
  deriving DecidableEq, Repr

/-- The lanes of a remote atomic of an issuer on a core. -/
def remoteLanes (core : Nat) (q : Remote) : List RemoteLane :=
  q.lanes.map fun l =>
    ⟨l.1, l.2.1.toNat, peerCore core (bitsOf l.2.1.toNat 21 3), bitsOf l.2.1.toNat 0 21, l.2.2.1.toNat, l.2.2.2.toNat⟩

/-- The lines that a remote atomic finds empty. -/
def remoteEmpty (s : State) (serial n : Nat) (ls : List RemoteLane) : List (Nat × Nat × Nat) :=
  ls.flatMap fun l => match peerTask s l.core serial with | none => [] | some t => emptyIn t l.off n l.lane

/-- A path waits on empty lines of its task's pad: the lines. -/
def linesAwaited (p : Path) : List Nat := match p.wait with | .stall (.emptyLine l) _ => l.map fun e => e.1 | _ => []

/-- A path of a task waits on a line, in a live context or a spilled one (R41). -/
def pathServed (s : State) (t : Task) (line : Nat) : Bool :=
  (everyCtxOf s t.tid).any fun c => (pathsOf c).any fun p => (remoteOf s c.id p.id).isNone && (linesAwaited p).contains line

/-- A matrix operation or a copy of a task does. -/
def engineServed (s : State) (t : Task) (line : Nat) : Bool :=
  let c := getCore s t.core
  c.matq.any (fun o => o.task == t.tid && o.since.isSome && (matReads o).any fun r => (linesOf r.1 r.2).contains line)
    || c.chans.toList.any fun q => q.queue.any fun k => k.task == t.tid && k.since.isSome && k.needs.any fun e => e.1 == line

/-- The lines of a task's pad that a remote atomic addresses. -/
def remoteLines (s : State) (t : Task) (q : Remote) (core serial : Nat) : List Nat :=
  (remoteLanes core q).flatMap fun l =>
    if (peerTask s l.core serial).any fun u => u.tid == t.tid then linesOf l.off (typeBits q.type / 8) else []

/-- A remote atomic that has found an empty line waits at a task's pad on a line. -/
def remoteServed (s : State) (t : Task) (line : Nat) : Bool :=
  s.remote.any fun q =>
    match anyCtx s q.ctx with
    | none => false
    | some c =>
      let serial := match getTask s c.task with | some u => u.serial | none => 0
      (pathsOf c).any (fun p => p.id == q.path && !(linesAwaited p).isEmpty)
        && (remoteLines s t q (coreOf s c) serial).contains line

/-- A waiter on a line that has become full has not been served yet: whatever would change the line again comes after it (R56). A
waiter on several lines keeps each that has become full until all are (log entry 45). -/
def servedFirst (s : State) (t : Task) (line : Nat) : Bool :=
  !t.empty.contains line && (pathServed s t line || engineServed s t line || remoteServed s t line)

/-- Pad reads of lanes at offsets wait for lines a clearing moves and for empty lines (R52, R55). -/
def padFullWait (s : State) (lanes : List Nat) (off : Nat → Nat) (n : Nat) : Res Unit :=
  if lanes.any fun l => padMoving s (off l) then .stall .clearing
  else waitFull (lanes.flatMap fun l => emptyIn s.task (off l) n l)

/-- Pad reads of lanes wait as they must, and then meet an uncorrectable error (R70). -/
def padReadWait (s : State) (lanes : List Nat) (off : Nat → Nat) (n : Nat) : Res Unit :=
  (padFullWait s lanes off n).bind fun _ => Res.check (eccTrap s.task lanes off n)

/-- Pad writes of lanes wait for lines a clearing moves, for matrix operations of the context that still read them (R52, R139), and for
the waiters that are served first, unless the word is one of them (R56). -/
def padWriteWait (s : State) (lanes : List Nat) (off : Nat → Nat) (n : Nat) : Res Unit :=
  if lanes.any fun l => padMoving s (off l) then .stall .clearing
  else if lanes.any fun l => (linesOf (off l) n).any (matHolds s fun o => o.task == s.task.tid && o.ctx == s.me.id) then
    .stall .matrixRead
  else if lanes.any fun l => (linesOf (off l) n).any fun k => !(linesAwaited s.me.path).contains k && servedFirst s s.task k then
    .stall .served
  else .ok ()

/-! ## Addresses (R98) -/

/-- The address of an M word at a lane: base, index term, displacement in access units, modulo 2^64. -/
def memAddr (c : Context) (r : Regs) (base : BitVec 5) (index : BitVec 5) (scale : BitVec 2) (disp : BitVec 6) (size : Nat)
    (lane : Nat) : Nat :=
  let b := (formLane c (aReg r base.toNat) lane).toNat
  let i := if index.toNat = 31 then 0 else (vLane r index.toNat lane).toNat * 2 ^ scale.toNat
  wrapInt 64 (Int.ofNat (b + i) + disp.toInt * Int.ofNat size)

/-- Address formation of a global access (R287, step 4). -/
def formTrap (va size lane : Nat) : Option Trap :=
  if 2 ^ 48 ≤ va then some (trapLane 0x09 1 va lane)
  else if va % size ≠ 0 then some (trapLane 0x08 0 va lane)
  else none

/-- Address formation of a pad access (R45, R287). -/
def padTrap (t : Task) (off size lane : Nat) : Option Trap :=
  if off % size ≠ 0 then some (trapLane 0x08 0 off lane)
  else if padIn t off size then none
  else some (trapLane 0x0A 16 off lane)

/-- The first trap among lanes, in order. -/
def firstTrap (f : Nat → Option Trap) (lanes : List Nat) : Option Trap := lanes.findSome? f

/-! ## Translation of lanes (R287, step 5) -/

/-- Consecutive bytes of one access in one line: virtual and physical address, home, the page's reach and COMMIT, length. -/
structure Part where
  va : Nat
  pa : Nat
  home : Nat
  reach : Nat
  versioned : Bool
  len : Nat
  deriving DecidableEq, Repr

/-- An access of one lane, translated. A read in the parameter window has one part per byte (R364). -/
structure Spot where
  lane : Nat
  va : Nat
  parts : List Part
  deriving DecidableEq, Repr

/-- A translated part. -/
def partOf (x : Xlat) (va len : Nat) : Part :=
  ⟨va, x.pa, xlatHome x, entryReach x.entry, entryVersioned x.entry && inDevice x.pa, len⟩

/-- Translation of consecutive bytes, byte by byte, for the parameter window. -/
def windowParts (need : Need) (va lane : Nat) : Nat → Nat → State → Res (State × List Part)
  | _, 0, s => .ok (s, [])
  | at_, n + 1, s =>
    match translate s s.task.part at_ need with
    | .error f => Res.xlat f va lane
    | .ok (s, x) => (windowParts need va lane (at_ + 1) n s).bind fun q => .ok (q.1, partOf x at_ 1 :: q.2)

/-- The access of one lane translated. `window` says whether the word may read the parameter window (R364); `bad` are the
memory types that raise 0x0B. -/
def spotOf (need : Need) (window : Bool) (bad : PaKind → Bool) (va n lane : Nat) (s : State) : Res (State × Spot) :=
  if va < 4096 then
    if window = false ∨ s.task.epblen < va + n then .trap (trapLane 0x0A 19 va lane)
    else (windowParts need va lane (s.task.epb + va) n s).bind fun q => .ok (q.1, ⟨lane, va, q.2⟩)
  else match translate s s.task.part va need with
    | .error f => Res.xlat f va lane
    | .ok (s, x) =>
      match paKind x.pa with
      | some k => if bad k then .trap (trapLane 0x0B 0 va lane) else .ok (s, ⟨lane, va, [partOf x va n]⟩)
      | none => .ok (s, ⟨lane, va, [partOf x va n]⟩)

/-- The accesses of lanes translated, in order; the first that fails traps. -/
def spotsOf (need : Need) (window : Bool) (bad : PaKind → Bool) (n : Nat) :
    List (Nat × Nat) → State → Res (State × List Spot)
  | [], s => .ok (s, [])
  | (lane, va) :: rest, s =>
    (spotOf need window bad va n lane s).bind fun q =>
      (spotsOf need window bad n rest q.1).bind fun u => .ok (u.1, q.2 :: u.2)

/-- No memory type is refused. -/
def anyKind : PaKind → Bool := fun _ => false
/-- MMIO is refused (R112, R294). -/
def noMmio : PaKind → Bool := fun k => k == .mmio
/-- Host memory and MMIO are refused (R284). -/
def noHost : PaKind → Bool := fun k => k == .mmio || k == .host

/-- Addresses of lanes formed and translated: steps 4 and 5 of R287. -/
def access (need : Need) (window : Bool) (bad : PaKind → Bool) (size : Nat) (addr : Nat → Nat) (lanes : List Nat)
    (s : State) : Res (State × List Spot) :=
  (Res.check (firstTrap (fun l => formTrap (addr l) size l) lanes)).bind fun _ =>
    spotsOf need window bad size (lanes.map fun l => (l, addr l)) s

/-! ## CACHE (R104, R105, R183) -/

/-- The task's CACHE line that serves the context's loads now. -/
def cacheHit (s : State) (line : Nat) : Option CacheLine :=
  s.core.cache.find? fun l => l.task == s.task.tid && l.line == line && decide (myTime s < l.expiry)

/-- The task's CACHE copy of a line dropped. -/
def dropCache (s : State) (line : Nat) : State :=
  { s with core := { s.core with cache := s.core.cache.filter fun l => !(l.task == s.task.tid && l.line == line) } }

/-- Lines the CACHE banks of a task hold (R42). -/
def cacheRoom (c : Core) (tid : Nat) : Nat := 128 * (ownBanks c tid .cache).length

/-- A line put into a core's CACHE for a task; its oldest line leaves when its banks are full (log entry 12). -/
def cacheFill (c : Core) (l : CacheLine) : Core :=
  let rest := c.cache.filter fun k => !(k.task == l.task && k.line == l.line)
  let mine := (rest.filter fun k => k.task == l.task).length
  let rest := if cacheRoom c l.task ≤ mine then eraseFirst (fun k => k.task == l.task) rest else rest
  if cacheRoom c l.task = 0 then { c with cache := rest } else { c with cache := rest ++ [l] }

/-- A store's bytes put into the task's own CACHE copy, which keeps its lease (R105) and takes the store's WCT, so that a hit makes the
store known (R183). -/
def cachePatch (c : Core) (tid pa w : Nat) (bytes : List Byte) : Core :=
  { c with cache := c.cache.map fun l =>
      if l.task = tid ∧ l.line = pa / 128 then
        { l with wct := later l.wct w, bytes := l.bytes.take (pa % 128) ++ bytes ++ l.bytes.drop (pa % 128 + bytes.length) }
      else l }

/-- A commit is pending on a line (R108): its home grants no lease. -/
def commitPending (s : State) (line : Nat) : Bool :=
  (liveTasks s).any fun t => t.phase == .committing && t.vlines.any fun c => c.1 / 128 == line

/-! ## Requests on their way to a home (R105, R184) -/

/-- A WCT returned to the context that waits for it, a spilled one among them (R41), and to its task; within a call-out it enters H
(R177). -/
def returnWct (s : State) (ctx tid w : Nat) : State :=
  let note (c : Context) : Context :=
    { c with horizon := later c.horizon w, calloutH := if c.callout then later c.calloutH w else c.calloutH }
  let s := { s with dev := { s.dev with spilled := s.dev.spilled.map fun c => if c.id = ctx then note c else c } }
  mapTask (mapCtx s ctx note) tid fun t => { t with horizon := later t.horizon w }

/-- A cell of 64 bytes at its home, changed by an exact add: the WCT (R95, R284). -/
def addAtHome (s : State) (part pa home : Nat) (v : Addend) : State × Nat :=
  let (s, _, w) := rmwAtHome s part pa home 64 fun b => bytesLE 64 (cellAdd (ofBytesLE b) v)
  (s, w)

/-- A prefetch fill served (R292): the line with its lease and WCT, unless its home grants none. A line that cannot be read comes into no
CACHE, so that its consumer meets the error (R389). -/
def serveFill (s : State) (q : Req) : State :=
  if commitPending s (q.pa / 128) || lineBad s q.pa then s
  else
    let (s, bytes, w) := readAtHome s q.part (q.pa / 128 * 128) q.home 128
    let (s, e) := grantLease s q.pa q.home q.lease
    mapCore s q.core fun c => cacheFill c ⟨q.task, q.pa / 128, e, w, bytes⟩

/-- A request executes at its home, and its WCT returns (R105). -/
def serveReq (s : State) (q : Req) : State :=
  let s := noteMiss s q.part (some q.va) q.pa
  match q.kind with
  | .store bytes =>
    let (s, w) := storeAtHome s q.part q.pa q.home bytes
    returnWct (mapCore s q.core fun c => cachePatch c q.task q.pa w bytes) q.ctx q.task w
  | .exactAdd v =>
    let (s, w) := addAtHome s q.part q.pa q.home v
    let drop (c : Core) : Core := { c with cache := c.cache.filter fun l => !(l.task == q.task && l.line == q.pa / 128) }
    returnWct (mapCore s q.core drop) q.ctx q.task w
  | .fill => serveFill s q

/-- Requests executed in order. -/
def serveAll (s : State) (l : List Req) : State := l.foldl serveReq s

/-- A request writes. -/
def Req.writes (q : Req) : Bool := match q.kind with | .fill => false | _ => true

/-- Two lines whose accesses by one task keep their order: one line, or two of MMIO (R185, R294). -/
def linesOrdered (a b : Nat) : Bool := a == b || (paKind (128 * a) == some .mmio && paKind (128 * b) == some .mmio)

/-- A request is an exact add. -/
def Req.isAdd (q : Req) : Bool := match q.kind with | .exactAdd _ => true | _ => false

/-- The line for which a write on its way has to ask the host first (R419). -/
def Req.held (s : State) (q : Req) : Option Nat :=
  if q.isAdd then atomicHeld s q.pa else if hostHolds s q.pa then some q.pa else none

/-- A request waits for a home that is down (R406). -/
def Req.down (s : State) (q : Req) : Bool := if q.isAdd then atomicDown s q.pa q.home else homeDown s q.pa q.home

/-- What requests of the task wait for before they execute. -/
def reqsWait (s : State) (l : List Req) : Res Unit :=
  match l.findSome? (Req.held s) with
  | some pa => .stall (.hostLine pa)
  | none => Res.wait (!l.any (Req.down s)) .load

/-- A write of a task on its way that executes before a later access of the task to a line: to that line (R185, R294), or one of the
exact adds of a context that has one to it, which keep their order (R187). -/
def goesBefore (s : State) (tid line : Nat) (q : Req) : Bool :=
  let near (r : Req) : Bool := r.task == tid && r.writes && linesOrdered (r.pa / 128) line
  near q || (q.isAdd && s.flight.any fun r => r.ctx == q.ctx && r.isAdd && near r)

/-- The task's writes on their way to a line execute before a later access of the task to it (R185), for MMIO those to every line of it
(R294). One whose line the host may hold waits for the host (R419). -/
def flushLine (s : State) (line : Nat) : Res State :=
  let mine := s.flight.filter (goesBefore s s.task.tid line)
  (reqsWait s mine).bind fun _ =>
    .ok (serveAll { s with flight := s.flight.filter fun q => !goesBefore s s.task.tid line q } mine)

/-- Every write of a context on its way executes (R183, R308). -/
def flushCtx (s : State) (ctx : Nat) : Res State :=
  let mine (q : Req) : Bool := q.ctx == ctx && q.writes
  (reqsWait s (s.flight.filter mine)).bind fun _ =>
    .ok (serveAll { s with flight := s.flight.filter fun q => !mine q } (s.flight.filter mine))

/-- A request sent. -/
def post (s : State) (p : Part) (lease : Nat) (k : ReqKind) : State :=
  { s with flight := s.flight ++ [⟨s.me.id, s.task.tid, s.task.core, s.task.part, p.va, p.pa, p.home, lease, k⟩] }

/-! ## Loads (R290) -/

/-- CACHE may serve and hold lines of a page of this reach (R102, R290). -/
def cacheable (p : Part) : Bool := decide (p.reach < 4) && inDevice p.pa

/-- The lease a page's reach gives, when CACHE may hold its lines (R103). -/
def leaseAt (s : State) (p : Part) : Option Nat :=
  if cacheable p && !commitPending s (p.pa / 128) then some (leaseOf s s.task.region p.reach) else none

/-- The task's version bytes over bytes read (R107), and the WCT of those it wrote. -/
def withVersion (s : State) (pa : Nat) (bytes : List Byte) (w : Nat) : List Byte × Nat :=
  (overlay s.task.vlines pa bytes,
   if (List.range bytes.length).any (fun k => (cellGet s.task.vlines (pa + k)).isSome)
   then later w ((lookupNat (pa / 128) s.task.vwct).getD 0) else w)

/-- A load waits: for the STAMP of a semaphore or a launch (R311, R365), or for H after a call-out (R177). -/
def loadsWait (s : State) : Res Unit := Res.wait (decide (s.me.loadAfter ≤ myTime s)) .load

/-- A load served at the home (R104, R290): the bytes and their WCT; any copy of the task in CACHE goes, and one comes with a lease where
`cached` and the page allow it. -/
def loadAtHome (s : State) (p : Part) (cached : Bool) : State × List Byte × Nat :=
  let s := noteMiss s s.task.part (some p.va) p.pa
  let (s, bytes, w) := readAtHome s s.task.part p.pa p.home p.len
  let s := dropCache s (p.pa / 128)
  let s := match if cached then leaseAt s p else none with
    | none => s
    | some lease =>
      let (s, line, lw) := readAtHome s s.task.part (p.pa / 128 * 128) p.home 128
      let (s, e) := grantLease s p.pa p.home lease
      { s with core := cacheFill s.core ⟨s.task.tid, p.pa / 128, e, lw, line⟩ }
  (s, bytes, w)

/-- Trap 0x21 of a load that reads a line of memory with an uncorrectable error (R389). -/
def memoryTrap (va lane : Nat) : Trap := trapLane 0x21 (roleCode .off) va lane

/-- The bytes of one part read by a load of a lane (R290), with the WCT they bring: from CACHE under a lease, or at the home. -/
def loadPart (s : State) (lane : Nat) (p : Part) (cached : Bool) : Res (State × List Byte × Nat) :=
  (flushLine s (p.pa / 128)).bind fun s =>
    match if cached && cacheable p then cacheHit s (p.pa / 128) else none with
    | some l => .ok (s, withVersion s p.pa ((l.bytes.drop (p.pa % 128)).take p.len) l.wct)
    | none =>
      if homeDown s p.pa p.home then .stall .load
      else if lineBad s p.pa then .trap (memoryTrap p.va lane)
      else
        let (s, bytes, w) := loadAtHome s p cached
        .ok (s, withVersion s p.pa bytes w)

/-- The parts of one access read in order. -/
def loadParts (cached : Bool) (lane : Nat) : List Part → State → Res (State × List Byte × Nat)
  | [], s => .ok (s, [], 0)
  | p :: ps, s =>
    (loadPart s lane p cached).bind fun q =>
      (loadParts cached lane ps q.1).bind fun u => .ok (u.1, q.2.1 ++ u.2.1, later q.2.2 u.2.2)

/-- The values lanes load, in order, with their WCTs entered in the horizon (R105). -/
def loadSpots (cached : Bool) : List Spot → State → Res (State × List (Nat × Nat))
  | [], s => .ok (s, [])
  | a :: rest, s =>
    (loadParts cached a.lane a.parts s).bind fun q =>
      (loadSpots cached rest (raiseHorizon q.1 q.2.2)).bind fun u => .ok (u.1, (a.lane, ofBytesLE q.2.1) :: u.2)

/-- A lane's value in a list. -/
def valueAt (l : List (Nat × Nat)) (lane : Nat) : Nat := (lookupNat lane l).getD 0

/-- What a load writes of `n` bytes of a type in one lane: extended to 32 bits, or the pair (R289). -/
def extended (t size x : Nat) : Nat := if size < 4 ∧ t % 2 = 1 ∧ t < 4 then wrapInt 32 (signedOf (8 * size) x) else x

/-- Loaded values written to a v register, or a pair for 8 bytes, in the lanes of p0 (R289). -/
def writeLoaded (s : State) (reg t size : Nat) (val : Nat → Nat) : State :=
  if size = 8 then setVPair s reg (typeTag t) fun l => BitVec.ofNat 64 (val l)
  else setV s reg (if size < 4 then .int32 else typeTag t) fun l => BitVec.ofNat 32 (extended t size (val l))

/-! ## Stores (R291) -/

/-- The bytes a store takes from a v register at a lane (R289). -/
def storeBytes (r : Regs) (reg size lane : Nat) : List Byte :=
  if size = 8 then bytesLE 4 (vLane r reg lane).toNat ++ bytesLE 4 (vLane r (reg + 1) lane).toNat
  else bytesLE size (vLane r reg lane).toNat

/-- The task's version lines. -/
def versionLines (cells : List Host.Cell) : List Nat :=
  cells.foldl (fun l c => if l.getLast? = some (c.1 / 128) then l else l ++ [c.1 / 128]) []

/-- Bytes written as version bytes of the task, in a version line at the home (R107): the WCT enters as for any store. -/
def versionWrite (s : State) (p : Part) (bytes : List Byte) : State × Nat :=
  let w := writeWct s p.pa p.home
  let s := noteMiss s s.task.part (some p.va) p.pa
  let s := touchLine s s.task.part (placeOf s p.pa) (homeAt s p.pa p.home)
  ({ s with
    core := cachePatch s.core s.task.tid p.pa w bytes
    task := { s.task with
      vlines := cellSetBytes s.task.vlines p.pa bytes
      vwct := setNat (p.pa / 128) (later w ((lookupNat (p.pa / 128) s.task.vwct).getD 0)) s.task.vwct } }, w)

/-- A part's write goes to a version line (R107). -/
def toVersion (s : State) (p : Part) : Bool := s.task.vmode && p.versioned

/-- Version writes stay within the quota (R110). -/
def quotaOk (s : State) (parts : List Part) : Bool :=
  let cells := parts.foldl (fun c p => if toVersion s p then cellSet c (p.pa / 128 * 128) 0 else c) s.task.vlines
  decide ((versionLines cells).length ≤ quotaOf s s.task.region) || !parts.any (toVersion s)

/-- Consecutive bytes of one line, from cells in ascending order. -/
def runsOf : List Host.Cell → List (Nat × List Byte)
  | [] => []
  | (a, x) :: rest =>
    match runsOf rest with
    | (b, ys) :: more => if a + 1 = b ∧ b % 128 ≠ 0 then (a, x :: ys) :: more else (a, [x]) :: (b, ys) :: more
    | [] => [(a, [x])]

/-- One lane's bytes sent: to a version line, or on their way to the home (R107, R291). -/
def sendPart (s : State) (p : Part) (bytes : List Byte) : State :=
  if toVersion s p then raiseWrite (versionWrite s p bytes).1 (versionWrite s p bytes).2
  else post s p 0 (.store bytes)

/-- The stores of a word, one event for each lane (R179), in ascending order, so that the higher lane is last (R99). -/
def sendSpots (val : Nat → List Byte) (s : State) (spots : List Spot) : State :=
  spots.foldl (fun s a => a.parts.foldl (fun s p => sendPart s p (val a.lane)) s) s

/-- Own earlier writes to the lines of parts execute. -/
def flushParts : List Part → State → Res State
  | [], s => .ok s
  | p :: ps, s => (flushLine s (p.pa / 128)).bind fun s => flushParts ps s

/-- The lanes' stores of a word (R99, R101, R105, R107, R109, R110). Version bytes are written at once, so that they wait for a home that is
down (R406). -/
def storeSpots (s : State) (spots : List Spot) (val : Nat → List Byte) (trap : Trap) : Res State :=
  let parts := spots.flatMap fun a => a.parts
  if !quotaOk s parts then .trap trap
  else (flushParts parts s).bind fun s =>
    (Res.wait (!parts.any fun p => toVersion s p && homeDown s p.pa p.home) .load).bind fun _ =>
      let s := if parts.any (fun p => !toVersion s p) then expose s else s
      .ok (sendSpots val s spots)

/-! ## Atomics (R113, R296, R297) -/

/-- The new value an atomic gives a location (R297): `op` as R216 numbers them, `t` the type code. -/
def atomNew (op t bits x y c : Nat) : Nat :=
  let signed := t % 2 = 1
  let less (a b : Nat) : Bool := if signed then decide (signedOf bits a < signedOf bits b) else decide (a < b)
  match op with
  | 0 => (x + y) % 2 ^ bits
  | 1 => if less y x then y else x
  | 2 => if less x y then y else x
  | 3 => x &&& y
  | 4 => x ||| y
  | 5 => x ^^^ y
  | 6 => y
  | 7 => if x = c then y else x
  | _ => (fAdd (fmtOf t) ⟨1, false, false, false, 0⟩ false x y).bits

/-- The lanes of an ATOMG that the network reports as failed, and those of them whose effects are confirmed (R113): of the lanes struck,
those whose home lies on another die. -/
def netLanes (s : State) (spots : List Spot) : List Nat × List Nat :=
  match s.me.netError with
  | none => ([], [])
  | some (bad, applied) =>
    let far := (spots.filter fun a => a.parts.any fun p =>
      decide (homeAt s p.pa p.home < 256) && homeAt s p.pa p.home / 64 != s.task.core / 208).map fun a => a.lane
    let hit := far.filter fun k => bad.getLsbD (k % 64)
    (hit, hit.filter fun k => applied.getLsbD (k % 64))

/-- The first lane whose location lies in a line of memory that cannot be read (R389). -/
def spotsTrap (s : State) (spots : List Spot) : Option Trap :=
  (spots.find? fun a => a.parts.any fun p => lineBad s p.pa).map fun a => memoryTrap a.va a.lane

/-- Atomics of lanes at the homes of their locations, in lane order (R99): the old values. A lane in `lost` has no effect (R394). -/
def atomSpots (op t bits : Nat) (y c : Nat → Nat) (lost : List Nat) : List Spot → State → Res (State × List (Nat × Nat))
  | [], s => .ok (s, [])
  | a :: rest, s =>
    if lost.contains a.lane then atomSpots op t bits y c lost rest s
    else
      let p := a.parts.headD ⟨0, 0, 0, 4, false, 0⟩
      (flushLine s (p.pa / 128)).bind fun s =>
        let s := noteMiss s s.task.part (some p.va) p.pa
        let (s, old, w) := rmwAtHome s s.task.part p.pa p.home (bits / 8) fun b =>
          bytesLE (bits / 8) (atomNew op t bits (ofBytesLE b) (y a.lane) (c a.lane))
        let s := raiseWrite (dropCache s (p.pa / 128)) w
        (atomSpots op t bits y c lost rest s).bind fun u => .ok (u.1, (a.lane, ofBytesLE old) :: u.2)

/-- The first line among parts that the host may hold stalls the word until the host answers (R419); so does a home on a
die in reset (R406). -/
def waitHost (s : State) (parts : List Part) : Res Unit :=
  match parts.find? fun p => hostHolds s p.pa with
  | some p => .stall (.hostLine p.pa)
  | none => Res.wait (!parts.any fun p => homeDown s p.pa p.home) .load

/-- What atomics of parts wait for: as `waitHost`, and for the move of a line of a swap pair (R388). -/
def waitAtomic (s : State) (parts : List Part) : Res Unit :=
  match parts.findSome? fun p => atomicHeld s p.pa with
  | some pa => .stall (.hostLine pa)
  | none => Res.wait (!parts.any fun p => atomicDown s p.pa p.home) .load

/-- Pad atomics of lanes in lane order: the old values (R99, R299). -/
def padAtoms (op t bits : Nat) (off y c : Nat → Nat) : List Nat → Task → Task × List (Nat × Nat)
  | [], k => (k, [])
  | lane :: rest, k =>
    let x := padNat k (off lane) (bits / 8)
    let k := padWrite k (off lane) (bytesLE (bits / 8) (atomNew op t bits x (y lane) (c lane)))
    let (k, olds) := padAtoms op t bits off y c rest k
    (k, (lane, x) :: olds)

/-! ## Single accesses of a context -/

/-- A read of `n` bytes at one address, as LDG does (R290); the parameter window serves loads alone (R364). -/
def readOnce (s : State) (va n lane : Nat) (cached : Bool) : Res (State × List Byte) :=
  (loadsWait s).bind fun _ =>
  (spotOf .read false anyKind va n lane s).bind fun q =>
    (loadParts cached lane q.2.parts q.1).bind fun u => .ok (raiseHorizon u.1 u.2.2, u.2.1)

end Sys2Proof.Machine
end

