-- ==== Sys2Proof/Machine/Affine.lean ====
section
/-! DEFINITION. Affine forms (R11 to R13, R23, R240 to R243): the words of majors 0x05 to 0x0B, and ALD. -/

namespace Sys2Proof.Machine

/-! ## The words -/

/-- An affine word's effect: the form written. A non-form has sent a tract to its stands before (R14), and traps in a stand (R23). -/
def affineWord (i : Instr) (d : BitVec 7) (s : State) : Host.Outcome State Fault Refusal :=
  runFlow i s fun s =>
    match affineResult i s.me.path.lead (readRegs s) with
    | some f => wordDone (setACode s d f)
    | none => wordTrap s (trapHere s 0x04 0)

/-- AADD (R240). -/
def execAadd (d a b : BitVec 7) (s : State) : Host.Outcome State Fault Refusal := affineWord (.aadd d a b) d s
/-- ASUB (R240). -/
def execAsub (d a b : BitVec 7) (s : State) : Host.Outcome State Fault Refusal := affineWord (.asub d a b) d s
/-- AMUL (R240). -/
def execAmul (d a b : BitVec 7) (s : State) : Host.Outcome State Fault Refusal := affineWord (.amul d a b) d s
/-- ASHL (R240). -/
def execAshl (d a b : BitVec 7) (s : State) : Host.Outcome State Fault Refusal := affineWord (.ashl d a b) d s
/-- ASHR (R240). -/
def execAshr (d a b : BitVec 7) (s : State) : Host.Outcome State Fault Refusal := affineWord (.ashr d a b) d s
/-- AAND (R240). -/
def execAand (d a b : BitVec 7) (s : State) : Host.Outcome State Fault Refusal := affineWord (.aand d a b) d s
/-- AOR (R240). -/
def execAor (d a b : BitVec 7) (s : State) : Host.Outcome State Fault Refusal := affineWord (.aor d a b) d s
/-- AXOR (R240). -/
def execAxor (d a b : BitVec 7) (s : State) : Host.Outcome State Fault Refusal := affineWord (.axor d a b) d s
/-- AMIN (R240). -/
def execAmin (d a b : BitVec 7) (s : State) : Host.Outcome State Fault Refusal := affineWord (.amin d a b) d s
/-- AMAX (R240). -/
def execAmax (d a b : BitVec 7) (s : State) : Host.Outcome State Fault Refusal := affineWord (.amax d a b) d s
/-- ACMP_EQ (R240). -/
def execAcmpEq (d a b : BitVec 7) (s : State) : Host.Outcome State Fault Refusal := affineWord (.acmpEq d a b) d s
/-- ACMP_NE (R240). -/
def execAcmpNe (d a b : BitVec 7) (s : State) : Host.Outcome State Fault Refusal := affineWord (.acmpNe d a b) d s
/-- ACMP_LT (R240). -/
def execAcmpLt (d a b : BitVec 7) (s : State) : Host.Outcome State Fault Refusal := affineWord (.acmpLt d a b) d s
/-- ACMP_LE (R240). -/
def execAcmpLe (d a b : BitVec 7) (s : State) : Host.Outcome State Fault Refusal := affineWord (.acmpLe d a b) d s
/-- ACMP_LTU (R240). -/
def execAcmpLtu (d a b : BitVec 7) (s : State) : Host.Outcome State Fault Refusal := affineWord (.acmpLtu d a b) d s
/-- ACMP_LEU (R240). -/
def execAcmpLeu (d a b : BitVec 7) (s : State) : Host.Outcome State Fault Refusal := affineWord (.acmpLeu d a b) d s
/-- AADDI, and AMOV (R240, R241, R243). -/
def execAaddi (d a : BitVec 7) (imm : BitVec 11) (s : State) : Host.Outcome State Fault Refusal :=
  affineWord (.aaddi d a imm) d s
/-- AMULI (R240). -/
def execAmuli (d a : BitVec 7) (imm : BitVec 11) (s : State) : Host.Outcome State Fault Refusal :=
  affineWord (.amuli d a imm) d s
/-- ASHLI (R240). -/
def execAshli (d a : BitVec 7) (imm : BitVec 11) (s : State) : Host.Outcome State Fault Refusal :=
  affineWord (.ashli d a imm) d s
/-- ASHRI (R240). -/
def execAshri (d a : BitVec 7) (imm : BitVec 11) (s : State) : Host.Outcome State Fault Refusal :=
  affineWord (.ashri d a imm) d s
/-- AMOVI (R240, R243). -/
def execAmovi (d : BitVec 7) (imm : BitVec 11) (s : State) : Host.Outcome State Fault Refusal :=
  affineWord (.amovi d imm) d s
/-- AANDI (R240). -/
def execAandi (d a : BitVec 7) (imm : BitVec 11) (s : State) : Host.Outcome State Fault Refusal :=
  affineWord (.aandi d a imm) d s

/-! ## ALD (R242) -/

/-- The size ALD loads, by type. -/
def aldSize (t : Nat) : Nat := if t = 17 then 8 else if t = 31 then 4 else typeBits t / 8

/-- The 64-bit value ALD makes of what it loads. -/
def aldValue (t x : Nat) : Word64 :=
  if t < 8 ∧ t % 2 = 1 then BitVec.ofInt 64 (signedOf (8 * aldSize t) x) else BitVec.ofNat 64 x

/-- The tag ALD writes. -/
def aldTag (t : Nat) : Tag := if t = 17 then .cell else if t = 10 then .f32 else if t = 11 then .f64 else .int32

/-- ALD (R242): a global load as LDG's, once for a uniform address, else in each lane with the rule of R24. -/
def execAld (data : BitVec 7) (base : BitVec 5) (disp : BitVec 6) (s : State) : Host.Outcome State Fault Refusal :=
  runWord (.ald data base disp) s fun s =>
    let t := (extraOf s.me.path.lead).typ
    let size := aldSize t
    let r := readRegs s
    let once := (aReg r base.toNat).isUniform
    let lanes := if once then [electedLane s] else lanesOf (p0 s)
    (access .read true anyKind size (memAddr s.me r base 31#5 0#2 disp size) lanes s).bind fun q =>
      (loadsWait s).bind fun _ =>
      (loadSpots true q.2 q.1).bind fun u =>
        let val (lane : Nat) : Word64 := aldValue t (valueAt u.2 lane)
        if once then .ok (setUniform u.1 data (val (electedLane s)) (aldTag t))
        else match formOfLanes s.me (p0 s) (aldTag t) val with
          | some f => .ok (setACode u.1 data f)
          | none => .trap (trapHere s 0x04 0)

end Sys2Proof.Machine
end

