-- ==== Sys2Proof/Machine/Vector.lean ====
section
/-! DEFINITION. The vector words on integers, bits, bytes and lanes (file 11): R263 to R271. Each computes in the lanes of
p0 from the registers as they stood before its chain (R259). -/

namespace Sys2Proof.Machine

/-! ## Elements (R73) -/

/-- The elements of `w` bits of a 32-bit value, each mapped by a function of its number. -/
def mapElems (w : Nat) (f : Nat → Nat) : Word32 :=
  BitVec.ofNat 32 ((List.range (32 / w)).foldl (fun acc k => acc + f k % 2 ^ w * 2 ^ (k * w)) 0)

/-- Element `k` of `w` bits of a 32-bit value. -/
def elemOf (w : Nat) (x : Word32) (k : Nat) : Nat := bitsOf x.toNat (k * w) w

/-- The lane values a word reads from its A source. -/
def laneA (s : State) (a : BitVec 7) (bits lane : Nat) : Word32 :=
  src32 s.me (readRegs s) bits (srcOf (readRegs s) s.me.path.lead 0 a.toNat) lane

/-- The lane values a word reads from its B source, or its long immediate. -/
def laneB (s : State) (b : BitVec 7) (bits lane : Nat) : Word32 :=
  src32 s.me (readRegs s) bits (srcB (readRegs s) s.me.path.lead b) lane

/-- A word whose result is one 32-bit register per lane (R259, R260). -/
def laneWord (i : Instr) (d : BitVec 7) (t : Tag) (signed : Bool) (val : State → Nat → Word32) (s : State) :
    Host.Outcome State Fault Refusal :=
  runWord i s fun s => setDest s d t signed (val s)

/-! ## Integer arithmetic (R263, R264) -/

/-- An element read in an ITYPE. -/
def itypeValue (f x : Nat) : Int := if itypeSigned f then signedOf (itypeBits f) x else Int.ofNat x

/-- An exact result in its ITYPE: clamped under S, else modulo 2^n. -/
def itypeResult (f : Nat) (sat : Bool) (e : Int) : Nat :=
  let range := intRange (itypeSigned f) (itypeBits f)
  wrapInt (itypeBits f) (if sat then clampInt range.1 range.2 e else e)

/-- The tag IADD and ISUB write: 13 when a source carries it (R264). -/
def sumTag (f : Nat) (tags : List Tag) : Tag := if f < 2 ∧ tags.contains .cell then .cell else itypeTag f

/-- The result of an integer word of two or three operands in a lane: `f` holds S and the ITYPE. -/
def intLane (s : State) (a b : BitVec 7) (c : Src) (f : Nat) (op : Int → Int → Int → Int) (lane : Nat) : Word32 :=
  let w := itypeBits f
  let x := laneA s a w lane
  let y := laneB s b w lane
  let z := src32 s.me (readRegs s) w c lane
  mapElems w fun k => itypeResult f (8 ≤ f)
    (op (itypeValue f (elemOf w x k)) (itypeValue f (elemOf w y k)) (itypeValue f (elemOf w z k)))

/-- An integer word of two operands. -/
def intWord (i : Instr) (d a b : BitVec 7) (f : Nat) (op : Int → Int → Int) (s : State) :
    Host.Outcome State Fault Refusal :=
  laneWord i d (itypeTag f) (itypeSigned f) (fun s => intLane s a b (.imm 0) f fun x y _ => op x y) s

/-- IADD or ISUB: as the other integer words, with the tag of a sum-cell address kept (R264). -/
def sumWord (i : Instr) (d a b : BitVec 7) (f : Nat) (op : Int → Int → Int) (s : State) :
    Host.Outcome State Fault Refusal :=
  runWord i s fun s =>
    let r := readRegs s
    let tags := srcTags r (srcOf r s.me.path.lead 0 a.toNat) 1 ++ srcTags r (srcB r s.me.path.lead b) 1
    setDest s d (sumTag f tags) (itypeSigned f) (intLane s a b (.imm 0) f fun x y _ => op x y)

/-- IADD (R264). -/
def execIadd (d a b : BitVec 7) (f : BitVec 4) (s : State) : Host.Outcome State Fault Refusal :=
  sumWord (.iadd d a b f) d a b f.toNat (fun x y => x + y) s
/-- ISUB (R264). -/
def execIsub (d a b : BitVec 7) (f : BitVec 4) (s : State) : Host.Outcome State Fault Refusal :=
  sumWord (.isub d a b f) d a b f.toNat (fun x y => x - y) s
/-- IMUL (R264). -/
def execImul (d a b : BitVec 7) (f : BitVec 4) (s : State) : Host.Outcome State Fault Refusal :=
  intWord (.imul d a b f) d a b f.toNat (fun x y => x * y) s
/-- IMULH (R264). -/
def execImulh (d a b : BitVec 7) (f3 : BitVec 3) (s : State) : Host.Outcome State Fault Refusal :=
  intWord (.imulh d a b f3) d a b f3.toNat (fun x y => x * y / Int.ofNat (2 ^ itypeBits f3.toNat)) s
/-- IMAD (R264): the addend is D, or THIRD with a kind 3 leading word. -/
def execImad (d a b : BitVec 7) (f : BitVec 4) (s : State) : Host.Outcome State Fault Refusal :=
  laneWord (.imad d a b f) d (itypeTag f.toNat) (itypeSigned f.toNat)
    (fun s => intLane s a b (addend (readRegs s) s.me.path.lead d) f.toNat fun x y z => x * y + z) s
/-- IMIN (R264). -/
def execImin (d a b : BitVec 7) (f3 : BitVec 3) (s : State) : Host.Outcome State Fault Refusal :=
  intWord (.imin d a b f3) d a b f3.toNat (fun x y => if y < x then y else x) s
/-- IMAX (R264). -/
def execImax (d a b : BitVec 7) (f3 : BitVec 3) (s : State) : Host.Outcome State Fault Refusal :=
  intWord (.imax d a b f3) d a b f3.toNat (fun x y => if x < y then y else x) s
/-- IABS (R264). -/
def execIabs (d a : BitVec 7) (f : BitVec 4) (s : State) : Host.Outcome State Fault Refusal :=
  laneWord (.iabs d a f) d (itypeTag f.toNat) (itypeSigned f.toNat)
    (fun s lane =>
      let w := itypeBits f.toNat
      let x := laneA s a w lane
      mapElems w fun k => itypeResult f.toNat (8 ≤ f.toNat) (Int.ofNat (itypeValue f.toNat (elemOf w x k)).natAbs)) s

/-! ## Compare and select (R265, R266) -/

/-- An integer condition of R216. -/
def icmpHolds (c : Nat) (x y : Int) : Bool :=
  match c with
  | 0 => x == y
  | 1 => x != y
  | 2 => decide (x < y)
  | 3 => decide (x ≤ y)
  | 4 => decide (y < x)
  | _ => decide (y ≤ x)

/-- ICMP (R265): the condition must hold in every element of the lane. -/
def execIcmp (d a b : BitVec 7) (f3 : BitVec 3) (s : State) : Host.Outcome State Fault Refusal :=
  runWord (.icmp d a b f3) s fun s =>
    let w := itypeBits f3.toNat
    .ok (setP s (d.toNat % 8) (maskWhere fun lane =>
      (List.range (32 / w)).all fun k =>
        icmpHolds (d.toNat / 8) (itypeValue f3.toNat (elemOf w (laneA s a w lane) k))
          (itypeValue f3.toNat (elemOf w (laneB s b w lane) k))))

/-- SEL (R266). -/
def execSel (d a b : BitVec 7) (f3 : BitVec 3) (s : State) : Host.Outcome State Fault Refusal :=
  runWord (.sel d a b f3) s fun s =>
    let r := readRegs s
    let ta := srcTags r (srcOf r s.me.path.lead 0 a.toNat) 1
    let tb := srcTags r (srcB r s.me.path.lead b) 1
    setDest s d (if ta = tb then ta.headD .raw else .raw) false fun lane =>
      if (pReg s.me r f3.toNat).getLsbD lane then laneA s a 32 lane else laneB s b 32 lane

/-! ## Bits (R267) -/

/-- A bitwise word of two sources, with tag 0. -/
def bitWord (i : Instr) (d a b : BitVec 7) (op : Word32 → Word32 → Word32) (s : State) :
    Host.Outcome State Fault Refusal :=
  laneWord i d .raw false (fun s lane => op (laneA s a 32 lane) (laneB s b 32 lane)) s

/-- AND (R267). -/
def execAnd (d a b : BitVec 7) (s : State) : Host.Outcome State Fault Refusal := bitWord (.and d a b) d a b (fun x y => x &&& y) s
/-- OR (R267). -/
def execOr (d a b : BitVec 7) (s : State) : Host.Outcome State Fault Refusal := bitWord (.or d a b) d a b (fun x y => x ||| y) s
/-- XOR (R267). -/
def execXor (d a b : BitVec 7) (s : State) : Host.Outcome State Fault Refusal := bitWord (.xor d a b) d a b (fun x y => x ^^^ y) s
/-- ANDN (R267). -/
def execAndn (d a b : BitVec 7) (s : State) : Host.Outcome State Fault Refusal :=
  bitWord (.andn d a b) d a b (fun x y => x &&& ~~~y) s
/-- SHL (R267): 0 for an amount of 32 or more. -/
def execShl (d a b : BitVec 7) (s : State) : Host.Outcome State Fault Refusal :=
  bitWord (.shl d a b) d a b (fun x y => if 32 ≤ y.toNat then 0 else x <<< y.toNat) s
/-- SHR (R267): 0 for an amount of 32 or more. -/
def execShr (d a b : BitVec 7) (s : State) : Host.Outcome State Fault Refusal :=
  bitWord (.shr d a b) d a b (fun x y => if 32 ≤ y.toNat then 0 else x >>> y.toNat) s
/-- SAR (R267): copies of bit 31 for an amount of 32 or more. -/
def execSar (d a b : BitVec 7) (s : State) : Host.Outcome State Fault Refusal :=
  bitWord (.sar d a b) d a b (fun x y => x.sshiftRight (earlier y.toNat 31)) s
/-- ROTL (R267). -/
def execRotl (d a b : BitVec 7) (s : State) : Host.Outcome State Fault Refusal :=
  bitWord (.rotl d a b) d a b (fun x y => x.rotateLeft (y.toNat % 32)) s

/-- POPC (R267). -/
def execPopc (d a : BitVec 7) (s : State) : Host.Outcome State Fault Refusal :=
  laneWord (.popc d a) d .int32 false (fun s lane => BitVec.ofNat 32 (popNat 32 (laneA s a 32 lane).toNat)) s
/-- CLZ (R267): 32 for 0. -/
def execClz (d a : BitVec 7) (s : State) : Host.Outcome State Fault Refusal :=
  laneWord (.clz d a) d .int32 false (fun s lane => BitVec.ofNat 32 (32 - bitLen (laneA s a 32 lane).toNat)) s
/-- BREV (R267). -/
def execBrev (d a : BitVec 7) (s : State) : Host.Outcome State Fault Refusal :=
  laneWord (.brev d a) d .raw false (fun s lane => (laneA s a 32 lane).reverse) s

/-! ## Bytes (R268 to R270) -/

/-- A byte of the 16 that two table registers hold (R269). -/
def tableByte (r : Regs) (reg k : Nat) : Nat := bitsOf (aReg r (reg + k / 8)).base.toNat (8 * (k % 8)) 8

/-- BLUT (R269). -/
def execBlut (d a b : BitVec 7) (s : State) : Host.Outcome State Fault Refusal :=
  laneWord (.blut d a b) d .raw false
    (fun s lane =>
      let r := readRegs s
      let x := laneA s a 32 lane
      mapElems 8 fun j =>
        tableByte r (b.toNat - 64) (elemOf 8 x j / 16) &&& tableByte r (b.toNat - 62) (elemOf 8 x j % 16)) s

/-- BSHUF (R270). -/
def execBshuf (d a b : BitVec 7) (s : State) : Host.Outcome State Fault Refusal :=
  laneWord (.bshuf d a b) d .raw false
    (fun s lane =>
      let x := laneA s a 32 lane
      let sel := laneB s b 32 lane
      mapElems 8 fun j => if 128 ≤ elemOf 8 sel j then 0 else elemOf 8 x (elemOf 8 sel j % 4)) s

/-- A byte word of two sources, with tag 11 (R270). -/
def byteWord (i : Instr) (d a b : BitVec 7) (op : Nat → Nat → Nat) (s : State) : Host.Outcome State Fault Refusal :=
  laneWord i d .int8 false
    (fun s lane =>
      let x := laneA s a 8 lane
      let y := laneB s b 8 lane
      mapElems 8 fun j => op (elemOf 8 x j) (elemOf 8 y j)) s

/-- BCMP_EQ (R270). -/
def execBcmpEq (d a b : BitVec 7) (s : State) : Host.Outcome State Fault Refusal :=
  byteWord (.bcmpEq d a b) d a b (fun x y => if x = y then 255 else 0) s
/-- BCMP_LT (R270). -/
def execBcmpLt (d a b : BitVec 7) (s : State) : Host.Outcome State Fault Refusal :=
  byteWord (.bcmpLt d a b) d a b (fun x y => if signedOf 8 x < signedOf 8 y then 255 else 0) s
/-- BCMP_LTU (R270). -/
def execBcmpLtu (d a b : BitVec 7) (s : State) : Host.Outcome State Fault Refusal :=
  byteWord (.bcmpLtu d a b) d a b (fun x y => if x < y then 255 else 0) s
/-- BADDS_I8 (R270). -/
def execBaddsI8 (d a b : BitVec 7) (s : State) : Host.Outcome State Fault Refusal :=
  byteWord (.baddsI8 d a b) d a b (fun x y => wrapInt 8 (clampInt (-128) 127 (signedOf 8 x + signedOf 8 y))) s
/-- BADDS_N8 (R270). -/
def execBaddsN8 (d a b : BitVec 7) (s : State) : Host.Outcome State Fault Refusal :=
  byteWord (.baddsN8 d a b) d a b (fun x y => wrapInt 8 (clampInt 0 255 (Int.ofNat x + signedOf 8 y))) s

/-! ## Lanes (R271) -/

/-- LSHC (R271). -/
def execLshc (d a b : BitVec 7) (f : BitVec 4) (s : State) : Host.Outcome State Fault Refusal :=
  laneWord (.lshc d a b f) d .raw false
    (fun s lane => if f.toNat ≤ lane then laneA s a 32 (lane - f.toNat) else laneB s b 32 (lane + 64 - f.toNat)) s

/-- XPERM (R271). -/
def execXperm (d a b : BitVec 7) (s : State) : Host.Outcome State Fault Refusal :=
  laneWord (.xperm d a b) d .raw false (fun s lane => laneA s a 32 ((laneB s b 32 lane).toNat % 64)) s

end Sys2Proof.Machine
end

