-- ==== Sys2Proof/Machine/Float.lean ====
section
/-! DEFINITION. The floating-point words of pipes V and S, conversion, scans and reductions (file 11): R272 to R283. -/

namespace Sys2Proof.Machine

/-! ## The mode register (R81) and lane LFSRs (R80) -/

/-- One step of an LFSR (R80). -/
def lfsrStep (x : Word32) : Word32 :=
  let fb := x.getLsbD 31 ^^ x.getLsbD 21 ^^ x.getLsbD 1 ^^ x.getLsbD 0
  (x <<< 1) ||| (if fb then 1 else 0)

/-- How a word rounds under the mode register, its rounding code and its saturation (R79, R81). -/
def roundOf (mode : Word64) (code : Nat) (sat : Bool) : Round :=
  ⟨if code = 0 then bitsOf mode.toNat 0 3 else code, sat, mode.getLsbD 4, mode.getLsbD 5, 0⟩

/-- FZI (R81). -/
def modeFzi (mode : Word64) : Bool := mode.getLsbD 3

/-- The trap enables (R81). -/
def modeTen (mode : Word64) : Nat := bitsOf mode.toNat 7 5

/-- Flags joined into FLG (R84). -/
def raiseFlags (s : State) (flags : Nat) : State :=
  setMode s (s.me.regs.mode ||| BitVec.ofNat 64 (flags % 32 * 2 ^ 12))

/-! ## What a word computes in a lane -/

/-- What a lane computes: its elements packed from bit 0, the flags raised, its LFSR after. -/
structure LaneRes where
  val : Nat
  flags : Nat
  lfsr : Word32
  deriving DecidableEq, Repr

/-- One operation under a lane's LFSR: it steps when code 6 rounded a finite exact result (R80). -/
def stepOp (r : Round) (u : Word32) (op : Round → FRes) : FRes × Word32 :=
  let x := op { r with u := u.toNat }
  (x, if r.code = 6 ∧ x.rounded = true then lfsrStep u else u)

/-- The elements of a lane in order, `w` bits each in the result (R80: element 0 steps the LFSR first). -/
def laneElems (r : Round) (w : Nat) (op : Nat → Round → FRes) (u : Word32) (count : Nat) : LaneRes :=
  (List.range count).foldl (fun acc k =>
    let x := stepOp r acc.lfsr (op k)
    ⟨acc.val + x.1.bits % 2 ^ w * 2 ^ (k * w), orFlags acc.flags x.1.flags, x.2⟩) ⟨0, 0, u⟩

/-- The end of a floating-point word (R84, R276): the flags of the active lanes enter FLG; an enabled one traps in the
lowest lane that raised one, with no lane written and every LFSR as at issue; else the destination and the LFSRs are
written. A destination that R24 forbids traps first (R261). -/
def floatEnd (s : State) (res : Nat → LaneRes) (dest : State → Res State) : State :=
  let lanes := lanesOf (p0 s)
  let flags := lanes.foldl (fun acc l => orFlags acc (res l).flags) 0
  let ten := modeTen (readRegs s).mode
  match dest s with
  | .trap k => wordTrap s k
  | .stall w => wordStall s w
  | .ok t =>
    match lanes.find? fun l => (res l).flags &&& ten != 0 with
    | some l => wordTrap (raiseFlags s flags) (trapLane 0x10 (res l).flags (wordAddr s) l)
    | none =>
      wordDone (raiseFlags (setLfsr t (vmask (lfsrOf t) (p0 s) fun l => (res l).lfsr)) flags)

/-- Lane results of a type put into a destination: a pair for 64 bits (R59), else one register (R260). -/
def floatDest (s : State) (d : BitVec 7) (bits : Nat) (t : Tag) (val : Nat → Nat) : Res State :=
  if bits = 64 then .ok (setVPair s d.toNat t fun l => BitVec.ofNat 64 (val l))
  else setDest s d t false fun l => BitVec.ofNat 32 (val l)

/-- The value of a source at a lane, of 64 or 32 bits. -/
def floatSrc (s : State) (x : Src) (bits lane : Nat) : Nat :=
  if bits = 64 then (src64 s.me (readRegs s) x lane).toNat else (src32 s.me (readRegs s) 32 x lane).toNat

/-- Elements of a type per lane (R274). -/
def floatElems (t : Nat) : Nat := if typeBits t = 16 then 2 else 1

/-- A source of a floating-point word by operand number and code. -/
def fSrc (s : State) (opd code : Nat) : Src := srcOf (readRegs s) s.me.path.lead opd code

/-- The results of a floating-point word by lane: each element read under FZI (R86), then the operation. -/
def floatLanes (s : State) (f : Nat) (srcs : List Src) (op : Fmt → Round → List Nat → FRes) : Nat → LaneRes :=
  let t := fpType s.me.path.lead
  let w := typeBits t
  let fmt := fmtOf t
  let mode := (readRegs s).mode
  fun lane =>
    let xs := srcs.map fun x => floatSrc s x w lane
    laneElems (roundOf mode (f % 8) (8 ≤ f)) w
      (fun k r => op fmt r (xs.map fun x => readOperand fmt (modeFzi mode) (bitsOf x (k * w) w)))
      (vget (lfsrOf s) lane 0) (floatElems t)

/-- A floating-point word with a register result (R276): `srcs` are its sources. -/
def floatWord (i : Instr) (d : BitVec 7) (f : Nat) (srcs : State → List Src) (op : Fmt → Round → List Nat → FRes)
    (s : State) : Host.Outcome State Fault Refusal :=
  runFlow i s fun s =>
    let t := fpType s.me.path.lead
    let res := floatLanes s f (srcs s) op
    floatEnd s res fun s => floatDest s d (typeBits t) (typeTag t) fun l => (res l).val

/-- Operand `k` of a list. -/
def opd (l : List Nat) (k : Nat) : Nat := l.getD k 0

/-- The two sources of a word. -/
def pairOf (a b : BitVec 7) (s : State) : List Src := [fSrc s 0 a.toNat, fSrc s 1 b.toNat]

/-! ## Arithmetic (R274 to R277) -/

/-- FADD (R276). -/
def execFadd (d a b : BitVec 7) (f : BitVec 4) (s : State) : Host.Outcome State Fault Refusal :=
  floatWord (.fadd d a b f) d f.toNat (pairOf a b) (fun t r l => fAdd t r false (opd l 0) (opd l 1)) s
/-- FSUB (R276). -/
def execFsub (d a b : BitVec 7) (f : BitVec 4) (s : State) : Host.Outcome State Fault Refusal :=
  floatWord (.fsub d a b f) d f.toNat (pairOf a b) (fun t r l => fAdd t r true (opd l 0) (opd l 1)) s
/-- FMUL (R276). -/
def execFmul (d a b : BitVec 7) (f : BitVec 4) (s : State) : Host.Outcome State Fault Refusal :=
  floatWord (.fmul d a b f) d f.toNat (pairOf a b) (fun t r l => fMul t r (opd l 0) (opd l 1)) s
/-- FMA (R276): rounded once; the addend is D, or THIRD with a kind 3 leading word. -/
def execFma (d a b : BitVec 7) (f : BitVec 4) (s : State) : Host.Outcome State Fault Refusal :=
  floatWord (.fma d a b f) d f.toNat (fun s => pairOf a b s ++ [addend (readRegs s) s.me.path.lead d])
    (fun t r l => fFma t r (opd l 0) (opd l 1) (opd l 2)) s
/-- FMIN (R277). -/
def execFmin (d a b : BitVec 7) (s : State) : Host.Outcome State Fault Refusal :=
  floatWord (.fmin d a b) d 0 (pairOf a b) (fun t r l => fMinMax false t r (opd l 0) (opd l 1)) s
/-- FMAX (R277). -/
def execFmax (d a b : BitVec 7) (s : State) : Host.Outcome State Fault Refusal :=
  floatWord (.fmax d a b) d 0 (pairOf a b) (fun t r l => fMinMax true t r (opd l 0) (opd l 1)) s
/-- FDIV (R276). -/
def execFdiv (d a b : BitVec 7) (f : BitVec 4) (s : State) : Host.Outcome State Fault Refusal :=
  floatWord (.fdiv d a b f) d f.toNat (pairOf a b) (fun t r l => fDiv t r (opd l 0) (opd l 1)) s

/-- A word of the function unit (R276, R279), by number. -/
def unitWord (i : Instr) (n : Nat) (d a : BitVec 7) (f : BitVec 4) (s : State) : Host.Outcome State Fault Refusal :=
  floatWord i d f.toNat (fun s => [fSrc s 0 a.toNat]) (fun t r l => fUnit n t r (opd l 0)) s

/-- FSQRT (R276, R279). -/
def execFsqrt (d a : BitVec 7) (f : BitVec 4) (s : State) : Host.Outcome State Fault Refusal := unitWord (.fsqrt d a f) 0 d a f s
/-- FRCP (R276, R279). -/
def execFrcp (d a : BitVec 7) (f : BitVec 4) (s : State) : Host.Outcome State Fault Refusal := unitWord (.frcp d a f) 1 d a f s
/-- FRSQ (R276, R279). -/
def execFrsq (d a : BitVec 7) (f : BitVec 4) (s : State) : Host.Outcome State Fault Refusal := unitWord (.frsq d a f) 2 d a f s
/-- FEXP2 (R276, R279). -/
def execFexp2 (d a : BitVec 7) (f : BitVec 4) (s : State) : Host.Outcome State Fault Refusal := unitWord (.fexp2 d a f) 3 d a f s
/-- FLOG2 (R276, R279). -/
def execFlog2 (d a : BitVec 7) (f : BitVec 4) (s : State) : Host.Outcome State Fault Refusal := unitWord (.flog2 d a f) 4 d a f s
/-- FSIN (R276, R279). -/
def execFsin (d a : BitVec 7) (f : BitVec 4) (s : State) : Host.Outcome State Fault Refusal := unitWord (.fsin d a f) 5 d a f s
/-- FCOS (R276, R279). -/
def execFcos (d a : BitVec 7) (f : BitVec 4) (s : State) : Host.Outcome State Fault Refusal := unitWord (.fcos d a f) 6 d a f s

/-! ## Compare and classify (R278, R280) -/

/-- FCMP (R278). -/
def execFcmp (d a b : BitVec 7) (s : State) : Host.Outcome State Fault Refusal :=
  runFlow (.fcmp d a b) s fun s =>
    let t := fpType s.me.path.lead
    let mode := (readRegs s).mode
    let rd (x : Src) (lane : Nat) : Nat := readOperand (fmtOf t) (modeFzi mode) (floatSrc s x (typeBits t) lane)
    let cmp (lane : Nat) : Bool × Nat :=
      fCompare (d.toNat / 8) (fmtOf t) (rd (fSrc s 0 a.toNat) lane) (rd (fSrc s 1 b.toNat) lane)
    floatEnd s (fun lane => ⟨0, (cmp lane).2, vget (lfsrOf s) lane 0⟩) fun s =>
      .ok (setP s (d.toNat % 8) (maskWhere fun lane => (cmp lane).1))

/-- FCLASS (R280): no flushing, no flag. -/
def execFclass (d a : BitVec 7) (s : State) : Host.Outcome State Fault Refusal :=
  runWord (.fclass d a) s fun s =>
    let t := fpType s.me.path.lead
    let w := typeBits t
    let src := fSrc s 0 a.toNat
    setDest s d .int32 false fun lane =>
      let x := floatSrc s src w lane
      BitVec.ofNat 32 ((List.range (floatElems t)).foldl
        (fun acc k => acc + 2 ^ fClass (fmtOf t) (bitsOf x (k * w) w) * 2 ^ (16 * k)) 0)

/-! ## Conversion (R281 to R283) -/

/-- Element `k` of `b` bits of a group that begins at a source (R282). Every 64-bit element of a form is the form's value. -/
def groupElem (s : State) (x : Src) (b k lane : Nat) : Nat :=
  if b = 64 then
    match x with
    | .form f => (formLane s.me f lane).toNat
    | _ => (srcWord s.me (readRegs s) x (2 * k) lane).toNat + 2 ^ 32 * (srcWord s.me (readRegs s) x (2 * k + 1) lane).toNat
  else bitsOf (srcWord s.me (readRegs s) x (k * b / 32) lane).toNat (k * b % 32) b

/-- Registers of a destination group written from a packed value. -/
def setGroup (val : Nat → Nat) (t : Tag) (reg : Nat) : Nat → State → State
  | 0, s => s
  | n + 1, s => setGroup (fun l => val l / 2 ^ 32) t (reg + 1) n (setV s reg t fun l => BitVec.ofNat 32 (val l))

/-- The tag CVT writes (R283). -/
def cvtTag (dt : Nat) : Tag := typeTag dt

/-- CVT (R281 to R283, R88): S, or SATD, saturates. -/
def execCvt (d a : BitVec 7) (dt : BitVec 5) (f : BitVec 4) (s : State) : Host.Outcome State Fault Refusal :=
  runFlow (.cvt d a dt f) s fun s =>
    let st := fpType s.me.path.lead
    let bs := typeBits st
    let bd := typeBits dt.toNat
    let n := cvtElems st dt.toNat
    let mode := (readRegs s).mode
    let src := fSrc s 0 a.toNat
    let r := roundOf mode (f.toNat % 8) (decide (8 ≤ f.toNat) || mode.getLsbD 6)
    let res (lane : Nat) : LaneRes :=
      laneElems r bd (fun k r => cvtElem r (modeFzi mode) st bs dt.toNat bd (groupElem s src bs k lane))
        (vget (lfsrOf s) lane 0) n
    let regs := n * bd / 32
    floatEnd s res fun s =>
      if isA d then setDest s d (cvtTag dt.toNat) (dt.toNat < 8 ∧ dt.toNat % 2 = 1) fun l => BitVec.ofNat 32 (res l).val
      else .ok (setGroup (fun l => (res l).val) (cvtTag dt.toNat) d.toNat regs s)

/-! ## Scans and reductions (R93, R272, R273) -/

/-- The type of a scan operation's lanes: 64 bits for the f64 operations. -/
def scanBits (op : Nat) : Nat := if 11 ≤ op then 64 else 32

/-- The tag a scan operation writes (R272). -/
def scanTag (op : Nat) : Tag := if op < 5 then .int32 else if op < 8 then .raw else if op < 11 then .f32 else .f64

/-- A scan operation's operand as it reads it: an f32 or f64 operand under FZI (R86). -/
def scanRead (op : Nat) (fzi : Bool) (x : Nat) : Nat :=
  if op < 8 then x else readOperand (if 11 ≤ op then fmtOf 11 else fmtOf 10) fzi x

/-- One combination of a scan operation (R273). DESIGN CHOICE (log entry 76): under FZI each combination flushes what it reads, a
subnormal result of an earlier combination among it. -/
def scanOp (op : Nat) (fzi : Bool) (r : Round) (x y : Nat) : FRes :=
  let f := if 11 ≤ op then fmtOf 11 else fmtOf 10
  let a := readOperand f fzi x
  let b := readOperand f fzi y
  let signed (v : Nat) : Int := signedOf 32 v
  match op with
  | 0 => plainRes ((x + y) % 2 ^ 32) 0
  | 1 => plainRes (if signed y < signed x then y else x) 0
  | 2 => plainRes (if signed x < signed y then y else x) 0
  | 3 => plainRes (if y < x then y else x) 0
  | 4 => plainRes (if x < y then y else x) 0
  | 5 => plainRes (x &&& y) 0
  | 6 => plainRes (x ||| y) 0
  | 7 => plainRes (natXor x y) 0
  | 8 => fAdd f r false a b
  | 9 => fMinMax false f r a b
  | 10 => fMinMax true f r a b
  | 11 => fAdd f r false a b
  | 12 => fMinMax false f r a b
  | _ => fMinMax true f r a b

/-- A scan in progress: what each lane holds (a value where the node or the result is present), the flags each lane's
combinations raised, and the LFSRs. -/
structure ScanState where
  flags : Vector Nat 64
  lfsr : Vector Word32 64
  deriving DecidableEq, Repr

/-- A combination charged to a lane (R93). -/
def scanStep (r : Round) (op : Round → FRes) (lane : Nat) (st : ScanState) : Nat × ScanState :=
  let x := stepOp r (vget st.lfsr lane 0) op
  (x.1.bits, ⟨vset st.flags lane (orFlags (vget st.flags lane 0) x.1.flags), vset st.lfsr lane x.2⟩)

/-- One level of the tree (R93): nodes 2i and 2i + 1 combined; a node holds its lowest active lane and its value. DESIGN CHOICE (log
entry 77): the flags of a combination, as its step of the LFSR, belong to the lowest active lane under the node. -/
def treeLevel (r : Round) (op : Round → Nat → Nat → FRes) :
    List (Option (Nat × Nat)) → ScanState → List (Option (Nat × Nat)) × ScanState
  | x :: y :: rest, st =>
    let (node, st) : Option (Nat × Nat) × ScanState :=
      match x, y with
      | some (l, a), some (_, b) =>
        let (v, st) := scanStep r (fun r => op r a b) l st
        (some (l, v), st)
      | some n, none => (some n, st)
      | none, n => (n, st)
    let (more, st) := treeLevel r op rest st
    (node :: more, st)
  | l, st => (l, st)

/-- The levels of the tree up to its root. -/
def treeFold (r : Round) (op : Round → Nat → Nat → FRes) :
    Nat → List (Option (Nat × Nat)) → ScanState → Option (Nat × Nat) × ScanState
  | 0, l, st => (l.headD none, st)
  | n + 1, l, st =>
    let (up, st) := treeLevel r op l st
    treeFold r op n up st

/-- A value delivered with no combination, as that of VSCAN's first active lane or of a VRED of one lane. DEDUCED (log entry 97): FZO
applies to it as to every result; a NaN is delivered as it is, with no flag. -/
def scanOne (op : Nat) (fzo : Bool) (x : Nat) : FRes :=
  if op < 8 then plainRes x 0 else flushOut (if 11 ≤ op then fmtOf 11 else fmtOf 10) fzo x 0

/-- Flags charged to a lane. -/
def ScanState.raise (st : ScanState) (lane flags : Nat) : ScanState :=
  { st with flags := vset st.flags lane (orFlags (vget st.flags lane 0) flags) }

/-- The inclusive prefix over active lanes, in lane order (R93): the results by lane; `one` is what the first delivers. -/
def scanFold (r : Round) (one : Nat → FRes) (op : Round → Nat → Nat → FRes) (val : Nat → Nat) :
    List Nat → Option Nat → ScanState → List (Nat × Nat) × ScanState
  | [], _, st => ([], st)
  | l :: rest, none, st =>
    let f := one (val l)
    let (more, st) := scanFold r one op val rest (some f.bits) (st.raise l f.flags)
    ((l, f.bits) :: more, st)
  | l :: rest, some x, st =>
    let (v, st) := scanStep r (fun r => op r x (val l)) l st
    let (more, st) := scanFold r one op val rest (some v) st
    ((l, v) :: more, st)

/-- The root of a tree delivered; a combination's result has met FZO already. -/
def treeRoot (one : Nat → FRes) (out : Option (Nat × Nat) × ScanState) : Nat × ScanState :=
  match out.1 with
  | none => (0, out.2)
  | some (l, x) => ((one x).bits, out.2.raise l (one x).flags)

/-- How a scan rounds: the code in AUX of a kind 3 leading word (R272). -/
def scanRound (s : State) : Round := roundOf (readRegs s).mode ((extraOf s.me.path.lead).aux % 8) false

/-- A scan's state at issue. -/
def scanStart (s : State) : ScanState := ⟨Vector.replicate 64 0, lfsrOf s⟩

/-- The end of a scan with the values each lane receives. -/
def scanEnd (s : State) (d : BitVec 7) (op : Nat) (st : ScanState) (val : Nat → Nat) : State :=
  floatEnd s (fun l => ⟨val l, vget st.flags l 0, vget st.lfsr l 0⟩) fun s =>
    if scanBits op = 64 then floatDest s d 64 (scanTag op) val
    else setDest s d (scanTag op) (op < 3) fun l => BitVec.ofNat 32 (val l)

/-- VSCAN (R93, R273). -/
def execVscan (d a : BitVec 7) (f : BitVec 4) (s : State) : Host.Outcome State Fault Refusal :=
  runFlow (.vscan d a f) s fun s =>
    let src := fSrc s 0 a.toNat
    let fzi := modeFzi (readRegs s).mode
    let out := scanFold (scanRound s) (scanOne f.toNat (scanRound s).fzo) (scanOp f.toNat fzi)
      (fun l => scanRead f.toNat fzi (floatSrc s src (scanBits f.toNat) l)) (lanesOf (p0 s)) none (scanStart s)
    scanEnd s d f.toNat out.2 fun l => valueOf out.1 l
where
  /-- A lane's value in the results. -/
  valueOf (l : List (Nat × Nat)) (lane : Nat) : Nat := (lookupNat lane l).getD 0

/-- VRED (R93, R273). -/
def execVred (d a : BitVec 7) (f : BitVec 4) (s : State) : Host.Outcome State Fault Refusal :=
  runFlow (.vred d a f) s fun s =>
    let src := fSrc s 0 a.toNat
    let fzi := modeFzi (readRegs s).mode
    let leaf (l : Nat) : Nat := scanRead f.toNat fzi (floatSrc s src (scanBits f.toNat) l)
    let leaves := lanes64.map fun l => if (p0 s).getLsbD l then some (l, leaf l) else none
    let out := treeRoot (scanOne f.toNat (scanRound s).fzo) (treeFold (scanRound s) (scanOp f.toNat fzi) 6 leaves (scanStart s))
    scanEnd s d f.toNat out.2 fun _ => out.1

end Sys2Proof.Machine
end

