-- ==== Sys2Proof/Machine/Memory.lean ====
section
/-! DEFINITION. The loads, stores, prefetches, exact adds and atomics of files 11 and 12: R284, R285, R288 to R299; and the
events that execute them at their homes (R104, R105, R113, R127). -/

namespace Sys2Proof.Machine

/-! ## Loads (R288 to R290) -/

/-- The addresses of an M word's lanes. -/
def wordAddrs (s : State) (base index : BitVec 5) (scale : BitVec 2) (disp : BitVec 6) (size lane : Nat) : Nat :=
  memAddr s.me (readRegs s) base index scale disp size lane

/-- A load of the active lanes, through CACHE or at the home (R290). -/
def loadWord (i : Instr) (data : BitVec 7) (base index : BitVec 5) (scale : BitVec 2) (disp : BitVec 6) (cached : Bool)
    (s : State) : Host.Outcome State Fault Refusal :=
  runWord i s fun s =>
    let t := memType s.me.path.lead data
    let size := typeSize t
    (access .read true anyKind size (wordAddrs s base index scale disp size) (lanesOf (p0 s)) s).bind fun q =>
      (loadsWait s).bind fun _ =>
        (loadSpots cached q.2 q.1).bind fun u => .ok (writeLoaded u.1 (dataReg data) t size (valueAt u.2))

/-- LDG (R290). -/
def execLdg (data : BitVec 7) (base index : BitVec 5) (scale : BitVec 2) (disp : BitVec 6) (s : State) :
    Host.Outcome State Fault Refusal := loadWord (.ldg data base index scale disp) data base index scale disp true s

/-- LDG.F (R290): at the home, neither hitting nor filling CACHE. -/
def execLdgF (data : BitVec 7) (base index : BitVec 5) (scale : BitVec 2) (disp : BitVec 6) (s : State) :
    Host.Outcome State Fault Refusal := loadWord (.ldgF data base index scale disp) data base index scale disp false s

/-- LDK (R290, R294): one read at the lowest lane, its value in every lane of p0. -/
def execLdk (data : BitVec 7) (base : BitVec 5) (scale : BitVec 2) (disp : BitVec 6) (s : State) :
    Host.Outcome State Fault Refusal :=
  runWord (.ldk data base scale disp) s fun s =>
    let t := memType s.me.path.lead data
    let size := typeSize t
    let lane := electedLane s
    (access .read true noMmio size (wordAddrs s base 31#5 scale disp size) [lane] s).bind fun q =>
      (loadsWait s).bind fun _ =>
        (loadSpots true q.2 q.1).bind fun u =>
          .ok (writeLoaded u.1 (dataReg data) t size fun _ => valueAt u.2 lane)

/-- PREF of one lane (R292): a fill sent for its line, when its address faults in nothing and its page allows CACHE. -/
def prefLane (s : State) (va lane : Nat) : State :=
  match (Res.check (formTrap va 4 lane)).bind fun _ => spotOf .read true noHost va 4 lane s with
  | .ok (t, a) =>
    match a.parts with
    | p :: _ =>
      match leaseAt t p with
      | some lease => if t.flight.any fun q => q.task == t.task.tid && q.pa / 128 == p.pa / 128 && !q.writes then t
                      else post t p lease .fill
      | none => t
    | [] => t
  | _ => s

/-- PREF (R292). -/
def execPref (base index : BitVec 5) (scale : BitVec 2) (disp : BitVec 6) (s : State) : Host.Outcome State Fault Refusal :=
  runWord (.pref base index scale disp) s fun s =>
    .ok ((lanesOf (p0 s)).foldl (fun t l => prefLane t (wordAddrs s base index scale disp 4 l) l) s)

/-! ## Stores (R291) -/

/-- STG (R291). A write past the version quota raises trap 0x18 (R110). -/
def execStg (data : BitVec 7) (base index : BitVec 5) (scale : BitVec 2) (disp : BitVec 6) (s : State) :
    Host.Outcome State Fault Refusal :=
  runWord (.stg data base index scale disp) s fun s =>
    let r := readRegs s
    let size := typeSize (memType s.me.path.lead data)
    (access .write false anyKind size (wordAddrs s base index scale disp size) (lanesOf (p0 s)) s).bind fun q =>
      storeSpots q.1 q.2 (storeBytes r (dataReg data) size) (trapHere s 0x18 0)

/-! ## The pad (R293) -/

/-- LDP (R293). -/
def execLdp (data : BitVec 7) (base index : BitVec 5) (scale : BitVec 2) (disp : BitVec 6) (s : State) :
    Host.Outcome State Fault Refusal :=
  runWord (.ldp data base index scale disp) s fun s =>
    let t := memType s.me.path.lead data
    let size := typeSize t
    let lanes := lanesOf (p0 s)
    let off := wordAddrs s base index scale disp size
    (Res.check (firstTrap (fun l => padTrap s.task (off l) size l) lanes)).bind fun _ =>
      (padReadWait s lanes off size).bind fun _ =>
        .ok (writeLoaded s (dataReg data) t size fun l => padNat s.task (off l) size)

/-- STP (R293): lanes in ascending order, the higher lane last (R99). -/
def execStp (data : BitVec 7) (base index : BitVec 5) (scale : BitVec 2) (disp : BitVec 6) (s : State) :
    Host.Outcome State Fault Refusal :=
  runWord (.stp data base index scale disp) s fun s =>
    let r := readRegs s
    let size := typeSize (memType s.me.path.lead data)
    let lanes := lanesOf (p0 s)
    let off := wordAddrs s base index scale disp size
    (Res.check (firstTrap (fun l => padTrap s.task (off l) size l) lanes)).bind fun _ =>
      (padWriteWait s lanes off size).bind fun _ =>
        .ok { s with task := lanes.foldl (fun t l => padWrite t (off l) (storeBytes r (dataReg data) size l)) s.task }

/-! ## Sum cells (R284, R285) -/

/-- The type of XSUM's elements (R284). -/
def xsumType (l : Lead) (data : BitVec 7) : Nat :=
  if (extraOf l).typ = 31 then (if data.getLsbD 6 then 10 else 5) else (extraOf l).typ

/-- The addends of a lane, in element order. -/
def xsumAddends (r : Regs) (t reg lane : Nat) : List Addend :=
  if typeBits t = 64 then [cellValue t 64 ((vLane r reg lane).toNat + 2 ^ 32 * (vLane r (reg + 1) lane).toNat)]
  else (List.range (32 / typeBits t)).map fun k => cellValue t (typeBits t) (elemOf (typeBits t) (vLane r reg lane) k)

/-- XSUM (R284): each element's exact add sent to its cell's home, in ascending lanes and elements, behind the task's own earlier writes
to the lines (R185). A cell in a line that cannot be read raises trap 0x21, and no add is made (R389; log entry 73). -/
def execXsum (data : BitVec 7) (base index : BitVec 5) (scale : BitVec 2) (disp : BitVec 6) (s : State) :
    Host.Outcome State Fault Refusal :=
  runWord (.xsum data base index scale disp) s fun s =>
    let r := readRegs s
    let t := xsumType s.me.path.lead data
    (access .rmw false noHost 64 (wordAddrs s base index scale disp 64) (lanesOf (p0 s)) s).bind fun q =>
      (flushParts (q.2.flatMap fun a => a.parts) q.1).bind fun u =>
        (Res.check (spotsTrap u q.2)).bind fun _ => .ok (expose (q.2.foldl (fun s a =>
          a.parts.foldl (fun s p => (xsumAddends r t (dataReg data) a.lane).foldl (fun s v => post s p 0 (.exactAdd v)) s) s) u))

/-- SUMRD (R285): of a global cell at its home, or of a pad cell at the pool atomic unit. -/
def execSumrd (data : BitVec 7) (base index : BitVec 5) (scale : BitVec 2) (disp : BitVec 6) (s : State) :
    Host.Outcome State Fault Refusal :=
  runWord (.sumrd data base index scale disp) s fun s =>
    let t := if data.getLsbD 6 then 11 else 10
    let lanes := lanesOf (p0 s)
    let addr := wordAddrs s base index scale disp 64
    let write (s : State) (val : Nat → Nat) : State :=
      if t = 11 then setVPair s (dataReg data) .f64 fun l => BitVec.ofNat 64 (cellRead (fmtOf 11) (val l))
      else setV s (dataReg data) .f32 fun l => BitVec.ofNat 32 (cellRead (fmtOf 10) (val l))
    if (extraOf s.me.path.lead).aux % 2 = 1 then
      (Res.check (firstTrap (fun l => padTrap s.task (addr l) 64 l) lanes)).bind fun _ =>
        (padReadWait s lanes addr 64).bind fun _ => .ok (write s fun l => padNat s.task (addr l) 64)
    else
      (access .read false noMmio 64 addr lanes s).bind fun q =>
        (loadsWait s).bind fun _ =>
          (loadSpots false q.2 q.1).bind fun u => .ok (write u.1 (valueAt u.2))

/-! ## Atomics (R295 to R299) -/

/-- The address an atomic forms at a lane: its register's form and the index THIRD, through its pattern (R68), with the scale in AUX
(R295). -/
def atomAddr (s : State) (areg : BitVec 5) (lane : Nat) : Nat :=
  let r := readRegs s
  let e := extraOf s.me.path.lead
  let i := if e.third = 0 then 0
    else (src32 s.me r 32 (srcOf r s.me.path.lead 2 e.third) lane).toNat * 2 ^ (e.aux % 4)
  wrapInt 64 (Int.ofNat ((formLane s.me (aReg r areg.toNat) lane).toNat + i))

/-- The operand of an atomic at a lane. -/
def atomOperand (s : State) (b : BitVec 7) (bits lane : Nat) : Nat :=
  let r := readRegs s
  let src := srcB r s.me.path.lead b
  if bits = 64 then (src64 s.me r src lane).toNat else (src32 s.me r 32 src lane).toNat

/-- The compare value of CAS at a lane, which D supplies. -/
def atomCompare (s : State) (d : BitVec 7) (bits lane : Nat) : Nat :=
  let r := readRegs s
  let src : Src := if isA d then .form (aCode r d) else .vreg d.toNat none
  if bits = 64 then (src64 s.me r src lane).toNat else (src32 s.me r 32 src lane).toNat

/-- The lanes an atomic executes in: each lane of p0, or once at the lowest for an a-register result (R298). -/
def atomLanes (s : State) (d : BitVec 7) : List Nat := if isA d then [electedLane s] else lanesOf (p0 s)

/-- The tag an atomic writes (R296). -/
def atomTag (t : Nat) : Tag := typeTag t

/-- Old values written to D (R297, R298). -/
def writeAtom (s : State) (d : BitVec 7) (t : Nat) (lane : Nat) (val : Nat → Nat) : State :=
  if isA d then
    setUniform s d (if t = 5 then BitVec.ofInt 64 (signedOf 32 (val lane)) else BitVec.ofNat 64 (val lane)) (atomTag t)
  else if typeBits t = 64 then setVPair s d.toNat (atomTag t) fun l => BitVec.ofNat 64 (val l)
  else setV s d.toNat (atomTag t) fun l => BitVec.ofNat 32 (val l)

/-- The memory types ATOMG refuses (R297). -/
def atomBad (f : BitVec 4) (bits : Nat) : PaKind → Bool := fun k => k == .mmio || (k == .host && f == 8#4 && bits == 64)

/-- Old values written but in the lanes that report an error (R394). -/
def writeAtomBut (s : State) (d : BitVec 7) (t : Nat) (lost : List Nat) (val : Nat → Nat) : State :=
  if isA d then s
  else
    let mask := p0 s &&& maskWhere fun l => !lost.contains l
    if typeBits t = 64 then
      setVMask (setVMask s d.toNat mask (atomTag t) fun l => BitVec.ofNat 32 (val l)) (d.toNat + 1) mask (atomTag t)
        fun l => BitVec.ofNat 32 (val l / 2 ^ 32)
    else setVMask s d.toNat mask (atomTag t) fun l => BitVec.ofNat 32 (val l)

/-- ATOMG as its homes answer: done in every lane, or trap 0x19 at the lowest erring lane, with APPLIED when every erring lane's
effect is confirmed (R113, R394). -/
def atomgEnd (s : State) (d : BitVec 7) (t : Nat) (spots : List Spot) (bad applied : List Nat) (val : Nat → Nat) : State :=
  match leastBy (fun k => k) bad with
  | none => wordDone (writeAtom s d t (electedLane s) val)
  | some lane =>
    let va := ((spots.find? fun a => a.lane == lane).map fun a => a.va).getD 0
    let s := { s with me := { s.me with netError := none } }
    wordTrap (writeAtomBut s d t bad val) (trapLane 0x19 (bitNat (bad.all fun k => applied.contains k)) va lane)

/-- ATOMG (R297): one read-modify-write per lane at its location's home. -/
def execAtomg (d : BitVec 7) (areg : BitVec 5) (b : BitVec 7) (f : BitVec 4) (s : State) :
    Host.Outcome State Fault Refusal :=
  runFlow (.atomg d areg b f) s fun s =>
    let t := atomType s.me.path.lead f
    let bits := typeBits t
    let run : Res (State × List Spot × List Nat × List Nat × List (Nat × Nat)) :=
      (access .rmw false (atomBad f bits) (bits / 8) (atomAddr s areg) (atomLanes s d) s).bind fun q =>
        (waitAtomic q.1 (q.2.flatMap fun a => a.parts)).bind fun _ =>
          (Res.check (spotsTrap q.1 q.2)).bind fun _ =>
            let net := netLanes q.1 q.2
            (atomSpots f.toNat t bits (atomOperand s b bits) (atomCompare s d bits)
              (net.1.filter fun k => !net.2.contains k) q.2 q.1).bind fun u => .ok (expose u.1, q.2, net.1, net.2, u.2)
    match run with
    | .ok (u, spots, bad, applied, olds) => atomgEnd u d t spots bad applied (valueAt olds)
    | .trap k => wordTrap s k
    | .stall w => wordStall s w

/-- ATOMP (R299): on the task's own pad. -/
def execAtomp (d : BitVec 7) (areg : BitVec 5) (b : BitVec 7) (f : BitVec 4) (s : State) :
    Host.Outcome State Fault Refusal :=
  runWord (.atomp d areg b f) s fun s =>
    let t := atomType s.me.path.lead f
    let bits := typeBits t
    let lanes := atomLanes s d
    let off := atomAddr s areg
    (Res.check (firstTrap (fun l => padTrap s.task (off l) (bits / 8) l) lanes)).bind fun _ =>
      (padReadWait s lanes off (bits / 8)).bind fun _ =>
        (padWriteWait s lanes off (bits / 8)).bind fun _ =>
          let u := padAtoms f.toNat t bits off (atomOperand s b bits) (atomCompare s d bits) lanes s.task
          .ok (writeAtom { s with task := u.1 } d t (electedLane s) (valueAt u.2))

/-- Address formation of ATOMR (R287, R299). -/
def remoteTrap (addr size lane : Nat) : Option Trap :=
  if addr % size ≠ 0 then some (trapLane 0x08 0 addr lane)
  else if 2 ^ 24 ≤ addr then some (trapLane 0x0A 18 addr lane)
  else none

/-- ATOMR (R299): sent to the peer, whose pool atomic unit executes it; the word waits for the answer. -/
def execAtomr (d : BitVec 7) (areg : BitVec 5) (b : BitVec 7) (f : BitVec 4) (s : State) :
    Host.Outcome State Fault Refusal :=
  runFlow (.atomr d areg b f) s fun s =>
    let t := atomType s.me.path.lead f
    let bits := typeBits t
    let lanes := atomLanes s d
    match firstTrap (fun l => remoteTrap (atomAddr s areg l) (bits / 8) l) lanes with
    | some k => wordTrap s k
    | none =>
      if (remoteOf s s.me.id s.me.path.id).isSome then s
      else
        let entry (l : Nat) : Nat × Word64 × Word64 × Word64 :=
          (l, BitVec.ofNat 64 (atomAddr s areg l), BitVec.ofNat 64 (atomOperand s b bits l),
            BitVec.ofNat 64 (atomCompare s d bits l))
        wordStall { s with remote := s.remote ++ [⟨s.me.id, s.me.path.id, lanes.map entry, f.toNat, t, d⟩] } .remote

/-- A window with a right holds a location (R127, R310). -/
def inWindow (t : Task) (right : Window → Bool) (off n : Nat) : Bool :=
  t.windows.toList.any fun w => right w && decide (w.base ≤ off) && decide (off + n ≤ w.base + w.length)

/-- The peer of a lane admits its atomic (R299). -/
def remoteOk (s : State) (serial n : Nat) (l : RemoteLane) : Bool :=
  match peerTask s l.core serial with
  | none => false
  | some t => inWindow t (fun w => w.atomic) l.off n && padIn t l.off n

/-- The lanes of a remote atomic execute in order: the old value each receives, 0 without the read right (R299). -/
def remoteRun (serial op t n : Nat) : List RemoteLane → State → State × List (Nat × Nat)
  | [], s => (s, [])
  | l :: rest, s =>
    match peerTask s l.core serial with
    | none => remoteRun serial op t n rest s
    | some k =>
      let x := padNat k l.off n
      let s := putTask s (padWrite k l.off (bytesLE n (atomNew op t (8 * n) x l.y l.c)))
      let (s, more) := remoteRun serial op t n rest s
      (s, (l.lane, if inWindow k (fun w => w.read) l.off n then x else 0) :: more)

/-- The first lane of a remote atomic whose location holds an uncorrectable error at the peer (R70). -/
def remoteBad (s : State) (serial n : Nat) (ls : List RemoteLane) : Option RemoteLane :=
  ls.find? fun l => match peerTask s l.core serial with | none => false | some t => padBad t 0 l.off n

/-- A remote atomic's line is kept for the waiters that are served first, the atomic not being one of them (R56). -/
def remoteKept (s : State) (serial n : Nat) (ls : List RemoteLane) : Bool :=
  (linesAwaited s.me.path).isEmpty && ls.any fun l =>
    match peerTask s l.core serial with
    | none => false
    | some t => (linesOf l.off n).any (servedFirst s t)

/-- A clearing on a peer's core is moving a line that a remote atomic addresses (R52). -/
def remoteMoving (s : State) (serial : Nat) (ls : List RemoteLane) : Bool :=
  ls.any fun l =>
    (getCore s l.core).clearing.any fun c =>
      c.slots.contains (l.off / 16384) && (peerTask s l.core serial).any fun t => t.tid == c.task

/-! ## Events at homes -/

/-- An earlier write of the task must execute before a request: to the same line (R185), both to MMIO (R294), or both exact adds of one
context (R187). -/
def behindOther (s : State) (q : Req) : Bool :=
  (s.flight.takeWhile fun r => r != q).any fun r =>
    (r.task == q.task && r.writes && linesOrdered (r.pa / 128) (q.pa / 128)) || (r.ctx == q.ctx && r.isAdd && q.isAdd)

/-- A request in flight executes at its home, unless it waits for an earlier one, for the host or for a die in reset (R406, R419). -/
def serveAt (s : State) (p : Req → Bool) (n : Nat) : State :=
  match (s.flight.filter p)[n]? with
  | none => s
  | some q =>
    if behindOther s q then s
    else match if q.writes then q.held s else none with
    | some pa => sendBackInvalidate s pa
    | none =>
      if q.down s then s
      else serveReq { s with flight := eraseFirst (fun r => r == q) s.flight } q

/-- The task of a request goes on once its stores have ended (R35). -/
def settleReq (s : State) (p : Req → Bool) (n : Nat) : State :=
  match (s.flight.filter p)[n]? with
  | none => s
  | some q => settle (serveAt s p n) q.task

/-- HOME_LOAD (R104): the n-th prefetch fill in flight is served. -/
def execHomeLoad (n : Nat) (s : State) : Host.Outcome State Fault Refusal := .next (settleReq s (fun q => !q.writes) n)

/-- HOME_STORE (R105): the n-th store in flight executes. -/
def execHomeStore (n : Nat) (s : State) : Host.Outcome State Fault Refusal :=
  .next (settleReq s (fun q => match q.kind with | .store _ => true | _ => false) n)

/-- HOME_ATOMIC (R113): the n-th exact add in flight executes. -/
def execHomeAtomic (n : Nat) (s : State) : Host.Outcome State Fault Refusal :=
  .next (settleReq s (fun q => match q.kind with | .exactAdd _ => true | _ => false) n)

end Sys2Proof.Machine
end

