-- ==== Sys2Proof/Machine/Copies.lean ====
section
/-! DEFINITION. Copies (R116 to R124, R300 to R304, R425): the layout record and its checks, the elements a copy delivers,
the words CPY, CPYI, CSEAL, CWAIT and PEMPTY. The events that run the channels stand in Machine/Engines.lean. -/

namespace Sys2Proof.Machine

/-! ## Layout records (R117, R120) -/

/-- A layout record, with the extents, strides and box sizes of its dimensions (R117). -/
structure Layout where
  base : Nat
  ndim : Nat
  efmt : Nat
  rot : Nat
  dop : Nat
  dir : Nat
  sizes : List Nat
  strides : List Int
  boxes : List Nat
  fill : Nat
  deriving DecidableEq, Repr

/-- A field of a record. -/
def recField (rec : BitVec 512) (lo n : Nat) : Nat := bitsOf rec.toNat lo n

/-- The size of an element in bytes (R117). -/
def Layout.elem (l : Layout) : Nat := typeBits l.efmt / 8

/-- A record read (R117). -/
def layoutOf (rec : BitVec 512) : Layout :=
  let nd := recField rec 48 3
  let ef := recField rec 51 4
  { base := recField rec 0 48, ndim := nd, efmt := ef, rot := recField rec 55 4, dop := recField rec 59 3
    dir := recField rec 62 2
    sizes := (List.range nd).map fun d => recField rec (64 + 32 * d) 32
    strides := Int.ofNat (typeBits ef / 8) :: (List.range (nd - 1)).map fun d => signedOf 40 (recField rec (224 + 40 * d) 40)
    boxes := (List.range nd).map fun d => recField rec (384 + 8 * d) 8 + 1
    fill := recField rec 424 32 }

/-- The elements of the box. -/
def Layout.count (l : Layout) : Nat := l.boxes.foldl (fun n b => n * b) 1

/-- The checks of R120 that raise trap 0x01; `k` is the first coordinate register. -/
def layoutOk (rec : BitVec 512) (k : Nat) : Bool :=
  let l := layoutOf rec
  decide (1 ≤ l.ndim) && decide (l.ndim ≤ 5) && decide (l.efmt ≤ 13) && l.dir != 3 && l.dop != 7 && decide (l.rot ≤ 7)
    && decide (k + l.ndim ≤ 32)
    && (l.dop != 2 || decide (l.efmt ≤ 10))
    && (l.dop != 5 || (l.dir != 1 && l.fill % 2 ^ 21 % 8 == 0))
    && (l.dop != 6 || (l.dir != 1 && l.count * l.elem % 4096 == 0))
    && recField rec 456 56 == 0

/-- The bytes of the dense side (R118, R119). -/
def Layout.denseLen (l : Layout) : Nat :=
  if l.dir = 1 then l.count * l.elem
  else if l.dop = 2 then 64 * l.count else if l.dop = 6 then 8 * (l.count * l.elem / 4096) else l.count * l.elem

/-- An exact-sum copy whose cells are not 64-byte aligned (R120): the offending address. -/
def cellsMisaligned (l : Layout) (dense : Nat) : Option Nat :=
  if l.dop ≠ 2 then none
  else if l.dir ≠ 1 then (if dense % 64 = 0 then none else some dense)
  else if l.base % 64 ≠ 0 ∨ (l.strides.drop 1).any (fun x => x % 64 != 0) then some l.base
  else none

/-- The pad ranges a layout copy writes (R119, R425). -/
def layoutWrites (l : Layout) (dense : Nat) : List (Nat × Nat) :=
  (if l.dir = 0 ∧ l.dop ≠ 5 then [(dense, l.denseLen)] else []) ++ (if l.dop = 5 then [(l.fill % 2 ^ 21, 8)] else [])

/-- A pad side that leaves the pad space (R120): the offending offset. -/
def padSideOut (t : Task) (l : Layout) (dense : Nat) (barrier : Option Nat) : Option Nat :=
  let sides := layoutWrites l dense ++ (if l.dir < 2 then [(dense, l.denseLen)] else [])
    ++ (match barrier with | some b => [(b, 16)] | none => [])
  (sides.find? fun x => !padIn t x.1 x.2).map fun x => x.1

/-! ## The box (R118) -/

/-- The coordinates of an element by its linear index. -/
def boxIndex : List Nat → Nat → List Nat
  | [], _ => []
  | b :: bs, n => n % b :: boxIndex bs (n / b)

/-- A coordinate lies outside its extent. -/
def outOfBounds : List Int → List Nat → Bool
  | c :: cs, n :: ns => decide (c < 0) || decide (Int.ofNat n ≤ c) || outOfBounds cs ns
  | _, _ => false

/-- The sum of coordinates times strides. -/
def strideSum : List Int → List Int → Int
  | c :: cs, x :: xs => c * x + strideSum cs xs
  | _, _ => 0

/-- The global address of an element, none out of bounds; an exact-sum's cells under DIR 1 lie 64 bytes apart (R119). -/
def elemAddr (l : Layout) (coords : List Int) (n : Nat) : Option Nat :=
  let cs := List.zipWith (fun c j => c + Int.ofNat j) coords (boxIndex l.boxes n)
  let strides := if l.dop = 2 ∧ l.dir = 1 then 64 :: l.strides.drop 1 else l.strides
  if outOfBounds cs l.sizes then none else some (wrapInt 64 (Int.ofNat l.base + strideSum cs strides))

/-- The elements in the order their destination bytes are delivered (R122). -/
def layoutOrder (l : Layout) (coords : List Int) : List Nat :=
  if l.dir = 1 then sortBy (fun n => (elemAddr l coords n).getD 0) (List.range l.count) else List.range l.count

/-! ## Global accesses of a copy (R121) -/

/-- A fault of a copy at an address. -/
def copyFault (code : BitVec 8) (detail addr : Nat) : Trap := trapLane code detail addr 64

/-- Consecutive bytes translated, line by line: at most `fuel` lines. -/
def lineParts (need : Need) (bad : PaKind → Bool) : Nat → Nat → Nat → State → Res (State × List Part)
  | 0, _, _, s => .ok (s, [])
  | fuel + 1, va, n, s =>
    let k := earlier n (128 - va % 128)
    (spotOf need false bad va k 64 s).bind fun q =>
      if k = n then .ok (q.1, q.2.parts)
      else (lineParts need bad fuel ((va + k) % 2 ^ 64) (n - k) q.1).bind fun u => .ok (u.1, q.2.parts ++ u.2)

/-- Consecutive bytes of an access of a copy or a drain translated. -/
def copyParts (need : Need) (bad : PaKind → Bool) (va n : Nat) (s : State) : Res (State × List Part) :=
  lineParts need bad (n / 128 + 2) va n s

/-- Bytes a copy reads: the current line, or the task's version bytes (R121). -/
def copyRead (va n : Nat) (s : State) : Res (State × List Byte × Nat) :=
  (copyParts .read anyKind va n s).bind fun q => loadParts false 64 q.2 q.1

/-- Bytes written to translated parts at their homes, or as version bytes (R105, R107): the latest WCT. -/
def writeParts : List Part → List Byte → State → State × Nat
  | [], _, s => (s, 0)
  | p :: ps, bytes, s =>
    let b := bytes.take p.len
    let (s, w) :=
      if toVersion s p then versionWrite s p b
      else
        let s := expose (noteMiss s s.task.part (some p.va) p.pa)
        let (s, w) := storeAtHome s s.task.part p.pa p.home b
        ({ s with core := cachePatch s.core s.task.tid p.pa w b }, w)
    let (s, v) := writeParts ps (bytes.drop p.len) s
    (s, later w v)

/-- Bytes a copy writes to global memory (R121): the WCT. -/
def copyWrite (va : Nat) (bytes : List Byte) (s : State) : Res (State × Nat) :=
  (copyParts .write anyKind va bytes.length s).bind fun q =>
    if !quotaOk q.1 q.2 then .trap (copyFault 0x18 0 va)
    else (flushParts q.2 q.1).bind fun s =>
      (waitHost s q.2).bind fun _ => .ok (writeParts q.2 bytes s)

/-- The memory types an indivisible operation of a copy refuses (R112, R113, R284). -/
def copyAtomBad (l : Layout) : PaKind → Bool := fun k =>
  k == .mmio || (k == .host && (l.dop == 2 || l.elem < 4 || (l.dop == 1 && l.efmt == 11)))

/-- Bytes of parts as their homes hold them. -/
def homeBytes : List Part → State → State × List Byte
  | [], s => (s, [])
  | p :: ps, s =>
    let (s, b, _) := readAtHome (moveForAtomic s p.pa) s.task.part p.pa p.home p.len
    let (s, more) := homeBytes ps s
    (s, b ++ more)

/-- Bytes written to parts at their homes: the latest WCT. -/
def homeWrite : List Part → List Byte → State → State × Nat
  | [], _, s => (s, 0)
  | p :: ps, bytes, s =>
    let (s, w) := storeAtHome s s.task.part p.pa p.home (bytes.take p.len)
    let (s, v) := homeWrite ps (bytes.drop p.len) (dropCache s (p.pa / 128))
    (s, later w v)

/-- An indivisible change of `n` bytes at their home (R119); it reads them, and so meets an error of their line (R389). -/
def copyAtomic (l : Layout) (va n : Nat) (f : List Byte → List Byte) (s : State) : Res (State × Nat) :=
  (copyParts .rmw (copyAtomBad l) va n s).bind fun q =>
    (flushParts q.2 q.1).bind fun s =>
      (waitAtomic s q.2).bind fun _ =>
        (Res.check ((q.2.find? fun p => lineBad s p.pa).map fun p => memoryTrap p.va 64)).bind fun _ =>
          let (s, old) := homeBytes q.2 (q.2.foldl (fun s p => noteMiss s s.task.part (some p.va) p.pa) s)
          .ok (homeWrite q.2 (f old) (expose s))

/-! ## The pad side (R46, R55, R121) -/

/-- Pad bytes read through a bank-rotation code (R46). -/
def rotRead (t : Task) (code off n : Nat) : List Byte := (List.range n).map fun k => t.pad.get (rotateOff code (off + k))

/-- Pad bytes written through a bank-rotation code, full/empty bits apart; they hold no error any more (R70). -/
def rotWrite (code : Nat) : Nat → List Byte → Task → Task
  | _, [], t => t
  | off, b :: bs, t =>
    let o := rotateOff code off
    rotWrite code (off + 1) bs { t with pad := t.pad.set o b, badPad := t.badPad.filter fun k => k != o }

/-- The lines that are complete once a copy's bytes [off, off + n) are written in ascending order (R121). -/
def linesDone (off n : Nat) (last : Bool) : List Nat :=
  (linesOf off n).filter fun k => last || decide (128 * (k + 1) ≤ off + n)

/-- A copy's pad read waits for empty lines (R55), and fails on an uncorrectable error (R70). -/
def copyPadWait (s : State) (code off n : Nat) : Res Unit :=
  (padFullWait s [64] (fun _ => off) n).bind fun _ =>
    Res.check (if padBad s.task code off n then some ⟨0x21, BitVec.ofNat 8 (roleCode .pad), 0, BitVec.ofNat 64 off, 64⟩ else none)

/-- A copy's pad write waits for earlier matrix operations of its context that read the line (R139), and for the waiters that are served
first, unless it is one of them (R56). -/
def copyFillWait (s : State) (c : Copy) (off n : Nat) : Res Unit :=
  if padMoving s off then .stall .clearing
  else if (linesOf off n).any (matHolds s fun o => o.task == c.task && o.ctx == c.ctx && decide (o.op < c.op)) then
    .stall .matrixRead
  else if (linesOf off n).any fun k => !(c.needs.any fun e => e.1 == k) && servedFirst s s.task k then .stall .served
  else .ok ()

/-- A copy's bytes put into the pad, with the lines they complete set full (R121). -/
def copyFill (s : State) (c : Copy) (code off : Nat) (bytes : List Byte) (last : Bool) : Res State :=
  (copyFillWait s c off bytes.length).bind fun _ =>
    .ok { s with task := setFull (rotWrite code off bytes s.task) (linesDone off bytes.length last) }

/-! ## Elements (R119) -/

/-- Add, min or max of two elements: the old value at the destination and the one delivered (R119). -/
def combine (l : Layout) (x y : Nat) : Nat :=
  let t := l.efmt
  let r : Round := ⟨1, false, false, false, 0⟩
  if t ≤ 7 then atomNew (if l.dop = 1 then 0 else if l.dop = 3 then 1 else 2) t (typeBits t) x y 0
  else if l.dop = 1 then (fAdd (fmtOf t) r false x y).bits
  else (fMinMax (l.dop == 4) (fmtOf t) r x y).bits

/-- The bytes an element out of bounds delivers (R118). DESIGN CHOICE (log entry 78): an element of 8 bytes takes FILL's four below four
bytes of zeros. -/
def fillBytes (l : Layout) : List Byte := bytesLE l.elem l.fill

/-- The source bytes of an element, with the WCT they bring. -/
def elemSource (l : Layout) (coords : List Int) (dense n : Nat) (s : State) : Res (State × List Byte × Nat) :=
  if l.dir = 1 then
    (copyPadWait s l.rot (dense + n * l.elem) l.elem).bind fun _ => .ok (s, rotRead s.task l.rot (dense + n * l.elem) l.elem, 0)
  else match elemAddr l coords n with
    | none => .ok (s, fillBytes l, 0)
    | some va => copyRead va l.elem s

/-- A fingerprint's sums with `n` bytes at a byte position of the block (R119): S0 in the low 64 bits, S1 above. -/
def fingerAdd (acc pos x : Nat) : Nat :=
  let y := x * 2 ^ (8 * (pos % 8)) % 2 ^ 64
  (acc % 2 ^ 64 + y) % 2 ^ 64 + 2 ^ 64 * ((acc / 2 ^ 64 + pos / 8 * y) % 2 ^ 64)

/-- The fingerprint of a block from its sums (R119). -/
def fingerWord (acc : Nat) : Nat := (acc % 2 ^ 64 + 3 * (acc / 2 ^ 64)) % 2 ^ 64

/-- A copy with a WCT received. -/
def Copy.heard (c : Copy) (w : Nat) : Copy := { c with wct := later c.wct w }

/-- One element of a compare (R119): the first difference is kept. -/
def compareElem (l : Layout) (coords : List Int) (dense n : Nat) (c : Copy) (s : State) : Res (State × Copy) :=
  match elemAddr l coords n with
  | none => .ok (s, c)
  | some va =>
    (copyRead va l.elem s).bind fun q =>
      let keep (c : Copy) (other : List Byte) : Copy := if c.acc = 0 ∧ q.2.1 ≠ other then { c with acc := n + 1 } else c
      let at_ := dense + n * l.elem
      if l.dir = 0 then
        (copyPadWait q.1 l.rot at_ l.elem).bind fun _ => .ok (q.1, keep (c.heard q.2.2) (rotRead q.1.task l.rot at_ l.elem))
      else (copyRead (at_ % 2 ^ 64) l.elem q.1).bind fun u => .ok (u.1, keep (c.heard (later q.2.2 u.2.2)) u.2.1)

/-- One element of a fingerprint (R119): at the end of a 4 KiB block its word is written. -/
def fingerElem (l : Layout) (coords : List Int) (dense n : Nat) (last : Bool) (c : Copy) (s : State) :
    Res (State × Copy) :=
  (elemSource l coords dense n s).bind fun q =>
    let pos := n * l.elem % 4096
    let acc := fingerAdd c.acc pos (ofBytesLE q.2.1)
    let c := c.heard q.2.2
    if pos + l.elem < 4096 then .ok (q.1, { c with acc := acc })
    else
      let at_ := dense + 8 * (n * l.elem / 4096)
      let word := bytesLE 8 (fingerWord acc)
      if l.dir = 0 then (copyFill q.1 c l.rot at_ word last).bind fun s => .ok (s, { c with acc := 0 })
      else (copyWrite (at_ % 2 ^ 64) word q.1).bind fun u => .ok (u.1, { c with acc := 0 }.heard u.2)

/-- One element of an exact sum (R95, R119). -/
def exactElem (l : Layout) (coords : List Int) (dense n : Nat) (c : Copy) (s : State) : Res (State × Copy) :=
  (elemSource l coords dense n s).bind fun q =>
    let v := cellValue l.efmt (typeBits l.efmt) (ofBytesLE q.2.1)
    let f (b : List Byte) : List Byte := bytesLE 64 (cellAdd (ofBytesLE b) v)
    let c := c.heard q.2.2
    if l.dir = 0 then
      (copyPadWait q.1 0 (dense + 64 * n) 64).bind fun _ =>
        (copyFill q.1 c 0 (dense + 64 * n) (f (padRead q.1.task (dense + 64 * n) 64)) true).bind fun s => .ok (s, c)
    else match (if l.dir = 1 then elemAddr l coords n else some ((dense + 64 * n) % 2 ^ 64)) with
      | none => .ok (q.1, c)
      | some va => (copyAtomic l va 64 f q.1).bind fun u => .ok (u.1, c.heard u.2)

/-- One element written, or combined with the destination's (R119). -/
def storeElem (l : Layout) (coords : List Int) (dense n : Nat) (last : Bool) (c : Copy) (s : State) : Res (State × Copy) :=
  (elemSource l coords dense n s).bind fun q =>
    let c := c.heard q.2.2
    let at_ := dense + n * l.elem
    let f (b : List Byte) : List Byte := bytesLE l.elem (combine l (ofBytesLE b) (ofBytesLE q.2.1))
    if l.dir = 0 then
      if l.dop = 0 then (copyFill q.1 c l.rot at_ q.2.1 last).bind fun s => .ok (s, c)
      else
        (copyPadWait q.1 l.rot at_ l.elem).bind fun _ =>
          (copyFill q.1 c l.rot at_ (f (rotRead q.1.task l.rot at_ l.elem)) last).bind fun s => .ok (s, c)
    else match (if l.dir = 1 then elemAddr l coords n else some (at_ % 2 ^ 64)) with
      | none => .ok (q.1, c)
      | some va =>
        if l.dop = 0 then (copyWrite va q.2.1 q.1).bind fun u => .ok (u.1, c.heard u.2)
        else (copyAtomic l va l.elem f q.1).bind fun u => .ok (u.1, c.heard u.2)

/-- One element of a layout copy. An element that lies out of bounds on the global destination is not delivered (R118). -/
def layoutElem (l : Layout) (coords : List Int) (dense n : Nat) (last : Bool) (c : Copy) (s : State) : Res (State × Copy) :=
  if l.dir = 1 ∧ elemAddr l coords n = none then .ok (s, c)
  else if l.dop = 5 then compareElem l coords dense n c s
  else if l.dop = 6 then fingerElem l coords dense n last c s
  else if l.dop = 2 then exactElem l coords dense n c s
  else storeElem l coords dense n last c s

/-- The mark a layout copy's channel shows after a number of elements (R122); none for a global destination. -/
def layoutMark (l : Layout) (dense sent : Nat) : Option Nat :=
  if l.dir ≠ 0 then none
  else some (dense + (if l.dop = 5 then 0 else if l.dop = 2 then 64 * sent
    else if l.dop = 6 then 8 * (sent * l.elem / 4096) else sent * l.elem))

/-! ## The words -/

/-- The leader of a word (R116): the lowest lane of PRED within p0, or of p0; a tract is its own leader. -/
def leaderOf (s : State) (pred : Nat) : Option Nat :=
  if !isStand s then some 64
  else lowestLane (if pred = 0 then p0 s else pReg s.me (readRegs s) pred &&& p0 s)

/-- An operation added to a batch family of the context, unsealed (R123, R140). -/
def newOp (s : State) (matrix : Bool) : State × Nat :=
  ({ s with
    nextOp := s.nextOp + 1
    task := { s.task with ops := s.task.ops ++ [⟨s.nextOp, s.me.id, matrix, none, false, none, 0⟩] } }, s.nextOp)

/-- A channel of the core under issue. -/
def channel (c : Core) (ch : Nat) : Channel := vget c.chans ch ⟨[], 0, 0, false⟩

/-- A copy queued on a channel, unsealed; the word stalls while the channel holds 16 (R301). -/
def queueCopy (s : State) (ch : Nat) (k : CopyKind) : Res State :=
  if 16 ≤ (channel s.core ch).queue.length then .stall .channel
  else
    let (s, op) := newOp s false
    let q := channel s.core ch
    .ok { s with core := { s.core with
      chans := vset s.core.chans ch { q with queue := q.queue ++ [⟨op, s.me.id, s.task.tid, k, false, 0, 0, 0, none, []⟩] } } }

/-- What CPY and CPYI do once the record's bytes are read (R120, R301). -/
def issueCopy (s : State) (lane ch k dense : Nat) (barrier : Option Nat) (bytes : List Byte) : Res State :=
  let layout := BitVec.ofNat 512 (ofBytesLE bytes)
  let l := layoutOf layout
  let coords := (List.range l.ndim).map fun d =>
    signedOf 32 (formLane s.me (aReg (readRegs s) (k + d)) (if lane = 64 then 0 else lane)).toNat
  if !layoutOk layout k then .trap (trapLane 0x01 0 (wordAddr s) lane)
  else match cellsMisaligned l dense with
    | some a => .trap (trapLane 0x08 0 a lane)
    | none =>
      match padSideOut s.task l dense barrier with
      | some a => .trap (trapLane 0x0A 16 a lane)
      | none => queueCopy s ch (.layout layout coords dense barrier)

/-- The value of an a-register code at a leader's item. -/
def atLeader (s : State) (c : Nat) (lane : Nat) : Nat :=
  (formLane s.me (aReg (readRegs s) (c - 64)) (if lane = 64 then 0 else lane)).toNat

/-- A coordinate register of a record is not uniform, so that a tract cannot issue the copy (R286). -/
def coordsVary (s : State) (k : Nat) (bytes : List Byte) : Bool :=
  !isStand s && (List.range (recField (BitVec.ofNat 512 (ofBytesLE bytes)) 48 3)).any fun d =>
    decide (k + d < 32) && !(aReg (readRegs s) (k + d)).isUniform

/-- CPY and CPYI (R116, R301): `readRec` reads the record at the leader's address. -/
def copyWord (i : Instr) (d a b : BitVec 7) (ch : BitVec 2) (readRec : State → Nat → Nat → Res (State × List Byte))
    (s : State) : Host.Outcome State Fault Refusal :=
  runFlow i s fun s =>
    let e := extraOf s.me.path.lead
    match leaderOf s e.pred with
    | none => wordDone s
    | some lane =>
      let ar := atLeader s d.toNat lane
      let dense := atLeader s a.toNat lane
      let bar := if e.aux = 1 then some (atLeader s e.third lane) else none
      if ar % 64 ≠ 0 then wordTrap s (trapLane 0x08 0 ar lane)
      else if bar.any fun x => x % 16 != 0 then wordTrap s (trapLane 0x08 0 (bar.getD 0) lane)
      else match readRec s ar lane with
        | .trap k => wordTrap s k
        | .stall w => wordStall s w
        | .ok (t, bytes) =>
          if coordsVary s (b.toNat - 64) bytes then toStands s
          else wordEnd s (issueCopy t lane ch.toNat (b.toNat - 64) dense bar bytes)

/-- CPY (R301): the record is read as LDG reads. -/
def execCpy (d a b : BitVec 7) (ch : BitVec 2) (s : State) : Host.Outcome State Fault Refusal :=
  copyWord (.cpy d a b ch) d a b ch (fun s ar lane => readOnce s ar 64 lane true) s

/-- CPYI (R301): the record is read from the pad and waits for an empty line. -/
def execCpyi (d a b : BitVec 7) (ch : BitVec 2) (s : State) : Host.Outcome State Fault Refusal :=
  copyWord (.cpyi d a b ch) d a b ch
    (fun s ar lane =>
      (Res.check (padTrap s.task ar 64 lane)).bind fun _ =>
        (padReadWait s [lane] (fun _ => ar) 64).bind fun _ => .ok (s, padRead s.task ar 64)) s

/-- CSEAL (R123, R302). -/
def execCseal (s : State) : Host.Outcome State Fault Refusal := runWord .cseal s fun s => sealBatch s false

/-- The first fault of a batch: of the operation issued earliest (R120, R140). -/
def batchFault (t : Task) (b : Batches) (n : Nat) : Option Trap :=
  (leastBy (fun o => o.id) (t.ops.filter fun o => inBatch b n o && o.done && o.fault.isSome)).bind fun o => o.fault

/-- The latest WCT of a batch. -/
def batchWct (t : Task) (b : Batches) (n : Nat) : Nat :=
  (t.ops.filter (inBatch b n)).foldl (fun w o => later w o.wct) 0

/-- A wait for batch `n` of a family (R124, R140): it waits while the batch is pending, raises its first fault once, and
else brings its WCTs. The bit of FAILB stays where an earlier word of the chain has raised the trap that is taken (R303). -/
def waitBatch (s : State) (matrix : Bool) (n : Nat) : State :=
  let b := if matrix then s.me.matBat else s.me.copyBat
  if batchPending s.task b n then wordStall s .batch
  else
    let s := if matrix then raiseHorizon s (batchWct s.task b n) else raiseWrite s (batchWct s.task b n)
    match if batchFailed s.task b n then batchFault s.task b n else none with
    | none => wordDone s
    | some k =>
      let b := if s.me.path.pend.isNone then { b with taken := b.taken ||| (1#16 <<< n) } else b
      let me := if matrix then { s.me with matBat := b } else { s.me with copyBat := b }
      wordTrap { s with me := me } { k with lane := electedLane s }

/-- CWAIT (R124, R303). -/
def execCwait (b : BitVec 7) (s : State) : Host.Outcome State Fault Refusal :=
  runFlow (.cwait b) s fun s => waitBatch s false b.toNat

/-- The pad ranges a queued copy writes: a tile load fills its colour and depth. -/
def copyWrites (tileRanges : Word64 → BitVec 512 → List (Nat × Nat)) (c : Copy) : List (Nat × Nat) :=
  match c.kind with
  | .layout rec _ dense _ => layoutWrites (layoutOf rec) dense
  | .tileLoad tile rec => tileRanges tile rec
  | .tileStore _ _ => []

/-- Two ranges of pad meet. -/
def rangesMeet (x y : Nat × Nat) : Bool := decide (x.1 < y.1 + y.2) && decide (y.1 < x.1 + x.2) && x.2 != 0 && y.2 != 0

/-- The copies of a task that a core has not ended. -/
def copiesOf (c : Core) (tid : Nat) : List Copy :=
  (c.chans.toList.flatMap fun q => q.queue).filter fun k => k.task == tid

end Sys2Proof.Machine
end

