-- ==== Sys2Proof/Machine/Control.lean ====
section
/-! DEFINITION. Control words (file 10): transfers, branches with splits and divergence (R15 to R17, R26 to R28, R230 to
R234), joins and rejoins (R27, R31, R32), the end of items (R35), traps and handlers (R254 to R256), special registers (R249
to R251), and the words for indices, time and places (R245 to R248). LAUNCH stands in Machine/Launch.lean. -/

namespace Sys2Proof.Machine

/-! ## Plain words -/

/-- NOP (R257). -/
def execNop (s : State) : Host.Outcome State Fault Refusal := runWord .nop s fun s => .ok s

/-- XPFX (R212, R257): the leading word joins those before it, and the next word of the chain follows. -/
def execXpfx (kind : BitVec 3) (payload : BitVec 22) (s : State) : Host.Outcome State Fault Refusal :=
  match s.me.path.run with
  | some (k, _ :: c :: rest) =>
    .next (mapPath s fun p => { p with run := some (k, c :: rest), lead := addLead p.lead kind payload })
  | _ => .next (wordTrap s (trapHere s 0x01 0))

/-- MATL (R237): the tract materialises for it; in a stand it does nothing. -/
def execMatl (s : State) : Host.Outcome State Fault Refusal := runWord .matl s fun s => .ok s

/-- TIME (R247). -/
def execTime (d : BitVec 7) (s : State) : Host.Outcome State Fault Refusal :=
  runWord (.time d) s fun s => .ok (setUniform s d (BitVec.ofNat 64 (myTime s)) .int32)

/-- LANEID (R246). -/
def execLaneid (d : BitVec 7) (s : State) : Host.Outcome State Fault Refusal :=
  runWord (.laneid d) s fun s => .ok (setV s d.toNat .int32 fun l => BitVec.ofNat 32 l)

/-- The form of an index dimension (R245), folded in a stand (R22). -/
def indexForm (c : Context) (k : Nat) : AReg :=
  let f : AReg := if k = 0 then ⟨0, 1, 0, 0, .int32⟩ else if k = 1 then ⟨0, 0, 1, 0, .int32⟩ else ⟨0, 0, 0, 1, .int32⟩
  if c.kind = .stand then foldForm f c.box.y0 c.box.z0 else f

/-- IDX (R245). -/
def execIdx (d b : BitVec 7) (s : State) : Host.Outcome State Fault Refusal :=
  runWord (.idx d b) s fun s => .ok (setACode s d (indexForm s.me b.toNat))

/-- What LOCQ reports of a translation (R248). -/
def locqWord (x : Xlat) : Word64 :=
  let home := xlatHome x
  let host := paKind x.pa == some .host || paKind x.pa == some .mmio
  BitVec.ofNat 64 (
    (if host then 0 else home / 64 + atBit (home % 64) 2) + atBit (bitNat host) 8
      + atBit (bitNat (paKind x.pa == some .mmio)) 9 + atBit (bitNat (entryFar x.entry)) 10
      + atBit (entryReach x.entry) 11 + atBit (bitNat (entryVersioned x.entry)) 14
      + atBit (bitNat (paKind x.pa == some .near && entryIlv x.entry)) 15)

/-- LOCQ (R248): a translation without an access. -/
def execLocq (d a : BitVec 7) (s : State) : Host.Outcome State Fault Refusal :=
  runWord (.locq d a) s fun s =>
    let va := (aCode (readRegs s) a).base.toNat
    if va < 4096 ∧ s.task.epblen ≤ va then .trap (trapAt s 0x0A 19 va)
    else match translate s s.task.part (if va < 4096 then s.task.epb + va else va) .look with
      | .error f => Res.xlat f va (electedLane s)
      | .ok (s, x) => .ok (setUniform s d (locqWord x) .int32)

/-- XSET (R251): one field of XC. -/
def execXset (d b : BitVec 7) (s : State) : Host.Outcome State Fault Refusal :=
  runWord (.xset d b) s fun s =>
    let lo := 6 * d.toNat
    let n := if d.toNat = 3 then 3 else 6
    .ok (mapRegs s fun r => { r with
      xc := BitVec.ofNat 64 (r.xc.toNat - bitsOf r.xc.toNat lo n * 2 ^ lo + b.toNat % 2 ^ n * 2 ^ lo) })

/-! ## Transfers (R230 to R234) -/

/-- BRA (R231). -/
def execBra (disp : BitVec 16) (s : State) : Host.Outcome State Fault Refusal :=
  runWord (.bra disp) s fun s => .ok (goTo s (branchTarget s disp))

/-- CALL (R234): a full return stack raises trap 0x01. -/
def execCall (disp : BitVec 16) (s : State) : Host.Outcome State Fault Refusal :=
  runWord (.call disp) s fun s =>
    if 16 ≤ s.me.path.ret.length then .trap (trapHere s 0x01 0)
    else .ok (goTo (mapPath s fun p => { p with ret := fallThrough s :: p.ret }) (branchTarget s disp))

/-- RET (R234): an empty return stack raises trap 0x01. -/
def execRet (s : State) : Host.Outcome State Fault Refusal :=
  runWord .ret s fun s =>
    match s.me.path.ret with
    | [] => .trap (trapHere s 0x01 0)
    | t :: rest => .ok (goTo (mapPath s fun p => { p with ret := rest }) t)

/-- LOOP (R231): the counter is written before it is tested. -/
def execLoop (reg : BitVec 5) (disp : BitVec 16) (s : State) : Host.Outcome State Fault Refusal :=
  runWord (.loop reg disp) s fun s =>
    let n := (aReg (readRegs s) reg.toNat).base - 1
    .ok (goTo (setA s reg.toNat (uniform n .int32)) (if n = 0 then fallThrough s else branchTarget s disp))

/-- The join packet a kind 1 leading word names (R212, R232). -/
def joinOf (s : State) : Option (BitVec 32) := s.me.path.lead.join.map fun j => branchTarget s j

/-- A path of the context under issue that stands at a packet with a mask. -/
def pathAt (s : State) (pc : BitVec 32) (mask : Word64) : Path :=
  { s.me.path.settled with pc := pc, slot := 0, mask := mask }

/-- A branch of a path with taken lanes (R232). -/
def branchPath (s : State) (taken : Word64) (target : BitVec 32) : State :=
  if taken = 0 then wordDone (goTo s (fallThrough s))
  else if taken = p0 s then wordDone (goTo s target)
  else if (joinOf s).any (fun k => !packetJoins s k) || !divergeFits s.me (joinOf s) then wordTrap s (trapHere s 0x01 0)
  else
    { s with me := diverge s.me (pathAt s (fallThrough s) (p0 s &&& ~~~taken)) (pathAt s target taken) (joinOf s) }

/-- A BRC of a tract (R15 to R17): it moves or splits; one that materialises the tract has done so before (brcStands). -/
def branchTract (s : State) (cond : Nat) (f : AReg) (target : BitVec 32) : State :=
  if f.isUniform then wordDone (goTo s (if brcHolds cond f.base then target else fallThrough s))
  else match splitRuns s.me.box cond f with
    | none => wordDone s
    | some (k, runs) =>
      match runs with
      | [(_, _, t)] => wordDone (goTo s (if t then target else fallThrough s))
      | _ => wordEnd s (splitTract s (runs.map fun q =>
          (boxWith s.me.box k q.1 q.2.1, if q.2.2 then target else fallThrough s)))

/-- The lanes of p0 in which a BRC is taken (R231). -/
def brcTaken (s : State) (cond : BitVec 4) (reg : BitVec 5) : Word64 :=
  p0 s &&& maskWhere fun l => brcHolds cond.toNat (formLane s.me (aReg (readRegs s) reg.toNat) l)

/-- BRC (R15, R231, R232). -/
def execBrc (cond : BitVec 4) (reg : BitVec 5) (disp : BitVec 16) (s : State) : Host.Outcome State Fault Refusal :=
  runFlow (.brc cond reg disp) s fun s =>
    if isStand s then branchPath s (brcTaken s cond reg) (branchTarget s disp)
    else branchTract s cond.toNat (aReg (readRegs s) reg.toNat) (branchTarget s disp)

/-- The lanes of p0 in which a BRV is taken (R231). -/
def brvTaken (s : State) (sense : BitVec 1) (preg : BitVec 3) : Word64 :=
  let p := pReg s.me (readRegs s) preg.toNat
  p0 s &&& if sense = 0 then p else ~~~p

/-- BRV (R26, R231, R232). -/
def execBrv (sense : BitVec 1) (preg : BitVec 3) (disp : BitVec 16) (s : State) : Host.Outcome State Fault Refusal :=
  runFlow (.brv sense preg disp) s fun s => branchPath s (brvTaken s sense preg) (branchTarget s disp)

/-- The lanes of a mask whose target equals that of its lowest lane, and that target (R233). -/
def firstGroup (target : Nat → BitVec 32) (mask : Word64) : Word64 × BitVec 32 :=
  let t := target ((lowestLane mask).getD 0)
  (mask &&& maskWhere fun l => target l == t, t)

/-- The record for which a path issues its BRX again, while it stands (R233). -/
def brxRecord (c : Context) : Option Record :=
  match c.path.serial with
  | none => none
  | some k => (recordsOf c c.path.id).find? fun r => r.id == k && r.others.isNone

/-- The target groups of a BRX (R233): each time the group of the lowest lane goes its way, in a path of its own, or under
serialisation first with the rest held for later. The rest stands at the BRX until its turn, with the packet and the registers of its issue
(R200, R209). -/
def brxGroups (s : State) (target : Nat → BitVec 32) : Nat → Option (BitVec 32) → Context → Option Context
  | 0, _, _ => none
  | fuel + 1, join, c =>
    let g := firstGroup target c.path.mask
    let rest := c.path.mask &&& ~~~g.1
    let gone : Path := { pathAt s g.2 g.1 with id := c.path.id, serial := none }
    let left : Path := { c.path.settled with
      mask := rest, run := some (packetOf s.me.path, wordSlots s.me.path), serial := none
      words := s.me.path.words, first := s.me.path.snap }
    if rest = 0 then some { c with path := gone }
    else if serialises c then
      match brxRecord c with
      | some r =>
        some { c with path := gone, recs := updateFirst (fun q => q.id == r.id) (fun q => { q with others := some { left with serial := some r.id } }) c.recs }
      | none =>
        if divergeFits c join then some (diverge c gone { left with serial := some c.nextRec } join) else none
    else if divergeFits c join then
      brxGroups s target fuel none (diverge c { left with id := c.path.id } gone join)
    else none

/-- The join that a BRX's first divergence pushes a record for; the lanes that issue it again after a serialised one descend from that
record (R233). -/
def brxJoin (s : State) : Option (BitVec 32) := if s.me.path.serial.isSome then none else joinOf s

/-- The target of a BRX at a lane, with the bits that must be 0 (R230). -/
def brxTarget (s : State) (a : BitVec 7) (lane : Nat) : Word64 :=
  let r := readRegs s
  if isA a then formLane s.me (aCode r a) lane else (src32 s.me r 32 (srcOf r s.me.path.lead 0 a.toNat) lane).setWidth 64

/-- BRX (R230, R232, R233). -/
def execBrx (a : BitVec 7) (s : State) : Host.Outcome State Fault Refusal :=
  runFlow (.brx a) s fun s =>
    let target (l : Nat) : BitVec 32 := (brxTarget s a l).setWidth 32
    if !isStand s then
      if 2 ^ 32 ≤ (brxTarget s a 0).toNat then wordTrap s (trapHere s 0x01 0) else wordDone (goTo s (target 0))
    else if (lanesOf (p0 s)).any fun l => decide (2 ^ 32 ≤ (brxTarget s a l).toNat) then wordTrap s (trapHere s 0x01 0)
    else
      let g := firstGroup target (p0 s)
      if g.1 = p0 s then wordDone (mapPath (goTo s g.2) fun p => { p with serial := none })
      else if (brxJoin s).any (fun k => !packetJoins s k) then wordTrap s (trapHere s 0x01 0)
      else match brxGroups s target 65 (brxJoin s) s.me with
        | some c => { s with me := c }
        | none => wordTrap s (trapHere s 0x01 0)

/-- A transfer that ends its path or context, or divides it: it does not go one way in every lane, or in every item (R16, R26, R35). -/
def divides (i : Instr) (s : State) : Bool :=
  let parts (taken : Word64) : Bool := taken != 0 && taken != p0 s
  match i with
  | .exit | .hret => true
  | .brc cond reg _ =>
    if isStand s then parts (brcTaken s cond reg)
    else
      let f := aReg (readRegs s) reg.toNat
      !f.isUniform && (splitRuns s.me.box cond.toNat f).any fun q => q.2.length != 1
  | .brv sense preg _ => parts (brvTaken s sense preg)
  | .brx a => isStand s && (firstGroup (fun l => (brxTarget s a l).setWidth 32) (p0 s)).1 != p0 s
  | _ => false

/-! ## JOIN, RJOIN, YIELD, EXIT (R27, R31, R32, R35, R238) -/

/-- The innermost record of a path that names a join. -/
def innerJoin (c : Context) : Option Record := (recordsOf c c.path.id).find? fun r => r.join.isSome

/-- JOIN (R27, R234, R235). -/
def execJoin (s : State) : Host.Outcome State Fault Refusal :=
  runFlow .join s fun s =>
    match innerJoin s.me with
    | none => wordDone s
    | some r =>
      if !isStand s || r.join != some (packetOf s.me.path) then wordDone s
      else if r.ret.any fun t => t != s.me.path.ret then wordTrap s (trapHere s 0x01 0)
      else
        let path := { s.me.path.settled with wait := .join r.id }
        let c := { s.me with
          path := path
          recs := updateFirst (fun q => q.id == r.id) (fun q => { q with ret := some path.ret }) s.me.recs }
        match settlePaths c (path :: c.paths) with
        | some c => { s with me := c }
        | none => endContext s

/-- A mask's lanes are one run. -/
def isRun (mask : Word64) : Bool :=
  match lanesOf mask with
  | [] => false
  | l :: rest => (rest.zipIdx (l + 1)).all fun q => q.1 == q.2

/-- The value form of a register over active lanes (R31): none when its tag is 15 or its values are no form. DESIGN CHOICE (log entry
70): a single active lane, which every slope fits, has slope 0. -/
def liveForm (c : Context) (reg : Nat) : Option VForm :=
  let t := vTag c.regs reg
  match lanesOf c.path.mask with
  | [] => none
  | l :: rest =>
    let val (j : Nat) : Word32 := vLane c.regs reg j
    let s := match rest with | [] => 0 | k :: _ => val k - val l
    let b := val l - s * BitVec.ofNat 32 (c.box.x0 + l)
    if t != .invalid && (l :: rest).all fun j => b + s * BitVec.ofNat 32 (c.box.x0 + j) == val j then some ⟨reg, b, s, t⟩
    else none

/-- The live registers' forms, all of them or none. -/
def liveForms (c : Context) : List Nat → Option (List VForm)
  | [] => some []
  | k :: ks =>
    match liveForm c k, liveForms c ks with
    | some f, some l => some (f :: l)
    | _, _ => none

/-- The context holds no open batch: every copy and matrix operation it issued is sealed. -/
def allSealed (t : Task) (ctx : Nat) : Bool := t.ops.all fun o => !(o.ctx == ctx && o.batch.isNone)

/-- The checks of R31 on a stand; the value forms where they hold. -/
def rejoinForms (s : State) (first n : Nat) : Option (List VForm) :=
  let c := s.me
  if c.paths.isEmpty && c.recs.isEmpty && isRun c.path.mask && allSealed s.task c.id
      && c.regs.m.toList.all (fun m => m.bank.isNone) then
    liveForms c ((List.range n).map fun k => first + k)
  else none

/-- A stand turned into a tract piece over its active run (R31). -/
def toPiece (c : Context) (forms : List VForm) : Context :=
  let l := (lowestLane c.path.mask).getD 0
  { c with
    kind := .tract, file := none
    box := { c.box with x0 := c.box.x0 + l, x1 := c.box.x0 + l + countLanes c.path.mask }
    seams := [], cursor := (0, 0, 0), sealedOnce := false
    regs := { Regs.reset with a := c.regs.a, vforms := forms, mode := c.regs.mode, xc := c.regs.xc, budget := c.regs.budget }
    path := { c.path with mask := 0 } }

/-- The boxes of two pieces, the lower first, are adjacent: the dimension in which they meet. -/
def meetDim (a b : Box) : Option Nat :=
  let eqX := a.x0 == b.x0 && a.x1 == b.x1
  let eqY := a.y0 == b.y0 && a.y1 == b.y1
  let eqZ := a.z0 == b.z0 && a.z1 == b.z1
  if a.x1 = b.x0 && eqY && eqZ then some 0
  else if eqX && a.y1 = b.y0 && eqZ then some 1
  else if eqX && eqY && a.z1 = b.z0 then some 2
  else none

/-- The seams of the merge of two pieces that meet in a dimension: none where the merge is not made for them (R32). -/
def mergedSeams (a b : Context) (k : Nat) : Option (List Nat) :=
  if k = 0 then
    let l := a.seams ++ (b.seams.filter fun m => !a.seams.contains m)
    let l := if a.box.x1 % 64 = 0 ∨ l.contains a.box.x1 then l else l ++ [a.box.x1]
    if l.length ≤ 8 then some (sortBy id l) else none
  else if a.seams = b.seams then some a.seams else none

/-- The value forms of the registers that an RJOIN names, `n` from the first on. -/
def namedForms (l : List VForm) (first n : Nat) : List VForm :=
  l.filter fun f => decide (first ≤ f.reg) && decide (f.reg < first + n)

/-- Two pieces at one RJOIN agree in what a merge needs (R32, R234), the value forms in those that it names. -/
def rejoinEqual (s : State) (first n : Nat) (a b : Context) : Bool :=
  a.task == b.task && a.path.pc == b.path.pc && a.path.slot == b.path.slot && a.frame.isNone && b.frame.isNone
    && a.regs.a == b.regs.a && namedForms a.regs.vforms first n == namedForms b.regs.vforms first n && a.regs.mode == b.regs.mode && a.regs.xc == b.regs.xc
    && a.regs.budget == b.regs.budget && batchWord s.task a.copyBat == batchWord s.task b.copyBat
    && batchWord s.task a.matBat == batchWord s.task b.matBat && a.path.ret == b.path.ret
    && allSealed s.task a.id && allSealed s.task b.id

/-- The batches of two pieces with equal counters (R32). -/
def mergeBatches (a b : Batches) : Batches :=
  { a with
    ids := Vector.ofFn fun n => a.ids[n] ++ (b.ids[n]).filter fun k => !(a.ids[n]).contains k
    taken := a.taken ||| b.taken }

/-- The later end of two waits. -/
def laterWait (v w : Wait) : Wait :=
  match v, w with
  | .rejoin x, .rejoin y => .rejoin (later x y)
  | _, _ => v

/-- The merge of two pieces, the lower first, or none (R32). DESIGN CHOICE (log entry 91): of the value forms that the RJOIN does not
name the merged tract keeps those that both pieces hold alike. -/
def mergePieces (s : State) (first n : Nat) (a b : Context) : Option Context :=
  match meetDim a.box b.box with
  | none => none
  | some k =>
    match mergedSeams a b k with
    | none => none
    | some seams =>
      if rejoinEqual s first n a b && decide ((pendingOf s a.id).length + (pendingOf s b.id).length ≤ 8) then
        some { a with
          box := { a.box with x1 := b.box.x1, y1 := b.box.y1, z1 := b.box.z1 }
          regs := { a.regs with vforms := a.regs.vforms.filter fun f => b.regs.vforms.contains f }
          seams := seams, horizon := later a.horizon b.horizon, loadAfter := later a.loadAfter b.loadAfter
          calloutH := later a.calloutH b.calloutH, callout := a.callout || b.callout
          path := { a.path with wait := laterWait a.path.wait b.path.wait }
          copyBat := mergeBatches a.copyBat b.copyBat, matBat := mergeBatches a.matBat b.matBat }
      else none

/-- A tract piece that waits at an RJOIN. -/
def atRejoin (c : Context) : Bool := c.kind == .tract && (match c.path.wait with | .rejoin _ => true | _ => false)

/-- The merge of the context under issue with a waiting neighbour, if there is one: the merged tract and the one that goes. -/
def findMerge (s : State) (first n : Nat) : List Context → Option (Context × Context)
  | [] => none
  | c :: rest =>
    match if atRejoin c && c.id != s.me.id then
        (match mergePieces s first n s.me c with
         | some m => some (m, c)
         | none => (mergePieces s first n c s.me).map fun m => (m, c))
      else none with
    | some q => some q
    | none => findMerge s first n rest

/-- Merging repeats while neighbours wait (R32). The merged tract keeps the lower piece's slot; the other slot is free. -/
def mergeAll (first n : Nat) : Nat → State → State
  | 0, s => s
  | fuel + 1, s =>
    match findMerge s first n s.ctxs with
    | none => s
    | some (m, c) =>
      let goes := if m.id = c.id then s.me.id else c.id
      mergeAll first n fuel { s with
        me := m
        ctxs := (s.ctxs.filter fun d => d.id != c.id).map fun d =>
          if d.kind = .pending ∧ d.holder = goes then { d with holder := m.id } else d }

/-- The piece under issue waits at its RJOIN for neighbours (R32). -/
def waitRejoin (s : State) (first n : Nat) : State :=
  let s := wordDone s
  mergeAll first n 64 (mapPath s fun p => { p with wait := .rejoin (myTime s) })

/-- RJOIN (R31, R32, R236): a failed check, and a handler, leave the context as it was. A tract keeps its value forms, named or not, and
goes on with them where no merge is made. -/
def execRjoin (a b : BitVec 7) (s : State) : Host.Outcome State Fault Refusal :=
  runFlow (.rjoin a b) s fun s =>
    if s.me.frame.isSome then wordDone s
    else if !isStand s then waitRejoin s a.toNat b.toNat
    else match rejoinForms s a.toNat b.toNat with
      | none => wordDone s
      | some forms =>
        match flushCtx s s.me.id with
        | .ok s => waitRejoin { s with me := toPiece s.me forms } a.toNat b.toNat
        | .stall w => wordStall s w
        | .trap k => wordTrap s k

/-- The other contexts of the core that wait for nothing and could issue now. -/
def readyOthers (s : State) : List Nat :=
  ((ctxsOn s s.task.core).filter fun c => c.id != s.me.id && (c.kind == .tract || c.kind == .stand) && c.test.isNone
    && (pathsOf c).any (fun p => p.wait == .none)
    && (match getTask s c.task with | some t => t.phase == .running | none => false)).map fun c => c.id

/-- YIELD (R238): the path is held for 64 core clocks, or until each other context that is ready now has issued once. -/
def execYield (s : State) : Host.Outcome State Fault Refusal :=
  runWord .yield s fun s =>
    .ok (mapPath s fun p => { p with held := some (myTime s + clocksNs s s.task.core 64, readyOthers s) })

/-- EXIT (R35, R239, R393): in a handler it aborts the task. -/
def execExit (s : State) : Host.Outcome State Fault Refusal :=
  runFlow .exit s fun s =>
    match s.me.frame with
    | some f => abortTask s s.task.tid f.trap ⟨0, f.slot, f.pc, false, false, false, 0, 0⟩
    | none => if isStand s then endPath s else endTract s

/-! ## Traps and handlers (R254 to R256) -/

/-- TRAP (R254): trap 0x28 with its number. -/
def execTrap (b : BitVec 7) (s : State) : Host.Outcome State Fault Refusal :=
  runWord (.trap b) s fun s => .trap (trapHere s 0x28 b.toNat)

/-- HRET (R255, R393). -/
def execHret (s : State) : Host.Outcome State Fault Refusal :=
  runFlow .hret s fun s =>
    match s.me.frame with
    | some f => returnFromHandler s f
    | none => wordTrap s (trapHere s 0x01 0)

/-- LREAD (R256); a pattern of its source maps the lane (R68). -/
def execLread (d a b : BitVec 7) (s : State) : Host.Outcome State Fault Refusal :=
  runWord (.lread d a b) s fun s =>
    let r := readRegs s
    let lane := (aCode r b).base.toNat
    if !isStand s || decide (64 ≤ lane) then .trap (trapHere s 0x01 0)
    else
      let src := srcOf r s.me.path.lead 0 a.toNat
      .ok (setUniform s d ((src32 s.me r 32 src lane).setWidth 64) ((srcTags r src 1).headD .raw))

/-- LWRITE (R256): the register's tag and its other lanes stay. -/
def execLwrite (d a b : BitVec 7) (s : State) : Host.Outcome State Fault Refusal :=
  runWord (.lwrite d a b) s fun s =>
    let r := readRegs s
    let lane := (aCode r a).base.toNat
    if !isStand s || decide (64 ≤ lane) then .trap (trapHere s 0x01 0)
    else .ok (setVMask s d.toNat (BitVec.ofNat 64 (2 ^ lane)) (vTag s.me.regs d.toNat) fun _ => (aCode r b).base.setWidth 32)

/-! ## Predicates (R244) -/

/-- A p register word: pd[L] for L in p0. -/
def predWord (i : Instr) (pd : BitVec 3) (s : State) (val : Word64) : Host.Outcome State Fault Refusal :=
  runWord i s fun s => .ok (setP s pd.toNat val)

/-- PAND (R244). -/
def execPand (pd pa pb : BitVec 3) (s : State) : Host.Outcome State Fault Refusal :=
  predWord (.pand pd pa pb) pd s (pReg s.me (readRegs s) pa.toNat &&& pReg s.me (readRegs s) pb.toNat)
/-- POR (R244). -/
def execPor (pd pa pb : BitVec 3) (s : State) : Host.Outcome State Fault Refusal :=
  predWord (.por pd pa pb) pd s (pReg s.me (readRegs s) pa.toNat ||| pReg s.me (readRegs s) pb.toNat)
/-- PXOR (R244). -/
def execPxor (pd pa pb : BitVec 3) (s : State) : Host.Outcome State Fault Refusal :=
  predWord (.pxor pd pa pb) pd s (pReg s.me (readRegs s) pa.toNat ^^^ pReg s.me (readRegs s) pb.toNat)
/-- PNOT (R244). -/
def execPnot (pd pa : BitVec 3) (s : State) : Host.Outcome State Fault Refusal :=
  predWord (.pnot pd pa) pd s (~~~(pReg s.me (readRegs s) pa.toNat))

/-- The lowest lane of a p register within p0. -/
def firstOf (s : State) (pa : BitVec 3) : Option Nat := lowestLane (pReg s.me (readRegs s) pa.toNat &&& p0 s)

/-- PCNT (R244). -/
def execPcnt (d : BitVec 7) (pa : BitVec 3) (s : State) : Host.Outcome State Fault Refusal :=
  runWord (.pcnt d pa) s fun s =>
    .ok (setUniform s d (BitVec.ofNat 64 (countLanes (pReg s.me (readRegs s) pa.toNat &&& p0 s))) .int32)

/-- PFIRST to an a-register (R244): 64 when the set is empty. -/
def execPfirstA (d : BitVec 7) (pa : BitVec 3) (s : State) : Host.Outcome State Fault Refusal :=
  runWord (.pfirstA d pa) s fun s => .ok (setUniform s d (BitVec.ofNat 64 ((firstOf s pa).getD 64)) .int32)

/-- PFIRST to a p register (R244). -/
def execPfirstP (pd pa : BitVec 3) (s : State) : Host.Outcome State Fault Refusal :=
  runWord (.pfirstP pd pa) s fun s =>
    .ok (setP s pd.toNat (match firstOf s pa with | some l => BitVec.ofNat 64 (2 ^ l) | none => 0))

/-- The active lanes whose value is not zero (R244). -/
def ballotMask (s : State) (a : BitVec 7) : Word64 :=
  let r := readRegs s
  p0 s &&& maskWhere fun l => src32 s.me r 32 (srcOf r s.me.path.lead 0 a.toNat) l != 0

/-- BALLOT (R244). -/
def execBallot (d a : BitVec 7) (s : State) : Host.Outcome State Fault Refusal :=
  runWord (.ballot d a) s fun s =>
    .ok (if isA d then setUniform s d (ballotMask s a) .int32 else setP s d.toNat (ballotMask s a))

/-! ## Special registers (R223, R249, R250) -/

/-- PREQ (R390): a request waits for this handler. -/
def preqBit (s : State) : Nat := bitNat (s.task.preqAt.isSome && s.me.frame.isSome)

/-- Special register 13 (R357). -/
def regionWord (s : State) : Nat :=
  match getRegion s s.task.region with
  | some r => s.task.region % 4096 + atBit (s.task.part % 64) 12 + atBit (r.prio % 16) 18 + atBit (r.level % 8) 22
  | none => s.task.region % 4096 + atBit (s.task.part % 64) 12

/-- Special register 14 (R54). -/
def gladeWord (s : State) : Nat :=
  let n (r : Role) : Nat := (ownBanks s.core s.task.tid r).length
  n .reg + atBit (n .pad) 7 + atBit (n .cache) 14 + atBit (n .fifo) 21 + atBit (n .tile) 26
    + atBit ((List.range 96).filter (fun b => (bankAt s.core b).role == .off && !(bankAt s.core b).out
        && bankPart s s.core.id b == s.task.part)).length 32
    + atBit ((freeFiles s s.task).length % 128) 40

/-- Special registers 16 to 19 (R122). -/
def chanWord (s : State) (k : Nat) : Nat :=
  let c := vget s.core.chans k ⟨[], 0, 0, false⟩
  c.mark.toNat + atBit c.done.toNat 32 + atBit (bitNat c.fail) 48

/-- Special register 20 (R169): the mark of the tile named last; of a tile that is not registered, a free value. -/
def markWord (s : State) : Nat :=
  match s.me.lastTile with
  | none => 0
  | some t =>
    match s.core.merge.find? fun g => g.task == s.task.tid && bitsOf g.tile.toNat 0 21 == t with
    | some g => g.mark % 2 ^ 32
    | none => s.me.lastMark % 2 ^ 32

/-- The value of a special register (R223, R249). -/
def specialReg (s : State) (n : Nat) : Word64 :=
  let r := readRegs s
  match n with
  | 0 => r.mode
  | 1 => r.xc
  | 2 => BitVec.ofNat 64 s.me.horizon
  | 3 => BitVec.ofNat 64 (myTime s)
  | 4 => BitVec.ofNat 64 (s.me.box.x0 % 2 ^ 32)
  | 5 => if isStand s then p0 s else 0
  | 6 => BitVec.ofNat 64 s.task.tid
  | 7 => batchWord s.task s.me.copyBat
  | 8 => batchWord s.task s.me.matBat
  | 9 => (s.me.cause &&& ~~~0x80_0000#64) ||| BitVec.ofNat 64 (atBit (preqBit s) 23)
  | 10 => s.me.causeAddr
  | 11 => s.me.causeLane
  | 12 => r.budget
  | 13 => BitVec.ofNat 64 (regionWord s)
  | 14 => BitVec.ofNat 64 (gladeWord s)
  | 15 => vget s.dev.caps s.task.part 0
  | 16 => BitVec.ofNat 64 (chanWord s 0)
  | 17 => BitVec.ofNat 64 (chanWord s 1)
  | 18 => BitVec.ofNat 64 (chanWord s 2)
  | 19 => BitVec.ofNat 64 (chanWord s 3)
  | _ => BitVec.ofNat 64 (markWord s)

/-- GETS (R249). -/
def execGets (d b : BitVec 7) (s : State) : Host.Outcome State Fault Refusal :=
  runWord (.gets d b) s fun s => .ok (setUniform s d (specialReg s b.toNat) .int32)

/-- The value keeps a special register's own rule (R67, R82, R175, R250). -/
def setsOk (n : Nat) (x : Word64) : Bool :=
  match n with
  | 0 => decide (1 ≤ x.toNat % 8) && decide (x.toNat % 8 ≤ 6) && decide (x.toNat < 2 ^ 32)
  | 1 => decide (x.toNat < 2 ^ 21)
  | 12 => decide (1 ≤ x.toNat) && decide (x.toNat < 2 ^ 16)
  | _ => true

/-- A special register written (R250). The mode register reseeds every lane's LFSR (R82); the other words of a chain of several still
round with the old state (R228). Reserved fields, and PREQ, stay 0 (R7, R390). -/
def setSpecial (s : State) (n : Nat) (x : Word64) : State :=
  match n with
  | 0 =>
    let old := lfsrOf s
    mapPath (mapRegs s fun r => { r with mode := x, lfsr := seedLanes x }) fun p =>
      { p with reseed := p.snap.isSome, snap := p.snap.map fun r => { r with lfsr := old } }
  | 1 => mapRegs s fun r => { r with xc := x }
  | 9 => { s with me := { s.me with cause := x &&& 0x0063_FFFF#64 } }
  | 10 => { s with me := { s.me with causeAddr := x } }
  | 11 => { s with me := { s.me with causeLane := x &&& 0x7F#64 } }
  | 12 => mapRegs s fun r => { r with budget := x }
  | _ => s

/-- SETS (R250). -/
def execSets (a b : BitVec 7) (s : State) : Host.Outcome State Fault Refusal :=
  runWord (.sets a b) s fun s =>
    let x := (aCode (readRegs s) a).base
    if setsOk b.toNat x then .ok (setSpecial s b.toNat x) else .trap (trapHere s 0x01 0)

end Sys2Proof.Machine
end

