-- ==== Sys2Proof/Machine/Launch.lean ====
section
/-! DEFINITION. Semaphores (R311), regions and the command window (R354 to R358), queues (R359, R360), launches from dequeue
to completion record (R361 to R370), and LAUNCH (R252). Records of system software are read through partition 0 (log entry
21). -/

namespace Sys2Proof.Machine

/-- The control die's clock. -/
def controlClock (s : State) : Nat := clockOf s 4

/-- Bits of a record. -/
def recBits {n : Nat} (r : BitVec n) (lo k : Nat) : Nat := bitsOf r.toNat lo k

/-- A launch by serial. -/
def getLaunch (s : State) (serial : Nat) : Option Launch := s.dev.launches.find? fun g => g.serial == serial

/-! ## Semaphores (R311) -/

/-- A semaphore; one that nothing has touched holds 0 (R311). -/
def semOf (s : State) (num : Nat) : Sem := (s.dev.sems.find? fun m => m.num == num).getD ⟨num, 0, 0, []⟩

/-- A semaphore replaced. -/
def putSem (s : State) (m : Sem) : State :=
  { s with dev := { s.dev with sems := m :: s.dev.sems.filter fun k => k.num != m.num } }

/-- A semaphore signalled by n with a stamp (R311). -/
def semSignal (s : State) (num n stamp : Nat) : State :=
  let m := semOf s num
  putSem s { m with value := earlier (m.value + n) (2 ^ 32 - 1), stamp := later m.stamp stamp }

/-- A waiter joins a semaphore's queue. -/
def semJoin (s : State) (num : Nat) (who : Nat × Nat) : State :=
  let m := semOf s num
  if m.waiters.contains who then s else putSem s { m with waiters := m.waiters ++ [who] }

/-- A waiter leaves a semaphore's queue. -/
def semLeave (s : State) (num : Nat) (who : Nat × Nat) : State :=
  let m := semOf s num
  putSem s { m with waiters := m.waiters.filter fun w => w != who }

/-- The oldest waiter may take n now (R311). -/
def semServes (s : State) (num : Nat) (who : Nat × Nat) (n : Nat) : Bool :=
  (semOf s num).waiters.head? == some who && decide (n ≤ (semOf s num).value)

/-- n taken by a waiter, which leaves the queue. -/
def semTake (s : State) (num : Nat) (who : Nat × Nat) (n : Nat) : State :=
  let s := semLeave s num who
  let m := semOf s num
  putSem s { m with value := m.value - n }

/-- A semaphore lies in the range that a partition's descriptor bounds (R409); partition 0 has none. -/
def partSems (s : State) (part base count : Nat) : Bool :=
  part == 0 ||
    (let d := vget s.dev.cfg.parts part ⟨false, 0, 0, 0, 0, 0⟩
     decide (d.semBase ≤ base) && decide (base + count ≤ d.semBase + d.semCnt))

/-- A semaphore lies in the range a region grants (R311, R354), and in that of the region's own partition, whoever its range comes from
(R409). -/
def semGranted (s : State) (region num : Nat) : Bool :=
  match effective s region 8 with
  | none => false
  | some r =>
    decide (r.semBase ≤ num) && decide (num < r.semBase + r.semCnt)
      && (match getRegion s region with | some g => partSems s g.part num 1 | none => false)

/-! ## Commands (R358) -/

/-- Bring-up has reached READY: the command window and the queues accept work (R420). -/
def isReady (s : State) : Bool := s.dev.bringState == 6

/-- The status word a command ends with. -/
def commandDone (s : State) (seq : Word64) (code : Nat) : State :=
  { s with dev := { s.dev with status := (seq, BitVec.ofNat 8 code) } }

/-- A command's outcome: its code, and the state it leaves. A window that accepts no work drops it (R420). -/
def command (s : State) (resv : BitVec 56) (seq : Word64) (f : State → Nat × State) : Host.Outcome State Fault Refusal :=
  if !isReady s then .next s
  else if resv ≠ 0 then .next (commandDone s seq 1)
  else .next (commandDone (f s).2 seq (f s).1)

/-! ## REGLOAD, REGFREE (R354 to R356) -/

/-- A region as its control block describes it (R354). -/
def parseRegion (addr : Nat) (v : Nat) (parent : Option Nat) : Region where
  num := bitsOf v 80 12
  addr := addr
  parent := parent
  prio := bitsOf v 48 4
  part := bitsOf v 52 6
  level := bitsOf v 58 3
  state := 0
  inherit := BitVec.ofNat 9 (bitsOf v 64 9)
  cores := bitsOf v 128 10
  farPages := bitsOf v 138 29
  vquota := bitsOf v 192 32
  waitLim := bitsOf v 224 32
  budget := Vector.ofFn fun k => bitsOf v (256 + 17 * k.val) 17
  dieMask := BitVec.ofNat 4 (bitsOf v 384 4)
  clFirst := bitsOf v 388 5
  clLast := bitsOf v 393 5
  coreMask := BitVec.ofNat 8 (bitsOf v 398 8)
  lease := Vector.ofFn fun k => bitsOf v (448 + 16 * k.val) 16
  hcode := bitsOf v 512 48
  hentry := bitsOf v 560 16
  fring := bitsOf v 576 48
  frsize := bitsOf v 624 6
  frhead := BitVec.ofNat 32 (bitsOf v 640 32)
  frtail := BitVec.ofNat 32 (bitsOf v 672 32)
  semBase := bitsOf v 704 12
  semCnt := bitsOf v 716 13
  used := Vector.replicate 5 0
  cused := 0
  fused := 0
  lost := 0

/-- A placement set lies within another (R355). -/
def placeWithin (r p : Region) : Bool :=
  (r.dieMask &&& ~~~p.dieMask) == 0 && (r.coreMask &&& ~~~p.coreMask) == 0 && decide (p.clFirst ≤ r.clFirst)
    && decide (r.clLast ≤ p.clLast)

/-- A region's own semaphores lie in the range its partition's descriptor grants (R409). -/
def semsWithin (s : State) (r : Region) : Bool :=
  r.inherit.getLsbD 8 || r.semCnt == 0 || partSems s r.part r.semBase r.semCnt

/-- The rules of R355 on a region under its parent, and the semaphores of R409. -/
def regionOk (s : State) (r : Region) : Bool :=
  semsWithin s r && match r.parent with
  | none => r.inherit == 0 && r.level == 0
  | some k =>
    match getRegion s k with
    | none => false
    | some p =>
      (p.part == 0 || r.part == p.part) && r.level == p.level + 1
        && (r.inherit.getLsbD 4 || (match effective s k 4 with | some q => placeWithin r q | none => false))

/-- A reloaded region keeps what the device counts (R356). -/
def keepCounts (old new : Region) : Region :=
  { new with used := old.used, cused := old.cused, fused := old.fused, frhead := old.frhead, lost := old.lost }

/-- A region put into the tree cache; a reload makes it live again (R400). -/
def loadRegion (s : State) (r : Region) : State :=
  match getRegion s r.num with
  | some old =>
    let s := mapRegion s r.num fun _ => keepCounts old r
    if old.state = 0 then s else setRegionState s r.num 0
  | none => { s with dev := { s.dev with regions := s.dev.regions ++ [r] } }

/-- A command that the window takes has to wait for the block it reads (log entry 96). -/
def commandStall (s : State) (resv : BitVec 56) (va align n : Nat) : Option State :=
  if isReady s && resv == 0 && va % align == 0 then deviceStall s 0 va n else none

/-- REGLOAD (R354 to R356, R358). A block that is misaligned or does not read counts as a reserved field (log entry 23). -/
def execRegload (resv : BitVec 56) (arg0 _arg1 seq : Word64) (s : State) : Host.Outcome State Fault Refusal :=
  match commandStall s resv arg0.toNat 256 256 with
  | some t => .next t
  | none => command s resv seq fun s =>
    match if arg0.toNat % 256 = 0 then deviceRead s 0 arg0.toNat 256 else .error ⟨0, 0, 0⟩ with
    | .error _ => (1, s)
    | .ok (s, bytes) =>
      let v := ofBytesLE bytes
      let above := bitsOf v 0 48
      let parent := (s.dev.regions.find? fun r => r.addr == above).map fun r => r.num
      if above ≠ 0 ∧ parent = none then (2, s)
      else
        let r := parseRegion arg0.toNat v (if above = 0 then none else parent)
        if !regionOk s r then (2, s)
        else if (getRegion s r.num).isNone && decide (4096 ≤ s.dev.regions.length) then (3, s)
        else (0, loadRegion s r)

/-- A region still has children, queues or tasks (R358). -/
def regionBusy (s : State) (num : Nat) : Bool :=
  s.dev.regions.any (fun r => r.parent == some num) || s.dev.queues.any (fun q => q.region == num)
    || (liveTasks s ++ waitingTasks s).any (fun t => t.region == num) || s.dev.saved.any (fun k => k.task.region == num)

/-- USED, CUSED and FUSED as the control block holds them from bit 768 up (R354). -/
def countBits (r : Region) : Nat :=
  (List.range 5).foldl (fun n k => n + atBit (vget r.used k 0 % 2 ^ 17) (17 * k)) 0 + atBit (r.cused % 2 ^ 10) 85
    + atBit (r.fused % 2 ^ 29) 95

/-- The counts of a region written back to its block as it leaves the tree cache (R354, R356). -/
def regionWriteback (s : State) (r : Region) : State := deviceWrite s 0 (r.addr + 96) (bytesLE 16 (countBits r))

/-- REGFREE (R358); launches of the region that still wait for placement complete with status 5 (R367). -/
def execRegfree (resv : BitVec 56) (arg0 _arg1 seq : Word64) (s : State) : Host.Outcome State Fault Refusal :=
  command s resv seq fun s =>
    let num := arg0.toNat
    match getRegion s num with
    | none => (8, s)
    | some r =>
      if regionBusy s num then (4, s)
      else
        let s := cutLaunches (regionWriteback s r) fun g => g == num
        (0, { s with dev := { s.dev with regions := s.dev.regions.filter fun r => r.num != num } })

/-! ## Queues (R359, R360) -/

/-- A loaded queue. -/
def getQueue (s : State) (num : Nat) : Option Queue := s.dev.queues.find? fun q => q.num == num

/-- A queue replaced. -/
def putQueue (s : State) (q : Queue) : State :=
  { s with dev := { s.dev with queues := updateFirst (fun k => k.num == q.num) (fun _ => q) s.dev.queues } }

/-- Records a queue's ring holds. -/
def Queue.room (q : Queue) : Nat := 2 ^ (q.depth + 4)

/-- HEAD, TAIL and DROP written back into the descriptor (R359). -/
def queueWriteback (s : State) (q : Queue) : State :=
  deviceWrite (deviceWrite s 0 (q.desc + 8) (bytesLE 4 q.head.toNat ++ bytesLE 4 q.tail.toNat)) 0 (q.desc + 20)
    (bytesLE 4 q.drop.toNat)

/-- The queue has room for a record. -/
def Queue.hasRoom (q : Queue) : Bool := decide ((q.tail - q.head).toNat < q.room)

/-- A record appended to a queue that takes it (R360). -/
def appendRecord (s : State) (q : Queue) (rec : Nat) : State :=
  let s := deviceWrite s 0 (q.ring + 64 * (q.tail.toNat % q.room)) (bytesLE 64 rec)
  let q := { q with tail := q.tail + 1, stamps := q.stamps ++ [s.time] }
  let s := putQueue s q
  if q.tail.toNat % 256 = 0 then queueWriteback s q else s

/-- A queue as a descriptor describes it, with what an earlier load of it keeps (R359). -/
def parseQueue (num desc v : Nat) (old : Option Queue) : Queue where
  num := num
  ring := bitsOf v 0 48
  depth := bitsOf v 48 4
  region := bitsOf v 52 12
  head := match old with | some q => q.head | none => 0
  tail := match old with | some q => q.tail | none => 0
  en := bitAt v 128
  openAll := bitAt v 129
  serialised := bitAt v 130
  shdie := bitsOf v 131 3
  drop := match old with | some q => q.drop | none => 0
  desc := desc
  previous := match old with | some q => q.previous | none => none
  stamps := match old with | some q => q.stamps | none => []

/-- QSET (R358, R359). -/
def execQset (resv : BitVec 56) (arg0 arg1 seq : Word64) (s : State) : Host.Outcome State Fault Refusal :=
  match if 16383 < arg0.toNat then none else commandStall s resv arg1.toNat 64 64 with
  | some t => .next t
  | none => command s resv seq fun s =>
    let num := arg0.toNat
    if 16383 < num then (5, s)
    else match if arg1.toNat % 64 = 0 then deviceRead s 0 arg1.toNat 64 else .error ⟨0, 0, 0⟩ with
      | .error _ => (7, s)
      | .ok (s, bytes) =>
        let v := ofBytesLE bytes
        let q := parseQueue num arg1.toNat v (getQueue s num)
        if 5 ≤ q.shdie ∨ q.ring % 4096 ≠ 0 ∨ bitsOf v 134 26 ≠ 0 ∨ bitsOf v 192 320 ≠ 0 then (7, s)
        else if (getRegion s q.region).isNone then (5, s)
        else if q.room < (q.tail - q.head).toNat then (7, s)
        else (0, { s with dev := { s.dev with queues := q :: s.dev.queues.filter fun k => k.num != num } })

/-- QSTOP (R358, R359). -/
def execQstop (resv : BitVec 56) (arg0 _arg1 seq : Word64) (s : State) : Host.Outcome State Fault Refusal :=
  command s resv seq fun s =>
    match getQueue s arg0.toNat with
    | none => (5, s)
    | some q =>
      if (getRegion s q.region).isNone then (5, s)
      else (0, queueWriteback (putQueue s { q with en := false }) { q with en := false })

/-- SEMSET (R311, R358). -/
def execSemset (resv : BitVec 56) (arg0 arg1 seq : Word64) (s : State) : Host.Outcome State Fault Refusal :=
  command s resv seq fun s =>
    if 4095 < arg0.toNat then (6, s)
    else (0, putSem s { semOf s arg0.toNat with value := arg1.toNat % 2 ^ 32, stamp := controlClock s + 4 })

/-- HOST_SLOT_WRITE (R360): a host write of bytes at an offset of a queue's slot, `rec`. One of all 64 bytes appends a record where the queue
takes it; every other write counts in DROP. -/
def execHostSlotWrite (q : Nat) (rec : Nat × List Byte) (s : State) : Host.Outcome State Fault Refusal :=
  match getQueue s q with
  | none => .next s
  | some k =>
    if rec.1 = 0 ∧ rec.2.length = 64 ∧ (isReady s && k.en && k.hasRoom) = true then .next (appendRecord s k (ofBytesLE rec.2))
    else .next (putQueue s { k with drop := k.drop + 1 })

/-! ## LAUNCH (R252) -/

/-- A task's region may enqueue to a queue (R360). -/
def mayEnqueue (s : State) (t : Task) (q : Queue) : Bool :=
  inSubtree s q.region t.region
    || (q.openAll && (match getRegion s q.region with | some r => r.part == t.part | none => false))

/-- LAUNCH (R252): the code in ad, uniform with tag 1. -/
def execLaunch (d a b : BitVec 7) (s : State) : Host.Outcome State Fault Refusal :=
  runWord (.launch d a b) s fun s =>
    let aq := (aCode (readRegs s) a).base.toNat
    let ar := (aCode (readRegs s) b).base.toNat
    let code (s : State) (n : Nat) : Res State := .ok (setUniform s d (BitVec.ofNat 64 n) .int32)
    if ar % 64 ≠ 0 then .trap (trapAt s 0x08 0 ar)
    else if 16383 < aq then code s 2
    else if !fenceReady s then .stall .fence
    else (readOnce s ar 64 (electedLane s) true).bind fun q =>
      match getQueue q.1 aq with
      | none => code q.1 3
      | some k =>
        if !k.en || !isReady s then code q.1 3
        else if !mayEnqueue q.1 q.1.task k then code q.1 2
        else if !k.hasRoom then code q.1 1
        else code (expose (appendRecord q.1 k (ofBytesLE q.2))) 0

/-! ## Dequeue (R361 to R363, R368, R369) -/

/-- Nothing is placed on a compute die: it is in reset, or its orderly reset has begun (R406). -/
def dieIsDown (s : State) (die : Nat) : Bool := (vget s.dev.dieDown die none).isSome || vget s.dev.dieStop die false

/-- The die of a queue's shadow (R361). -/
def shadowDie (s : State) (q : Queue) : Nat :=
  if q.shdie < 4 then q.shdie
  else match effective s q.region 4 with
    | none => 0
    | some r => ((List.range 4).find? fun d => r.dieMask.getLsbD d).getD 0

/-- A queue may be dequeued (R368). -/
def eligible (s : State) (q : Queue) : Bool :=
  q.en && q.head != q.tail && !dieIsDown s (shadowDie s q)
    && (match getRegion s q.region with | some r => r.state == 0 | none => false)
    && (!q.serialised || (match q.previous with
      | none => true
      | some k => !s.dev.launches.any fun g => g.serial == k && g.queue == q.num))

/-- The queue the control die dequeues from: highest region priority, then the head record appended first (R368). -/
def nextQueue (s : State) : Option Queue :=
  let prio (q : Queue) : Nat := match getRegion s q.region with | some r => r.prio | none => 0
  leastBy (fun q => (15 - prio q) * 2 ^ 64 + q.stamps.headD 0) (s.dev.queues.filter (eligible s))

/-- The banks of a role in a glade plan (R43). -/
def planCount (plan : Nat) (r : Role) : Nat :=
  match r with
  | .reg => bitsOf plan 0 7
  | .pad => bitsOf plan 7 7
  | .cache => bitsOf plan 14 7
  | .fifo => bitsOf plan 21 5
  | .tile => bitsOf plan 26 6
  | .off => 0

/-- FSIZE of a plan. -/
def planFsize (plan : Nat) : Nat := bitsOf plan 32 2
/-- VIEWS of a plan. -/
def planViews (plan : Nat) : Bool := bitAt plan 34

/-- Banks of a plan in all. -/
def planSum (plan : Nat) : Nat :=
  planCount plan .reg + planCount plan .pad + planCount plan .cache + planCount plan .fifo + planCount plan .tile

/-- The limits of R43. -/
def planOk (plan : Nat) : Bool :=
  decide (1 ≤ planCount plan .reg) && decide (planCount plan .reg ≤ 96) && decide (planCount plan .pad ≤ 96)
    && decide (2 ≤ planCount plan .cache) && decide (planCount plan .cache ≤ 96) && decide (planCount plan .fifo ≤ 16)
    && decide (planCount plan .tile ≤ 32) && planFsize plan != 3 && (!planViews plan || planFsize plan == 2)
    && bitsOf plan 35 29 == 0 && decide (planSum plan ≤ 96)

/-- The box of a launch record (R9, R362). -/
def launchSizes (r : BitVec 512) : Nat × Nat × Nat := (recBits r 64 32 + 1, recBits r 96 32 + 1, recBits r 128 32 + 1)

/-- Quotient rounded up. -/
def ceilDiv (a b : Nat) : Nat := (a + b - 1) / b

/-- Piece width in windows (R369). -/
def pieceWidth (s : State) (region : Nat) (r : BitVec 512) : Nat :=
  if recBits r 176 8 ≠ 0 then recBits r 176 8
  else later 1 (ceilDiv (ceilDiv (launchSizes r).1 64) (later 1 (placementSet s region).length))

/-- Piece height in rows (R369). -/
def pieceHeight (r : BitVec 512) : Nat := later 1 (recBits r 184 8)

/-- Pieces along x and y (R369). -/
def pieceGrid (r : BitVec 512) (pwx : Nat) : Nat × Nat :=
  (ceilDiv (ceilDiv (launchSizes r).1 64) pwx, ceilDiv (launchSizes r).2.1 (pieceHeight r))

/-- Pieces in all. -/
def pieceTotal (r : BitVec 512) (pwx : Nat) : Nat := (pieceGrid r pwx).1 * (pieceGrid r pwx).2 * (launchSizes r).2.2

/-- The box of a piece (R369). -/
def pieceBox (r : BitVec 512) (pwx n : Nat) : Box :=
  let wx := (pieceGrid r pwx).1
  let hy := (pieceGrid r pwx).2
  let h := pieceHeight r
  let x := 64 * pwx * (n % wx)
  let y := h * (n / wx % hy)
  let z := n / (wx * hy)
  ⟨x, earlier (x + 64 * pwx) (launchSizes r).1, y, earlier (y + h) (launchSizes r).2.1, z, z + 1⟩

/-- The reserved bits, limits and grants of R363, step 2. -/
def recordOk (s : State) (region : Nat) (r : BitVec 512) (pwx : Nat) : Bool :=
  recBits r 175 1 == 0 && recBits r 253 3 == 0 && recBits r 428 20 == 0 && recBits r 0 12 == 0
    && decide (recBits r 160 13 ≤ 4096) && decide (recBits r 423 5 ≤ 20) && decide (recBits r 240 13 ≤ 4096)
    && (recBits r 396 1 == 0 || semGranted s region (recBits r 384 12))
    && (recBits r 409 1 == 0 || semGranted s region (recBits r 397 12))
    && (recBits r 422 1 == 0 || semGranted s region (recBits r 410 12))
    && decide (pieceTotal r pwx ≤ 2 ^ 24)

/-- A core could hold a plan when idle (R363, step 3). -/
def couldHold (s : State) (part plan core : Nat) : Bool :=
  let c := getCore s core
  let mine := (List.range 96).filter fun b => !(bankAt c b).out && bankPart s core b == part
  !c.out && decide (planCount plan .tile ≤ (mine.filter fun b => decide (b < 32)).length)
    && decide (planCount plan .fifo ≤ (mine.filter fun b => decide (80 ≤ b)).length) && decide (planSum plan ≤ mine.length)

/-- The status a launch gets at dequeue: 0 when it passes the checks of R363. -/
def launchStatus (s : State) (region part : Nat) (r : BitVec 512) (pwx : Nat) : Nat :=
  let plan := recBits r 256 64
  if !planOk plan then 1
  else if !recordOk s region r pwx then 2
  else if !(placementSet s region).any (couldHold s part plan) then 3
  else 0

/-- The semaphore waits a record enables (R365). -/
def launchWaits (r : BitVec 512) : List (Nat × Nat) :=
  (if recBits r 396 1 = 1 then [(recBits r 384 12, recBits r 320 32)] else [])
    ++ if recBits r 409 1 = 1 then [(recBits r 397 12, recBits r 352 32)] else []

/-- A launch as dequeued. -/
def makeLaunch (s : State) (q : Queue) (r : Region) (rec : BitVec 512) : Launch :=
  let pwx := pieceWidth s r.num rec
  let status := launchStatus s r.num r.part rec pwx
  { serial := s.dev.serial, queue := q.num, region := r.num, part := r.part, prio := r.prio, record := rec
    waits := if status = 0 then launchWaits rec else [], after := 0
    dealt := 0, turn := 4, shadow := Vector.replicate 4 [], back := []
    total := if status = 0 then pieceTotal rec pwx else 0, pwx := pwx, stopped := false, live := [], status := status
    faults := 0, placed := 0, horizon := 0 }

/-- The address of the record that leaves a queue next. -/
def Queue.headAt (q : Queue) : Nat := q.ring + 64 * (q.head.toNat % q.room)

/-- The record that leaves a queue next, and the state after its read; one whose address does not translate has no byte. -/
def headRecord (s : State) (q : Queue) : State × List Byte :=
  match deviceRead s 0 q.headAt 64 with | .ok x => x | .error _ => (s, [])

/-- LAUNCH_DEQUEUE (R361, R363, R368). A record that cannot be read yet stays in its queue (log entry 96). -/
def execLaunchDequeue (s : State) : Host.Outcome State Fault Refusal :=
  if !isReady s then .next s
  else match nextQueue s with
    | none => .next s
    | some q =>
      match getRegion s q.region, deviceStall s 0 q.headAt 64 with
      | none, _ => .next s
      | _, some t => .next t
      | some r, none =>
        let (s, bytes) := headRecord s q
        let g := makeLaunch s q r (BitVec.ofNat 512 (ofBytesLE bytes))
        let s := putQueue s { q with head := q.head + 1, stamps := q.stamps.drop 1, previous := some g.serial }
        .next { s with dev := { s.dev with serial := (g.serial + 1) % 2 ^ 24, launches := s.dev.launches ++ [g] } }

/-- LAUNCH_SEMAPHORE_WAIT (R365): the launch's next wait, as SEMW waits. -/
def execLaunchSemaphoreWait (serial : Nat) (s : State) : Host.Outcome State Fault Refusal :=
  match getLaunch s serial with
  | none => .next s
  | some g =>
    match g.waits with
    | [] => .next s
    | (num, n) :: rest =>
      let s := semJoin s num (0, serial)
      if semServes s num (0, serial) n then
        .next (mapLaunch (semTake s num (0, serial) n) serial fun g =>
          { g with waits := rest, after := later g.after (semOf s num).stamp })
      else .next s

/-! ## Placement (R43, R369, R370, R428) -/

/-- The banks a plan takes for one role, in order. -/
def takeBanks (s : State) (c : Core) (part : Nat) (r : Role) (n : Nat) : List Nat := (offBanks s c part r).take n

/-- Banks given to the roles of a plan in the order of R428; none when they do not suffice. -/
def planBanks (s : State) (part plan tid : Nat) : List Role → Core → Option Core
  | [], c => some c
  | r :: rest, c =>
    let banks := takeBanks s c part r (planCount plan r)
    if banks.length = planCount plan r then planBanks s part plan tid rest (setBanks c banks r (some tid)) else none

/-- The roles in placement order (R428). -/
def planRoles : List Role := [.tile, .fifo, .reg, .pad, .cache]

/-- The charge of a plan fits every budget up the tree (R53). -/
def planFits (s : State) (region plan : Nat) : Bool := planRoles.all fun r => chargeFits s region r (planCount plan r)

/-- A core qualifies for a plan of a region's task (R370). -/
def qualifies (s : State) (region part plan tid core : Nat) : Bool :=
  !(getCore s core).out && !(freeSlots s core).isEmpty && (planBanks s part plan tid planRoles (getCore s core)).isSome
    && planFits s region plan && coreFits s region core tid

/-- The qualifying core of a die with the fewest occupied slots, the lowest among equals (R370, log entry 16). -/
def chooseCore (s : State) (region part plan tid die : Nat) : Option Nat :=
  if dieIsDown s die || (match getRegion s region with | some r => r.state != 0 | none => true) then none
  else leastBy (fun k => (ctxsOn s k).length * 1024 + k)
    ((placementSet s region).filter fun k => k / 208 == die && qualifies s region part plan tid k)

/-- A plan's banks taken and charged for a task (R42, R53). -/
def takePlan (s : State) (t : Task) (plan : Nat) : State :=
  match planBanks s t.part plan t.tid planRoles (getCore s t.core) with
  | none => s
  | some c =>
    let s := chargeCore s t.region t.core t.tid
    planRoles.foldl (fun s r => charge s t.region r (planCount plan r)) (putCore s c)

/-- The context a task starts with: one tract over its piece (R10). -/
def rootTract (t : Task) (id slot after : Nat) : Context :=
  { Context.idle with
    id := id, task := t.tid, kind := .tract, slotNo := slot, box := t.box
    path := Path.start 0 (BitVec.ofNat 32 t.entry) 0, loadAfter := after }

/-- A task put on a core with its root tract (R10, R370). -/
def placeTask (s : State) (t : Task) (after : Nat) : State :=
  let slot := (freeSlots s t.core).headD 0
  let s := takePlan s t t.plan.toNat
  let t := { t with padSlots := ownBanks (getCore s t.core) t.tid .pad, placedAt := s.time, pinned := false, phase := .running }
  { s with tasks := s.tasks ++ [t], ctxs := s.ctxs ++ [rootTract t s.nextCtx slot after], nextCtx := s.nextCtx + 1 }

/-- The task of a piece (R34, R362). -/
def pieceTask (g : Launch) (n core : Nat) : Task :=
  let r := g.record
  { Task.none with
    tid := g.serial * 2 ^ 24 + n, serial := g.serial, piece := n, region := g.region, part := g.part, core := core
    code := recBits r 0 48, entry := recBits r 48 16, box := pieceBox r g.pwx n, stack := recBits r 160 13
    idem := recBits r 174 1 == 1, versRecord := recBits r 173 1 == 1, vmode := recBits r 173 1 == 1
    epb := recBits r 192 48, epblen := recBits r 240 13, plan := BitVec.ofNat 64 (recBits r 256 64)
    views := planViews (recBits r 256 64), fsize := planFsize (recBits r 256 64) }

/-- The dies of a region's placement set. -/
def placementDies (s : State) (region : Nat) : List Nat :=
  match effective s region 4 with
  | none => []
  | some r => (List.range 4).filter fun d => r.dieMask.getLsbD d

/-! ## Dealing pieces to the dies (R361, R369) -/

/-- The pieces of one launch that a die's shadow holds at once (log entry 75). -/
def shadowRoom : Nat := 16

/-- The pieces of a launch that wait in a die's shadow, with the times they came. -/
def Launch.waitingAt (g : Launch) (die : Nat) : List (Nat × Nat) := vget g.shadow die []

/-- The pieces of dies that the placement set has left are taken back, to be dealt again. -/
def Launch.takeBack (g : Launch) (dies : List Nat) : Launch :=
  let gone := (List.range 4).filter fun d => !dies.contains d
  { g with
    back := sortBy id (g.back ++ gone.flatMap fun d => (g.waitingAt d).map Prod.fst)
    shadow := gone.foldl (fun v d => vset v d []) g.shadow }

/-- The next die of a list in turn after the one dealt to last. -/
def dieAfter (turn : Nat) (dies : List Nat) : Option Nat :=
  match dies.find? fun d => decide (turn < d) with | some d => some d | none => dies.head?

/-- One piece, the lowest not dealt, dealt to the next die with room (R369). -/
def Launch.dealOne (g : Launch) (now : Nat) (dies : List Nat) : Option Launch :=
  match dieAfter g.turn (dies.filter fun d => decide ((g.waitingAt d).length < shadowRoom)) with
  | none => none
  | some d =>
    let give (n : Nat) (g : Launch) : Launch := { g with turn := d, shadow := vset g.shadow d (g.waitingAt d ++ [(n, now)]) }
    match g.back with
    | n :: rest => some (give n { g with back := rest })
    | [] => if g.dealt < g.total then some (give g.dealt { g with dealt := g.dealt + 1 }) else none

/-- Pieces dealt while there is room, at most `fuel` of them. -/
def Launch.dealMany (now : Nat) (dies : List Nat) : Nat → Launch → Launch
  | 0, g => g
  | fuel + 1, g => match g.dealOne now dies with | none => g | some h => Launch.dealMany now dies fuel h

/-- The dies that a launch's pieces can be dealt to: of its placement set, in no reset (R369, R406), while its region is live and the launch
waits for nothing. -/
def dealDies (s : State) (g : Launch) : List Nat :=
  if g.stopped || !g.waits.isEmpty || !(getRegion s g.region).any fun r => r.state == 0 then []
  else (placementDies s g.region).filter fun d => !dieIsDown s d

/-- A launch's pieces dealt to its dies in piece order, round-robin; a die with no room is passed over (R369). Behind an earlier launch of
the same or a higher priority that has pieces left, `held`, none is dealt (R368). -/
def dealLaunch (s : State) (held : Bool) (g : Launch) : Launch :=
  if g.stopped ∨ g.waits ≠ [] then g
  else
    let g := g.takeBack (placementDies s g.region)
    if held then g else g.dealMany s.time (dealDies s g) (4 * shadowRoom)

/-- A launch has pieces left that could be dealt but for want of room. -/
def dealsOn (s : State) (g : Launch) : Bool := (decide (g.dealt < g.total) || !g.back.isEmpty) && !(dealDies s g).isEmpty

/-- Launches dealt in the order they were dequeued; `bar` is the highest priority of those before that have pieces left (R368). -/
def dealInTurn (s : State) : Option Nat → List Launch → List Launch
  | _, [] => []
  | bar, g :: rest =>
    let g := dealLaunch s (bar.any fun p => decide (g.prio ≤ p)) g
    g :: dealInTurn s (if dealsOn s g then some (match bar with | some p => later p g.prio | none => g.prio) else bar) rest

/-- Every launch's pieces dealt as far as the shadows have room (R368, R369). -/
def dealAll (s : State) : State := { s with dev := { s.dev with launches := dealInTurn s none s.dev.launches } }

/-- A task that waits for its restart is placed under R370, on the die of its own shadow, and on its own core where R398 says so (R38). -/
def tryRestart (s : State) (die : Nat) (t : Task) : Option State :=
  let live := !dieIsDown s die && (match getRegion s t.region with | some r => r.state == 0 | none => false)
  let core :=
    if t.core / 208 ≠ die ∨ live = false then none
    else if t.pinned then (if qualifies s t.region t.part t.plan.toNat t.tid t.core then some t.core else none)
    else chooseCore s t.region t.part t.plan.toNat t.tid die
  if !opsDone t || inFlight s t.tid then none
  else core.map fun k =>
    placeTask { s with dev := { s.dev with waiting := s.dev.waiting.filter fun u => u.tid != t.tid } }
      { t with
        core := k, pad := [], empty := [], tiles := [], horizon := t.lastWct, ops := [], badPad := [], badTiles := []
        vmode := t.vmode && !t.rerun, rerun := false, vlines := [], vwct := [] }
      (match getLaunch s t.serial with | some g => g.after | none => 0)

/-- A launch's piece in a die's shadow placed. -/
def tryPiece (s : State) (die : Nat) (g : Launch) (n : Nat) : Option State :=
  let t := pieceTask g n 0
  (chooseCore s g.region g.part t.plan.toNat t.tid die).map fun k =>
    mapLaunch (placeTask s { t with core := k } g.after) g.serial fun g => { g with
      shadow := vset g.shadow die ((g.waitingAt die).filter fun w => w.1 != n), placed := g.placed + 1, live := g.live ++ [t.tid] }

/-- The pieces that wait in a die's shadow, the oldest first (R370). -/
def waitingPieces (s : State) (die : Nat) : List (Launch × Nat × Nat) :=
  sortBy (fun w => w.2.2) (s.dev.launches.flatMap fun g => (g.waitingAt die).map fun w => (g, w))

/-- A piece has waited 2 µs (R370). -/
def overdueAt (s : State) (since : Nat) : Bool := decide (since + 2000 ≤ s.time)

/-- The oldest waiting piece that a core of the die can hold. One that has waited 2 µs lets no younger one of equal or lower priority
pass: `bar` is the highest priority of those (R370). -/
def firstPiece (s : State) (die : Nat) : Option Nat → List (Launch × Nat × Nat) → Option State
  | _, [] => none
  | bar, (g, n, since) :: rest =>
    if bar.any fun p => decide (g.prio ≤ p) then firstPiece s die bar rest
    else match tryPiece s die g n with
      | some t => some t
      | none => firstPiece s die (if overdueAt s since then some g.prio else bar) rest

/-- The priority of a task's launch. -/
def taskPrio (s : State) (t : Task) : Nat := match s.dev.launches.find? fun g => g.serial == t.serial with | some g => g.prio | none => 0

/-- A piece of a priority above `prio` has waited 2 µs for a core of a die, so that nothing of a lower priority passes it
(R370, R399). -/
def overdue (s : State) (die prio : Nat) : Bool := (waitingPieces s die).any fun w => decide (prio < w.1.prio) && overdueAt s w.2.2

/-- The first task that waits for its restart and fits (R38). -/
def firstRestart (s : State) (die : Nat) : List Task → Option State
  | [] => none
  | t :: rest =>
    match (if overdue s die (taskPrio s t) then none else tryRestart s die t) with
    | some u => some u
    | none => firstRestart s die rest

/-- A saved task waits in a die's shadow, with a core that can hold it, ahead of new pieces of a priority (R402). -/
def restoreFirst (s : State) (die prio : Nat) : Bool :=
  s.dev.saved.any fun v => v.task.core / 208 == die && decide (prio ≤ taskPrio s v.task)
    && (chooseCore s v.task.region v.task.part v.task.plan.toNat v.task.tid die).isSome

/-- PIECE_PLACEMENT (R369, R370): restarts wait ahead of the pieces (R38), saved tasks ahead of new pieces of their priority
(R402). -/
def execPiecePlacement (die : Nat) (s : State) : Host.Outcome State Fault Refusal :=
  let s := dealAll (stash s)
  match firstRestart s die s.dev.waiting with
  | some t => .next t
  | none => .next ((firstPiece s die none ((waitingPieces s die).filter fun w => !restoreFirst s die w.1.prio)).getD s)

/-! ## Completion (R111, R365 to R367) -/

/-- Every piece of a launch is placed, or none will be any more. -/
def Launch.allPlaced (g : Launch) : Bool := g.stopped || g.placed == g.total

/-- A launch may complete: every task has ended, and canopy time has passed every horizon and commit + 4 ns (R111). -/
def launchEnded (s : State) (g : Launch) : Bool :=
  g.allPlaced && g.live.isEmpty && g.waits.isEmpty && decide (g.horizon + 4 ≤ controlClock s)

/-- The completion ring of a launch (R366). -/
def Launch.ring (g : Launch) : Nat := recBits g.record 448 48

/-- PROD and CONS of a completion ring (R366), and the state after the reads. -/
def ringCounts (s : State) (g : Launch) : State × Word32 × Word32 :=
  let read (s : State) (o : Nat) : State × Word32 :=
    match deviceRead s g.part (g.ring + o) 4 with
    | .ok (s, b) => (s, BitVec.ofNat 32 (ofBytesLE b))
    | .error _ => (s, 0)
  let (s, prod) := read s 0
  let (s, cons) := read s 8
  (s, prod, cons)

/-- The 256 bits of a completion record (R366). -/
def completionBits (g : Launch) (tdone prod size : Nat) : Nat :=
  recBits g.record 496 16 + atBit g.status 16 + atBit g.serial 32 + atBit g.queue 64 + atBit g.faults 80
    + atBit (g.placed % 2 ^ 32) 96 + atBit (tdone % 2 ^ 64) 128 + atBit (1 - prod / 2 ^ size % 2) 255

/-- COMPLETION_RECORD_WRITE (R111, R365, R366): held while the ring is full, or cannot be read yet (log entry 96). -/
def execCompletionRecordWrite (serial : Nat) (s : State) : Host.Outcome State Fault Refusal :=
  match getLaunch s serial with
  | none => .next s
  | some g =>
    if !launchEnded s g then .next s
    else match deviceStall s g.part g.ring 16 with
    | some t => .next t
    | none =>
      let ring := g.ring
      let size := recBits g.record 423 5
      let (s, prod, cons) := ringCounts s g
      if 2 ^ size ≤ (prod - cons).toNat then .next s
      else
        let now := controlClock s
        let s := deviceWrite s g.part (ring + 64 + 32 * (prod.toNat % 2 ^ size))
          (bytesLE 32 (completionBits g now prod.toNat size))
        let s := deviceWrite s g.part ring (bytesLE 4 (prod + 1).toNat)
        let s := if recBits g.record 422 1 = 1 ∧ (g.status = 0 ∨ 4 ≤ g.status) then
            semSignal s (recBits g.record 410 12) 1 now
          else s
        .next { s with dev := { s.dev with launches := s.dev.launches.filter fun k => k.serial != serial } }

end Sys2Proof.Machine
end

