-- ==== Sys2Proof/Machine/Tile.lean ====
section
/-! DEFINITION. Framebuffer tiles (R163, R170): the tile descriptor and its checks, the framebuffer record, the places of
samples in pad and in the images, and the elements of tile copies. -/

namespace Sys2Proof.Machine

/-! ## Tile descriptors (R163) -/

/-- The checks of a descriptor on its fields, its alignment and the pad space (R163, R318). -/
def tileTrap (s : State) (d : Word64) : Option Trap :=
  if 8 ≤ tileRot d ∨ bitsOf d.toNat 51 13 ≠ 0 then some (trapHere s 0x01 0)
  else if tileBase d % 128 ≠ 0 then some (trapAt s 0x08 0 (tileBase d))
  else if padIn s.task (tileBase d) tileBytes then none
  else some (trapAt s 0x0A 16 (tileBase d))

/-- A pixel lies in a tile. -/
def inTile (d : Word64) (x y : Nat) : Bool :=
  decide (tileX d ≤ x) && decide (x < tileX d + 32) && decide (tileY d ≤ y) && decide (y < tileY d + 8)

/-- The number of a sample of a tile. -/
def sampleNo (d : Word64) (x y v : Nat) : Nat := v + 64 * (x - tileX d + 32 * (y - tileY d))

/-- The pad offset of a sample's colour, through ROT (R163). -/
def colourAt (d : Word64) (x y v : Nat) : Nat := rotateOff (tileRot d) (tileBase d + 8 * sampleNo d x y v)

/-- The pad offset of a sample's inverse depth. -/
def depthAt (d : Word64) (x y v : Nat) : Nat :=
  rotateOff (tileRot d) (tileBase d + colourBytes + 4 * sampleNo d x y v)

/-! ## Framebuffer records (R170) -/

/-- CLR of a record. -/
def fbClr (r : BitVec 512) : Bool := bitAt r.toNat 294
/-- NOD. -/
def fbNod (r : BitVec 512) : Bool := bitAt r.toNat 295

/-- The reserved fields of a record are 0. -/
def fbOk (r : BitVec 512) : Bool :=
  recField r 48 16 == 0 && recField r 112 16 == 0 && recField r 296 24 == 0 && recField r 352 160 == 0

/-- The bytes of a tile that a record's copies move: depth only without NOD. -/
def tileSpan (r : BitVec 512) : Nat := if fbNod r then colourBytes else tileBytes

/-- The pad range a tile load fills. -/
def tileRanges (d : Word64) (r : BitVec 512) : List (Nat × Nat) := [(tileBase d, tileSpan r)]

/-- The elements of a tile copy: its 16,384 colours, then its depths. -/
def tileCount (r : BitVec 512) : Nat := if fbNod r then 16384 else 32768

/-- Pad offset, before ROT, and size of an element of a tile copy. -/
def tileSide (d : Word64) (n : Nat) : Nat × Nat :=
  if n < 16384 then (tileBase d + 8 * n, 8) else (tileBase d + colourBytes + 4 * (n - 16384), 4)

/-- The address of an element in its image (R170). -/
def imageAt (d : Word64) (r : BitVec 512) (n : Nat) : Nat :=
  let k := n % 16384
  let v := k % 64
  let x := tileX d + k / 64 % 32
  let y := tileY d + k / 2048
  if n < 16384 then (recField r 0 48 + y * recField r 128 32 + 512 * x + 8 * v) % 2 ^ 64
  else (recField r 64 48 + y * recField r 160 32 + 256 * x + 4 * v) % 2 ^ 64

/-- The bytes a clearing load delivers. -/
def clearBytes (r : BitVec 512) (n : Nat) : List Byte :=
  if n < 16384 then bytesLE 8 (recField r 192 64) else bytesLE 4 (recField r 256 32)

/-- One element of a tile load (R170, R337): from the image or the clear values into the pad. -/
def loadTileElem (d : Word64) (r : BitVec 512) (n : Nat) (c : Copy) (s : State) : Res (State × Copy) :=
  let side := tileSide d n
  let got : Res (State × List Byte × Nat) :=
    if fbClr r then .ok (s, clearBytes r n, 0) else copyRead (imageAt d r n) side.2 s
  got.bind fun q => (copyFill q.1 c (tileRot d) side.1 q.2.1 false).bind fun s => .ok (s, c.heard q.2.2)

/-- One element of a tile store. -/
def storeTileElem (d : Word64) (r : BitVec 512) (n : Nat) (c : Copy) (s : State) : Res (State × Copy) :=
  let side := tileSide d n
  (copyPadWait s (tileRot d) side.1 side.2).bind fun _ =>
    (copyWrite (imageAt d r n) (rotRead s.task (tileRot d) side.1 side.2) s).bind fun u => .ok (u.1, c.heard u.2)

/-! ## Registrations of the merge unit (R166, R169) -/

/-- The registration of a tile by the task under issue, by its BASE (R337). -/
def registered (s : State) (base : Nat) : Option Registration :=
  s.core.merge.find? fun g => g.task == s.task.tid && tileBase g.tile == base

/-- A registration changed. -/
def mapRegistration (s : State) (base : Nat) (f : Registration → Registration) : State :=
  { s with core := { s.core with
    merge := updateFirst (fun g => g.task == s.task.tid && tileBase g.tile == base) f s.core.merge } }

/-- The context's most recent FBLOAD, FBW or FBDONE names a tile (R169). The mark of a tile that has no registration and that
the context did not name before is open: it is a free value. -/
def nameTile (s : State) (base : Nat) : State :=
  if (registered s base).isSome ∨ s.me.lastTile = some base then { s with me := { s.me with lastTile := some base } }
  else useFree { s with me := { s.me with lastTile := some base, lastMark := ofBytesLE (freeBytes s.freeCtr 4) } } 4

/-- A registration has been released: the mark that the contexts which named its tile last read from now on is open, a free value
(R169). -/
def openMark (s : State) (base : Nat) : State :=
  let note (c : Context) : Context :=
    if c.task = s.task.tid ∧ c.lastTile = some base then { c with lastMark := ofBytesLE (freeBytes s.freeCtr 4) } else c
  useFree { s with me := note s.me, ctxs := s.ctxs.map note, dev := { s.dev with spilled := s.dev.spilled.map note } } 4

end Sys2Proof.Machine
end

