-- ==== Sys2Proof/Machine/Sync.lean ====
section
/-! DEFINITION. Words that order and synchronise (file 12): PEMPTY, FENCE, the pad barriers (R128, R129, R306), the inbox
(R125, R126, R307 to R309), PADOPEN (R310), the semaphore words (R311) and TLBINV (R315); and the events that end their
waits (R57, R106, R238, R311, R373). -/

namespace Sys2Proof.Machine

/-! ## Acting on another path -/

/-- The context, task and path that were under issue in a state are so again. -/
def backTo (s u : State) : State :=
  if s.me.kind = .idle then (if s.task.phase = .done then stash u else focusTask u s.task.tid)
  else
    let u := focus u s.me.id
    { u with me := focusPath u.me s.me.path.id }

/-- A path of a spilled stand is changed by `f` as if it were under issue; the stand stays spilled. -/
def onSpilled (s : State) (c : Context) (path : Nat) (f : State → State) : State :=
  let t := focusTask s c.task
  let u := f { t with
    me := focusPath c path, dev := { t.dev with spilled := t.dev.spilled.filter fun d => d.id != c.id } }
  backTo s (if u.me.kind = .idle then u
    else { u with me := Context.idle, dev := { u.dev with spilled := u.dev.spilled ++ [u.me] } })

/-- A path of a context, live or spilled, is changed by `f` as if it were under issue; then the context that was under issue is again. -/
def onPath (s : State) (ctx path : Nat) (f : State → State) : State :=
  match getSpilled s ctx with
  | some c => if (pathsOf c).any fun p => p.id == path then onSpilled s c path f else s
  | none =>
    let t := focus s ctx
    let t := { t with me := focusPath t.me path }
    if t.me.kind = .idle ∨ t.me.id ≠ ctx ∨ t.me.path.id ≠ path then s else backTo s (f t)

/-- A path of a context, live or spilled, by numbers. -/
def getPath (s : State) (ctx path : Nat) : Option Path :=
  (anyCtx s ctx).bind fun c => (pathsOf c).find? fun p => p.id == path

/-- What a path stalls on, and since when. -/
def stallOf (s : State) (ctx path : Nat) : Option (Stall × Nat) :=
  (getPath s ctx path).bind fun p => match p.wait with | .stall w t => some (w, t) | _ => none

/-- A uniform B operand, or its long immediate (R213). -/
def valueB (s : State) (b : BitVec 7) : Nat := (affineB s.me.path.lead (readRegs s) b).base.toNat

/-- A uniform a-register operand by code. -/
def valueA (s : State) (a : BitVec 7) : Nat := (aCode (readRegs s) a).base.toNat

/-! ## Remote pad atomics at the peer's pool atomic unit (R127, R299) -/

/-- A remote atomic to the issuer's own core writes a line that an unfinished matrix operation of its context still reads (R139). -/
def remoteRead (s : State) (n : Nat) (ls : List RemoteLane) : Bool :=
  ls.any fun l => l.core == s.task.core
    && (linesOf l.off n).any (matHolds s fun o => o.task == s.task.tid && o.ctx == s.me.id)

/-- A remote atomic of the path under issue reaches its peer (R299, R310): without the right it traps at its issuer, on an empty line it
waits, and else it executes and its word completes. -/
def remoteArrive (q : Remote) (s : State) : State :=
  let size := typeBits q.type / 8
  let ls := remoteLanes s.task.core q
  let gone (s : State) : State := { s with remote := eraseFirst (fun r => r == q) s.remote }
  if remoteMoving s s.task.serial ls || remoteKept s s.task.serial size ls || remoteRead s size ls then s
  else match ls.find? fun l => !remoteOk s s.task.serial size l with
    | some l => wordTrap (gone s) (trapLane 0x0A 18 l.addr l.lane)
    | none =>
      match remoteEmpty s s.task.serial size ls with
      | [] =>
        match remoteBad s s.task.serial size ls with
        | some l => wordTrap (gone s) (trapLane 0x21 (roleCode .pad) l.addr l.lane)
        | none =>
          let u := remoteRun s.task.serial q.op q.type size ls (gone s)
          wordDone (writeAtom (expose u.1) q.dest q.type (electedLane u.1) (valueAt u.2))
      | lines => wordStall s (.emptyLine lines)

/-- ATOMR_EXECUTE (R127, R299): the n-th remote atomic in transit, the oldest of its context (R196), reaches its peer; one whose path is
gone is dropped. -/
def execAtomrExecute (n : Nat) (s : State) : Host.Outcome State Fault Refusal :=
  .next (match s.remote[n]? with
    | none => s
    | some q =>
      if (getPath s q.ctx q.path).isNone then { s with remote := eraseFirst (fun r => r == q) s.remote }
      else if (s.remote.take n).any fun r => r.ctx == q.ctx then s
      else onPath s q.ctx q.path (remoteArrive q))

/-! ## Empty lines (R56, R304) -/

/-- PEMPTY of a range (R304): it waits for the copy writes into the range and for the matrix operands read from it. -/
def emptyRange (s : State) (off n : Nat) : Res State :=
  if off % 128 ≠ 0 ∨ n % 128 ≠ 0 then .trap (trapAt s 0x08 0 off)
  else if n = 0 then .ok s
  else if !padIn s.task off n then .trap (trapAt s 0x0A 16 off)
  else if (copiesOf s.core s.task.tid).any fun c => (copyWrites tileRanges c).any (rangesMeet (off, n)) then .stall .channel
  else if (linesOf off n).any (matHolds s fun o => o.task == s.task.tid && o.ctx == s.me.id) then .stall .matrixRead
  else if (linesOf off n).any fun k => padMoving s (128 * k) then .stall .clearing
  else if (linesOf off n).any (servedFirst s s.task) || lanesOpen s s.task then .stall .served
  else .ok { s with task := { s.task with
    empty := s.task.empty ++ (linesOf off n).filter fun k => !s.task.empty.contains k } }

/-- PEMPTY (R304): the length stands in a register or a long immediate. -/
def execPempty (a b : BitVec 7) (s : State) : Host.Outcome State Fault Refusal :=
  runWord (.pempty a b) s fun s => emptyRange s (valueA s a) (valueB s b)

/-! ## FENCE (R305) -/

/-- FENCE (R106, R305). -/
def execFence (s : State) : Host.Outcome State Fault Refusal :=
  runWord .fence s fun s => (Res.wait (fenceReady s) .fence).bind fun _ => .ok s

/-! ## Pad barriers (R128, R129, R306) -/

/-- ARR of a barrier word. -/
def barArr (w : Nat) : Nat := bitsOf w 0 32
/-- EXP. -/
def barExp (w : Nat) : Nat := bitsOf w 32 32
/-- GEN. -/
def barGen (w : Nat) : Nat := bitsOf w 64 16
/-- STATE. -/
def barState (w : Nat) : Nat := bitsOf w 80 2

/-- A barrier word with its reserved bits as they stand. -/
def barWord (w arr exp gen state : Nat) : Nat :=
  arr % 2 ^ 32 + atBit (exp % 2 ^ 32) 32 + atBit (gen % 2 ^ 16) 64 + atBit (state % 4) 80 + atBit (bitsOf w 82 46) 82

/-- The barrier word at an offset. -/
def barAt (t : Task) (off : Nat) : Nat := padNat t off 16

/-- A barrier word stored. -/
def barPut (t : Task) (off w : Nat) : Task := padWrite t off (bytesLE 16 w)

/-- What a barrier word's access checks and waits for (R45, R52, R55, R128, R139). -/
def barAccess (s : State) (off : Nat) : Res Unit :=
  (Res.check (padTrap s.task off 16 (electedLane s))).bind fun _ =>
    (padReadWait s [electedLane s] (fun _ => off) 16).bind fun _ => padWriteWait s [electedLane s] (fun _ => off) 16

/-- The paths that wait at a barrier for its generation: none when the word is not active (R129). -/
def barWaiters (s : State) (t : Task) (off : Nat) : List (Nat × Nat) :=
  let w := barAt t off
  if barState w ≠ 1 then []
  else (everyCtxOf s t.tid).flatMap fun c => (pathsOf c).filterMap fun p =>
    match p.wait with
    | .stall (.barrier o g) _ => if o = off ∧ g = barGen w then some (c.id, p.id) else none
    | _ => none

/-- Waiters whose wait ends: each goes on after its BARWAIT (R129). -/
def wakeAll (s : State) (l : List (Nat × Nat)) : State := l.foldl (fun s w => onPath s w.1 w.2 wordDone) s

/-- `c` arrivals at a barrier of the task under issue (R129): the generation before them; none where they trap. -/
def barArrive (s : State) (off c : Nat) : Option (State × Nat) :=
  let w := barAt s.task off
  let arr := barArr w + c
  if barState w ≠ 1 ∨ barExp w < arr then none
  else if arr = barExp w then
    let l := barWaiters s s.task off
    some (wakeAll { s with task := barPut s.task off (barWord w 0 (barExp w) (barGen w + 1) 1) } l, barGen w)
  else some ({ s with task := barPut s.task off (barWord w arr (barExp w) (barGen w) 1) }, barGen w)

/-- BARINIT (R129, R306): GEN is kept. -/
def execBarinit (a b : BitVec 7) (s : State) : Host.Outcome State Fault Refusal :=
  runWord (.barinit a b) s fun s =>
    let off := valueA s a
    let n := valueB s b
    (barAccess s off).bind fun _ =>
      if n = 0 ∨ 2 ^ 32 ≤ n ∨ barWaiters s s.task off ≠ [] then .trap (trapAt s 0x0E 0 off)
      else
        let w := barAt s.task off
        .ok { s with task := barPut s.task off (barWord w 0 n (barGen w) 1) }

/-- The items that execute a word: the lanes of p0, or a tract's items. -/
def itemsNow (s : State) : Nat := if isStand s then countLanes (p0 s) else boxItems s.me.box

/-- BARARR (R129, R306): a release as FENCE, then the arrival. -/
def execBararr (d a : BitVec 7) (s : State) : Host.Outcome State Fault Refusal :=
  runWord (.bararr d a) s fun s =>
    let off := valueA s a
    (Res.check (padTrap s.task off 16 (electedLane s))).bind fun _ =>
      (Res.wait (fenceReady s) .fence).bind fun _ =>
        (barAccess s off).bind fun _ =>
          match barArrive s off (itemsNow s) with
          | none => .trap (trapAt s 0x0E 0 off)
          | some (t, gen) => .ok (setUniform t d (BitVec.ofNat 64 gen) .int32)

/-- BARWAIT (R129, R306). -/
def execBarwait (a b : BitVec 7) (s : State) : Host.Outcome State Fault Refusal :=
  runWord (.barwait a b) s fun s =>
    let off := valueA s a
    let g := valueA s b % 2 ^ 16
    (Res.check (padTrap s.task off 16 (electedLane s))).bind fun _ =>
      (padReadWait s [electedLane s] (fun _ => off) 16).bind fun _ =>
        let w := barAt s.task off
        if barState w ≠ 1 then .trap (trapAt s 0x0E 0 off)
        else if barGen w ≠ g then .ok s
        else .stall (.barrier off g)

/-- BARINV (R129): every waiter traps. -/
def execBarinv (a : BitVec 7) (s : State) : Host.Outcome State Fault Refusal :=
  runWord (.barinv a) s fun s =>
    let off := valueA s a
    (barAccess s off).bind fun _ =>
      let w := barAt s.task off
      let l := barWaiters s s.task off
      let s := { s with task := barPut s.task off (barWord w (barArr w) (barExp w) (barGen w) 2) }
      .ok (l.foldl (fun s q => onPath s q.1 q.2 fun t => wordTrap t (trapAt t 0x0E 0 off)) s)

/-! ## Semaphores (R311) -/

/-- The checks of R311 on the values of a semaphore word. -/
def semCheck (s : State) (num n : Nat) : Option Trap :=
  if n = 0 ∨ 2 ^ 32 ≤ n then some (trapHere s 0x01 0)
  else if 4095 < num ∨ semGranted s s.task.region num = false then some (trapHere s 0x0A 20)
  else none

/-- SEMS (R311). -/
def execSems (a b : BitVec 7) (s : State) : Host.Outcome State Fault Refusal :=
  runWord (.sems a b) s fun s =>
    (Res.check (semCheck s (valueA s a) (valueB s b))).bind fun _ =>
      (Res.wait (fenceReady s) .fence).bind fun _ =>
        .ok (expose (semSignal s (valueA s a) (valueB s b) (s.me.horizon + 4)))

/-- SEMW (R311). -/
def execSemw (d a b : BitVec 7) (s : State) : Host.Outcome State Fault Refusal :=
  runFlow (.semw d a b) s fun s =>
    let num := valueA s a
    let n := valueB s b
    let who := (s.me.id, s.me.path.id)
    match semCheck s num n with
    | some k => wordTrap s k
    | none =>
      let s := semJoin s num who
      if semServes s num who n then
        let s := semTake s num who n
        let s := { s with me := { s.me with loadAfter := later s.me.loadAfter (semOf s num).stamp } }
        wordDone (setUniform s d 0 .int32)
      else wordStall s (.semaphore d.toNat num)

/-- SEMW_WAIT_LIMIT (R311): the waiter leaves the queue with code 1. -/
def execSemwWaitLimit (ctx pathNo : Nat) (s : State) : Host.Outcome State Fault Refusal :=
  .next (match stallOf s ctx pathNo with
    | some (.semaphore d num, since) =>
      onPath s ctx pathNo fun s =>
        match waitLimitOf s s.task.region with
        | none => s
        | some limit =>
          if since + limit ≤ myTime s then
            wordDone (setUniform (semLeave s num (ctx, pathNo)) (BitVec.ofNat 7 d) 1 .int32)
          else s
    | _ => s)

/-! ## The inbox (R125, R126, R307 to R309) -/

/-- The credits a sending core may use of an inbox (R51, R125). -/
def creditCap (s : State) (t : Task) : Nat :=
  let all := 127 * (ownBanks (getCore s t.core) t.tid .fifo).length / 8
  match t.withdrawn with
  | none => all
  | some f => earlier all (127 * f / 8)

/-- The bank and line of every entry an inbox can hold, in ring order (R125). -/
def ringSlots (s : State) (t : Task) : List (Nat × Nat) :=
  (ownBanks (getCore s t.core) t.tid .fifo).flatMap fun b => (List.range 127).map fun k => (b, k + 1)

/-- A place of the ring lies after another. -/
def ringAfter (x y : Nat × Nat) : Bool := decide (y.1 < x.1) || (x.1 == y.1 && decide (y.2 < x.2))

/-- The place of the next entry (R125): the next free one after the last that was put in. -/
def ringNext (s : State) (t : Task) : Option (Nat × Nat) :=
  let free := (ringSlots s t).filter fun k => !t.inbox.any fun m => (m.bank, m.line) == k
  match free.find? fun k => ringAfter k t.ringAt with
  | some k => some k
  | none => free.head?

/-- The peer's task that a message goes to (R125): one of the launch that holds FIFO banks. DESIGN CHOICE (log entry 74): of several, the
one with the lowest identifier. -/
def inboxOf (s : State) (core serial : Nat) : Option Task :=
  leastBy (fun t => t.tid) ((liveTasks s).filter fun t =>
    t.core == core && t.serial == serial && !(ownBanks (getCore s t.core) t.tid .fifo).isEmpty)

/-- A credit of a sending core taken or returned. -/
def moveCredit (t : Task) (core : Nat) (take : Bool) : Task :=
  let n := vget t.credits (core % 8) 0
  { t with credits := vset t.credits (core % 8) (if take then n + 1 else n - 1) }

/-- What SENDQ does for a leader and a peer core (R308). -/
def sendMessage (s : State) (core : Nat) (words : List Word32) : Res State :=
  match inboxOf s core s.task.serial with
  | none => .trap (trapHere s 0x0A 18)
  | some t =>
    if s.flight.any fun q => q.ctx == s.me.id && q.writes then .stall .fence
    else if creditCap s t ≤ vget t.credits (s.task.core % 8) 0 then .stall .credits
    else
      let m : Message := ⟨s.me.id, s.task.core, t.tid, words, s.me.horizon, 0, 0, none⟩
      .ok (expose { putTask s (moveCredit t s.task.core true) with transit := s.transit ++ [m] })

/-- SENDQ (R125, R308): the peer number stands in the word or in a uniform register; one above 7 raises trap 0x01. -/
def execSendq (d a b : BitVec 7) (s : State) : Host.Outcome State Fault Refusal :=
  runWord (.sendq d a b) s fun s =>
    let r := readRegs s
    let k := if isA d then (aCode r d).base.toNat else d.toNat
    if 7 < k then .trap (trapHere s 0x01 0)
    else match leaderOf s (extraOf s.me.path.lead).pred with
      | none => .ok s
      | some lane =>
        let src := srcOf r s.me.path.lead 0 a.toNat
        sendMessage s (peerCore s.task.core k) ((List.range (4 * b.toNat)).map fun i => srcWord s.me r src i lane)

/-- INBOX_MESSAGE_ARRIVE (R125): the n-th message in transit joins the ring of its inbox, after the earlier ones of its
sender (R194). -/
def execInboxMessageArrive (n : Nat) (s : State) : Host.Outcome State Fault Refusal :=
  .next (match s.transit[n]? with
    | none => s
    | some m =>
      if (s.transit.take n).any fun k => k.fromCtx == m.fromCtx && k.toTask == m.toTask then s
      else match getTask s m.toTask with
        | none => { s with transit := eraseAt s.transit n }
        | some t =>
          match ringNext s t with
          | none => s
          | some place =>
            putTask { s with transit := eraseAt s.transit n }
              { t with ringAt := place, inbox := t.inbox ++ [{ m with bank := place.1, line := place.2 }] })

/-- A path of the task waits at an empty inbox since before a time, or an earlier path of the same time does. -/
def earlierReceiver (s : State) (who : Nat × Nat) : Bool :=
  let holds (w : Nat × Nat) : Bool := s.task.inbox.any fun m => m.taker == some w
  let all := (ctxsOf s s.task.tid).flatMap fun c => (pathsOf c).filterMap fun p =>
    match p.wait with
    | .stall .inbox t => if holds (c.id, p.id) then none else some (t, c.id, p.id)
    | _ => none
  match leastBy (fun e => e.1) all with
  | none => false
  | some e => e.2 != who && !all.any fun x => x.2 == who && x.1 == e.1

/-- The entry a RECVQ returns (R309): the one it has taken, or the oldest that none has. -/
def entryFor (s : State) (who : Nat × Nat) : Option Message :=
  match s.task.inbox.find? fun m => m.taker == some who with
  | some m => some m
  | none => if earlierReceiver s who then none else s.task.inbox.find? fun m => m.taker.isNone

/-- An entry freed, its credit back with its sender (R126). -/
def freeEntry (s : State) (m : Message) : State :=
  { s with task := moveCredit { s.task with inbox := eraseFirst (fun k => k == m) s.task.inbox } m.fromCore false }

/-- RECVQ (R126, R309); an entry with an uncorrectable error raises trap 0x21 (R70). -/
def execRecvq (d a : BitVec 7) (s : State) : Host.Outcome State Fault Refusal :=
  runFlow (.recvq d a) s fun s =>
    let who := (s.me.id, s.me.path.id)
    match entryFor s who with
    | none => wordStall s .inbox
    | some m =>
      let n := m.words.length
      if fileRegs s.task.fsize < a.toNat + n then wordTrap s (trapHere s 0x01 0)
      else if s.task.badInbox.contains (m.bank, m.line) then wordTrap s (trapHere s 0x21 (roleCode .fifo))
      else if myTime s < m.horizon + 4 then
        wordStall { s with task := { s.task with
          inbox := updateFirst (fun k => k == m) (fun k => { k with taker := some who }) s.task.inbox } } .inbox
      else
        let s := (List.range n).foldl (fun s i => setV s (a.toNat + i) .raw fun _ => m.words.getD i 0) (freeEntry s m)
        wordDone (setUniform s d (BitVec.ofNat 64 (4 * n)) .int32)

/-! ## Windows (R310) -/

/-- A remote atomic that another path of the context has sent to its own core has still to take its place in the pad order (R196). -/
def ownRemote (s : State) : Bool :=
  s.remote.any fun q => q.ctx == s.me.id && (remoteLanes s.task.core q).any fun l => l.core == s.task.core

/-- Writes of the context are held at the merge unit, or a VTEST or FBW of the task has lanes that have still to take effect (R337,
R341). -/
def writesOpen (s : State) : Bool :=
  lanesOpen s s.task || s.core.merge.any fun g => g.task == s.task.tid && g.held.any fun w => w.ctx == s.me.id

/-- PADOPEN (R310, R342): it waits for the earlier pad accesses of the context; a length of 0 closes the window. -/
def execPadopen (win rights : BitVec 2) (a b : BitVec 7) (s : State) : Host.Outcome State Fault Refusal :=
  runWord (.padopen win rights a b) s fun s =>
    let off := valueA s a
    let n := valueB s b
    if off % 128 ≠ 0 ∨ n % 128 ≠ 0 then .trap (trapAt s 0x08 0 off)
    else if n ≠ 0 ∧ padIn s.task off n = false then .trap (trapAt s 0x0A 16 off)
    else if ownRemote s then .stall .remote
    else if writesOpen s then .stall .merge
    else
      let w : Window := if n = 0 then ⟨0, 0, false, false⟩ else ⟨off, n, rights.getLsbD 0, rights.getLsbD 1⟩
      .ok { s with task := { s.task with windows := vset s.task.windows win.toNat w } }

/-! ## TLBINV (R315) -/

/-- A swap pair in flight holds a page of a partition that an invalidation covers (R384). -/
def swapCovers (s : State) (part : Nat) (va : Option Nat) : Bool :=
  s.dev.swaps.any fun w => w.part == part
    && (match va with | none => true | some v => w.vaFar / 4096 == v / 4096 || w.vaNear / 4096 == v / 4096)

/-- TLBINV (R315, R384): the translations go at once; the word waits for the accesses that used them, and for a swap pair
that holds a page it covers. -/
def execTlbinv (a b : BitVec 7) (s : State) : Host.Outcome State Fault Refusal :=
  runFlow (.tlbinv a b) s fun s =>
    let va := valueA s a
    if b = 0 ∧ 2 ^ 48 ≤ va then wordTrap s (trapAt s 0x09 1 va)
    else
      let s := if b = 0 then dropPage s s.task.part va else dropAll s s.task.part
      if s.flight.any (fun q => q.part == s.task.part) || swapCovers s s.task.part (if b = 0 then some va else none) then
        wordStall s .shootdown
      else wordDone s

/-- PAGE_WALK (R376, R381, R382): a miss of a core is walked, checked, and kept with A and D set; a die in reset walks nothing (R4). -/
def execPageWalk (core part va : Nat) (write : Bool) (s : State) : Host.Outcome State Fault Refusal :=
  let need : Need := if write then .write else .read
  let t := focusCore (stash s) core
  .next (if 2 ^ 48 ≤ va ∨ (vget s.dev.dieDown (core / 208) none).isSome = true ∨ (cachedXlat t part va need).isSome = true then s
    else match walkXlat t part va need with
      | .error f => if f.code = 0 then askHost s f else s
      | .ok (u, _) => u)

/-! ## Ends of waits -/

/-- Canopy time has reached what a stalled word of the path under issue waits for (R106, R126, R177, R311). -/
def guardReached (s : State) (w : Stall) : Bool :=
  match w with
  | .fence => fenceReady s
  | .load => decide (s.me.loadAfter ≤ myTime s)
  | .inbox => s.task.inbox.any fun m => m.taker == some (s.me.id, s.me.path.id) && decide (m.horizon + 4 ≤ myTime s)
  | _ => false

/-- PENDING_HORIZON_GUARD_REACHED (R106): the stalled word issues again. -/
def execPendingHorizonGuardReached (ctx pathNo : Nat) (s : State) : Host.Outcome State Fault Refusal :=
  .next (match stallOf s ctx pathNo with
    | none => s
    | some (w, _) =>
      onPath s ctx pathNo fun s => if guardReached s w then mapPath s fun p => { p with wait := .none } else s)

/-- The first line a word still waits on (R57). -/
def firstEmpty (s : State) (l : List (Nat × Nat × Nat)) : Option (Nat × Nat × Nat) :=
  match remoteOf s s.me.id s.me.path.id with
  | none => l.find? fun e => s.task.empty.contains e.1
  | some q => (remoteEmpty s s.task.serial (typeBits q.type / 8) (remoteLanes s.task.core q)).head?

/-- The remote atomic of the path under issue is given up. -/
def dropRemote (s : State) : State :=
  { s with remote := s.remote.filter fun q => !(q.ctx == s.me.id && q.path == s.me.path.id) }

/-- WAIT_LIMIT_EXPIRE (R57, R125): a wait on an empty line ends with trap 0x0D, one for credits with trap 0x0F. -/
def execWaitLimitExpire (ctx pathNo : Nat) (s : State) : Host.Outcome State Fault Refusal :=
  .next (match stallOf s ctx pathNo with
    | none => s
    | some (w, since) =>
      onPath s ctx pathNo fun s =>
        match waitLimitOf s s.task.region with
        | none => s
        | some limit =>
          if myTime s ≤ since + limit then s
          else match w with
            | .emptyLine l =>
              match firstEmpty s l with
              | none => s
              | some (_, off, lane) => wordTrap (dropRemote s) (trapLane 0x0D 2 off lane)
            | .credits => wordTrap s (trapHere s 0x0F 0)
            | _ => s)

/-- YIELD_HOLD_EXPIRE (R238): after 64 core clocks, or once every other context that was ready has issued. -/
def execYieldHoldExpire (ctx pathNo : Nat) (s : State) : Host.Outcome State Fault Refusal :=
  .next (onPath s ctx pathNo fun s =>
    match s.me.path.held with
    | none => s
    | some (t, others) => if t ≤ myTime s ∨ others.isEmpty = true then mapPath s fun p => { p with held := none } else s)

/-- BANK_PORT_URGENT (R373): the context was refused a bank port in four clocks running. -/
def execBankPortUrgent (ctx : Nat) (s : State) : Host.Outcome State Fault Refusal :=
  .next (mapCtx s ctx fun c => if c.kind = .stand then { c with urgent := true } else c)

end Sys2Proof.Machine
end

