-- ==== Sys2Proof/Machine/Geometry.lean ====
section
/-! DEFINITION. The geometry unit: setup and the light-field raster (R146 to R158, R331, R332), the interval tools (R159 to
R162, R333, R334), visibility and colour on framebuffer tiles (R163 to R169, R335 to R338). -/

namespace Sys2Proof.Machine

/-! ## Edge functions (R148 to R151) -/

/-- Vertex k of a slot, k modulo 3. -/
def vertexOf (st : Setup) (k : Nat) : Vertex := vget st.verts (k % 3) ⟨0, 0, 0, 0⟩

/-- X of a vertex at a view, in units of 2^-12. -/
def vertexX (p : Vertex) (v : Nat) : Int := 16 * p.x + p.d * Int.ofNat v

/-- The row of a slot's slice, in units of 2^-8. -/
def sliceY (st : Setup) : Int := 256 * Int.ofNat st.y + 128

/-- Edge function k at a pixel centre and a view, in units of 2^-20 (R148). -/
def edgeAt (st : Setup) (k px v : Nat) : Int :=
  let p := vertexOf st k
  let q := vertexOf st (k + 1)
  (vertexX q v - vertexX p v) * (sliceY st - p.y) - (q.y - p.y) * (4096 * Int.ofNat px + 2048 - vertexX p v)

/-- A of a view: twice the signed area (R148). -/
def areaAt (st : Setup) (v : Nat) : Int := edgeAt st 0 0 v + edgeAt st 1 0 v + edgeAt st 2 0 v

/-- A number with a slot's orientation. -/
def oriented (st : Setup) (x : Int) : Int := if st.positive then x else -x

/-- Edge k owns a tie at a view (R150). -/
def ownsTie (st : Setup) (k v : Nat) : Bool :=
  let p := vertexOf st k
  let q := vertexOf st (k + 1)
  let a := p.y - q.y
  let b := (q.d - p.d) * (sliceY st - p.y) + (q.y - p.y) * p.d
  decide (0 < oriented st (if a ≠ 0 then a else if b ≠ 0 then b else vertexX q v - vertexX p v))

/-- A sample is covered (R149). -/
def coveredAt (st : Setup) (px v : Nat) : Bool :=
  decide (0 < oriented st (areaAt st v)) && (List.range 3).all fun k =>
    let e := edgeAt st k px v
    decide (0 < oriented st e) || (e == 0 && ownsTie st k v)

/-- The covered views of a pixel within the window (R151, R157). -/
def viewsAt (st : Setup) (px : Nat) : Word64 :=
  maskWhere fun v => decide (st.vf ≤ v) && decide (v ≤ st.vl) && coveredAt st px v

/-! ## Inverse depth (R153) -/

/-- Rounding to nearest with ties to even. -/
def nearest : Round := ⟨1, false, false, false, 0⟩

/-- A vertex weight as a significand at an exponent. -/
def weightParts (w : Word32) : Nat × Int :=
  match unpack (fmtOf 10) w.toNat with
  | .fin _ sig e => (sig, e)
  | _ => (0, 0)

/-- N at a sample, in units of 2^(e − 20) for the least exponent e of the weights, and that exponent. -/
def depthSum (st : Setup) (px v : Nat) : Int × Int :=
  let w (k : Nat) : Nat × Int := weightParts (vertexOf st k).w
  let low (x y : Int) : Int := if x < y then x else y
  let e := low (w 0).2 (low (w 1).2 (w 2).2)
  let term (k : Nat) : Int := Int.ofNat ((w k).1 * 2 ^ ((w k).2 - e).toNat) * edgeAt st ((k + 1) % 3) px v
  (term 0 + term 1 + term 2, e)

/-- Inverse depth at a sample as binary32; none where A is 0. DESIGN CHOICE (log entry 100): a quotient of zero is +0. -/
def depthOf (st : Setup) (px v : Nat) : Option Nat :=
  let a := areaAt st v
  let n := depthSum st px v
  if a = 0 then none
  else if n.1 = 0 then some 0
  else some (divFin (fmtOf 10) nearest (decide (n.1 < 0) != decide (a < 0)) n.1.natAbs n.2 a.natAbs 0).bits

/-! ## RSET (R147, R152 to R156, R331) -/

/-- A binary32 value snapped to a multiple of 2^-q within the 2^n multiples below and above zero (R147). -/
def snapTo (x : Word32) (q : Int) (n : Nat) : Option Int :=
  match unpack (fmtOf 10) x.toNat with
  | .zero _ => some 0
  | .fin neg sig e =>
    let m := Int.ofNat (roundTo 1 0 neg sig e (-q)).1
    let m := if neg then -m else m
    if fitsSigned (n + 1) m then some m else none
  | _ => none

/-- A vertex weight that R147 accepts. -/
def weightOk (w : Word32) : Bool :=
  match unpack (fmtOf 10) w.toNat with
  | .zero _ => true
  | .fin neg _ _ => !neg
  | _ => false

/-- A vertex from its four values; none where it breaks R147. -/
def snapVertex (x y d w : Word32) : Option Vertex :=
  match snapTo x 8 23, snapTo y 8 23, snapTo d 12 19 with
  | some x, some y, some d => if weightOk w then some ⟨x, y, d, w⟩ else none
  | _, _, _ => none

/-- The window's checks on its values (R154, R155). -/
def windowOk (w s : Nat) : Bool :=
  bitsOf w 51 13 == 0 && bitsOf s 32 32 == 0 && decide (bitsOf w 34 6 ≤ bitsOf w 40 6) && bitsOf w 46 2 != 3
    && decide (bitsOf w 48 3 ≤ 5)

/-- A slot as its window describes it, before its orientation is known. -/
def slotOfWindow (w s : Nat) (verts : Vector Vertex 3) (positive : Bool) : Setup :=
  ⟨true, verts, positive, bitsOf w 0 13, bitsOf w 13 8, bitsOf w 21 13, bitsOf w 34 6, bitsOf w 40 6, bitsOf w 48 3,
    BitVec.ofNat 32 s⟩

/-- The views of a slot's window. -/
def windowViews (st : Setup) : List Nat := (List.range (st.vl - st.vf + 1)).map fun k => st.vf + k

/-- The slot RSET fills; none where the primitive is culled (R155). -/
def setupOf (w s : Nat) (verts : Vector Vertex 3) : Option Setup :=
  let st := slotOfWindow w s verts true
  let cull := bitsOf w 46 2
  let first := (windowViews st).find? fun v => areaAt st v != 0
  let positive :=
    if cull = 2 then (match first with | some v => decide (0 < areaAt st v) | none => true) else cull == 0
  let st := { st with positive := positive }
  if (windowViews st).any fun v => decide (0 < oriented st (areaAt st v)) then some st else none

/-- The token of R156. -/
def tokenWord (slot next : Nat) : Word64 := BitVec.ofNat 64 (next % 512 + atBit slot 9 + atBit 1 63)

/-- A setup slot written. -/
def setSlot (s : State) (n : Nat) (st : Setup) : State := mapRegs s fun r => { r with slots := vset r.slots n st }

/-- RSET (R155, R331). -/
def execRset (d a b : BitVec 7) (ch : BitVec 2) (s : State) : Host.Outcome State Fault Refusal :=
  runWord (.rset d a b ch) s fun s =>
    let r := readRegs s
    let val (k : Nat) : Word32 := (aReg r (a.toNat - 64 + k)).base.setWidth 32
    let w := (aCode r b).base.toNat
    let serial := (aReg r (b.toNat - 64 + 1)).base.toNat
    let slot := ch.toNat
    let vertex (k : Nat) : Option Vertex := snapVertex (val (4 * k)) (val (4 * k + 1)) (val (4 * k + 2)) (val (4 * k + 3))
    if !windowOk w serial then .trap (trapHere s 0x01 0)
    else
      let found : Option Setup :=
        match vertex 0, vertex 1, vertex 2 with
        | some p, some q, some t => setupOf w serial (#v[p, q, t])
        | _, _, _ => none
      match found with
      | some st => .ok (setUniform (setSlot s slot st) d (tokenWord slot 0) .int32)
      | none =>
        .ok (setUniform (setSlot s slot { vget r.slots slot Setup.empty with valid := false }) d 0 .int32)

/-! ## View intervals (R61, R158, R330) -/

/-- The header of a w register at a lane. -/
def wHead (r : Regs) (w lane : Nat) : Word64 := vget (vget r.w w (Vector.replicate 64 0)) lane 0

/-- Lanes of a w register written (R330): the masks with tag 14, and the headers. -/
def setWMask (s : State) (w : Nat) (p : Word64) (val : Nat → Word64 × Word64) : State :=
  let s := setVMask s (48 + 2 * w) p .view fun l => (val l).1.setWidth 32
  let s := setVMask s (49 + 2 * w) p .view fun l => ((val l).1 >>> 32).setWidth 32
  mapRegs s fun r =>
    { r with w := vset r.w w (vmask (vget r.w w (Vector.replicate 64 0)) p fun l => (val l).2) }

/-- A w register written in the lanes of p0. -/
def setW (s : State) (w : Nat) (val : Nat → Word64 × Word64) : State := setWMask s w (p0 s) val

/-- A field of a header. -/
def headField (h : Word64) (lo n : Nat) : Nat := bitsOf h.toNat lo n
/-- V0. -/
def headFirst (h : Word64) : Nat := headField h 0 6
/-- V1. -/
def headLast (h : Word64) : Nat := headField h 6 6
/-- ANCHOR. -/
def headAnchor (h : Word64) : Nat := headField h 12 6
/-- RATE. -/
def headRate (h : Word64) : Nat := headField h 18 3
/-- SERIAL. -/
def headSerial (h : Word64) : Nat := headField h 32 32
/-- DIS. -/
def headDis (h : Word64) : Bool := h.getLsbD 21

/-- A header with a flag bit set or cleared: 21 DIS, 22 REM, 23 DW, 24 HALF. -/
def headFlag (h : Word64) (i : Nat) (on : Bool) : Word64 := if on then h ||| (1#64 <<< i) else h &&& ~~~(1#64 <<< i)

/-- A header of zeros apart from RATE and SERIAL (R158). -/
def emptyHead (h : Word64) : Word64 := BitVec.ofNat 64 (atBit (headRate h) 18 + atBit (headSerial h) 32)

/-- A header with V0, V1 and ANCHOR. -/
def headViews (h : Word64) (v0 v1 anchor : Nat) : Word64 :=
  BitVec.ofNat 64 (v0 + atBit v1 6 + atBit anchor 12 + atBit (headField h 18 46) 18)

/-- The highest view of a mask. -/
def lastView (m : Word64) : Nat := (lanesOf m).getLastD 0

/-- settle (R158). -/
def settleViews (m h : Word64) : Word64 × Word64 :=
  match lowestLane m with
  | none => (m, headViews h 0 0 0)
  | some v0 => (m, headViews h v0 (lastView m) (if headRate h ≤ 3 then v0 else (v0 + lastView m) / 2))

/-! ## RAST (R157, R332) -/

/-- What a scan of a slot gives the lanes, in order, from pixel `i` on with `n` pixels scanned: for each a pixel and its
views, or none; and where the scan stands. -/
def scanPixel (st : Setup) : Nat → Nat → Nat → Option (Nat × Word64) × Nat × Nat
  | 0, i, n => (none, i, n)
  | fuel + 1, i, n =>
    if st.xw < i ∨ 64 ≤ n then (none, i, n)
    else
      let m := viewsAt st (st.x0 + i)
      if m = 0 then scanPixel st fuel (i + 1) (n + 1) else (some (st.x0 + i, m), i + 1, n + 1)

/-- The scan over lanes in ascending order. -/
def scanLanes (st : Setup) : List Nat → Nat → Nat → List (Nat × Nat × Word64) × Nat
  | [], i, _ => ([], i)
  | l :: ls, i, n =>
    let q := scanPixel st 65 i n
    let rest := scanLanes st ls q.2.1 q.2.2
    (match q.1 with | some (x, m) => (l, x, m) :: rest.1 | none => rest.1, rest.2)

/-- The result of a scan put into the registers of a RAST. -/
def writeScan (s : State) (d bw bp : Nat) (a : BitVec 7) (st : Setup) (l : List (Nat × Nat × Word64)) (token : Word64) : State :=
  let hit (lane : Nat) : Option (Nat × Word64) := lookupNat lane l
  let got : Word64 := maskWhere fun lane => (hit lane).isSome
  let base : Word64 := BitVec.ofNat 64 (atBit st.rate 18 + atBit st.serial.toNat 32)
  let s := setVMask s d got .int32 fun lane => BitVec.ofNat 32 ((hit lane).elim 0 fun q => q.1)
  let s := setVMask s (d + 1) got .int32 fun _ => BitVec.ofNat 32 st.y
  let s := setP s bp got
  let s := setW s bw fun lane =>
    match hit lane with
    | some q => settleViews q.2 base
    | none => (0, base)
  setUniform s a token .int32

/-- RAST (R157, R332): the checks in R332's order. DESIGN CHOICE (log entry 79): a token of 0 names no slot, and the empty headers it
gives hold RATE 0 and SERIAL 0. -/
def execRast (d a : BitVec 7) (bw bp : BitVec 3) (s : State) : Host.Outcome State Fault Refusal :=
  runWord (.rast d a bw bp) s fun s =>
    let r := readRegs s
    let f := aCode r a
    let t := f.base.toNat
    let slot := bitsOf t 9 2
    let st := vget r.slots slot Setup.empty
    if t = 0 then .ok (writeScan s d.toNat bw.toNat bp.toNat a { Setup.empty with rate := 0 } [] 0)
    else if bitAt t 63 = false ∨ bitsOf t 11 52 ≠ 0 then .trap (trapHere s 0x01 0)
    else if !st.valid then .trap (trapHere s 0x03 0)
    else if st.xw < t % 512 then .trap (trapHere s 0x01 0)
    else
      let q := scanLanes st (lanesOf (p0 s)) (t % 512) 0
      .ok (writeScan s d.toNat bw.toNat bp.toNat a st q.1 (if st.xw < q.2 then 0 else tokenWord slot q.2))

/-! ## Interval tools (R160 to R162) -/

/-- An interval tool with one destination. -/
def toolWord (i : Instr) (w : BitVec 3) (val : State → Nat → Word64 × Word64) (s : State) :
    Host.Outcome State Fault Refusal := runWord i s fun s => .ok (setW s w.toNat (val s))

/-- An interval tool with two destinations. -/
def toolPair (i : Instr) (wd wr : BitVec 3) (val : State → Nat → (Word64 × Word64) × (Word64 × Word64)) (s : State) :
    Host.Outcome State Fault Refusal :=
  runWord i s fun s => .ok (setW (setW s wd.toNat fun l => (val s l).1) wr.toNat fun l => (val s l).2)

/-- The first maximal run of a mask from its lowest view. -/
def firstRun (m : Word64) : Word64 := m &&& ~~~(m + (m &&& -m))

/-- VSPLIT (R160). -/
def execVsplit (wd wr pa : BitVec 3) (s : State) : Host.Outcome State Fault Refusal :=
  toolPair (.vsplit wd wr pa) wd wr
    (fun s lane =>
      let m := wMask (readRegs s) pa.toNat lane
      let h := wHead (readRegs s) pa.toNat lane
      let run := firstRun m
      let rest := m &&& ~~~run
      (settleViews run (headFlag h 22 (rest != 0)), settleViews rest (headFlag h 22 false))) s

/-- VENDS (R160). -/
def execVends (d : BitVec 7) (pa : BitVec 3) (s : State) : Host.Outcome State Fault Refusal :=
  runWord (.vends d pa) s fun s =>
    let r := readRegs s
    let put (s : State) (k : Nat) (f : Word64 → Nat) : State :=
      setV s (d.toNat + k) .int32 fun l => BitVec.ofNat 32 (f (wHead r pa.toNat l))
    .ok (put (put (put s 0 headFirst) 1 headLast) 2 headAnchor)

/-- VMASK (R160, R334). -/
def execVmask (pd pa : BitVec 3) (b : BitVec 7) (s : State) : Host.Outcome State Fault Refusal :=
  toolWord (.vmask pd pa b) pd
    (fun s lane =>
      let r := readRegs s
      let x := (src32 s.me r 32 (srcOf r s.me.path.lead 1 b.toNat) lane).toNat
      let lo := bitsOf x 0 6
      let hi := bitsOf x 8 6
      let h := wHead r pa.toNat lane
      settleViews (wMask r pa.toNat lane &&& maskWhere fun v => decide (lo ≤ v) && decide (v ≤ hi))
        (headFlag (headFlag (headFlag (headFlag h 21 false) 22 false) 23 false) 24 false)) s

/-- Two channels agree within a tolerance (R161). -/
def channelsAgree (a b t : Nat) : Bool :=
  let f := fmtOf 8
  let x := unpack f a
  let y := unpack f b
  let tol := unpack f t
  if x.isNan || y.isNan then false
  else if cmpVals x y = 0 then true
  else match x, y with
    | .inf _, _ => false
    | _, .inf _ => false
    | _, _ =>
      match tol with
      | .nan _ _ _ => false
      | .inf neg => !neg
      | .zero _ => false
      | .fin neg sig e =>
        let n (v : FVal) : Int := match v with | .fin k m d => finInt k m d (-48) | _ => 0
        !neg && decide ((n x - n y).natAbs ≤ (finInt false sig e (-48)).toNat)

/-- A colour of four binary16 channels in two registers (R161). -/
def colourLane (r : Regs) (reg lane : Nat) : Nat := (vLane r reg lane).toNat + atBit (vLane r (reg + 1) lane).toNat 32

/-- A channel of a colour. -/
def channelOf (c k : Nat) : Nat := bitsOf c (16 * k) 16

/-- VAGREE (R160, R161, R333). -/
def execVagree (gwd gws : BitVec 3) (gt gva gvb : BitVec 5) (s : State) : Host.Outcome State Fault Refusal :=
  toolWord (.vagree gwd gws gt gva gvb) gwd
    (fun s lane =>
      let r := readRegs s
      let t := (aReg r gt.toNat).base.toNat % 2 ^ 16
      let x := colourLane r (2 * gva.toNat) lane
      let y := colourLane r (2 * gvb.toNat) lane
      let ok := (List.range 4).all fun k => channelsAgree (channelOf x k) (channelOf y k) t
      settleViews (wMask r gws.toNat lane) (headFlag (wHead r gws.toNat lane) 21 (!ok))) s

/-- VHALVE (R162). -/
def execVhalve (wd wr pa : BitVec 3) (s : State) : Host.Outcome State Fault Refusal :=
  toolPair (.vhalve wd wr pa) wd wr
    (fun s lane =>
      let m := wMask (readRegs s) pa.toNat lane
      let h := wHead (readRegs s) pa.toNat lane
      let half := headFlag (headFlag h 21 false) 24 true
      let mid := (headFirst h + headLast h) / 2
      if !headDis h then (settleViews m h, (0, emptyHead h))
      else if headFirst h = headLast h then (settleViews m half, (0, emptyHead h))
      else
        (settleViews (m &&& maskWhere fun v => decide (headFirst h ≤ v) && decide (v ≤ mid)) half,
          settleViews (m &&& maskWhere fun v => decide (mid < v) && decide (v ≤ headLast h)) half)) s

/-! ## Tiles: the shared checks of VTEST and FBW (R335, R336) -/

/-- The lanes of p0 with a view that have not taken effect yet. -/
def viewLanes (s : State) (ws : Nat) : List Nat :=
  (lanesOf (p0 s &&& ~~~s.me.path.gone)).filter fun l => wMask (readRegs s) ws l != 0

/-- The lanes of a VTEST or FBW whose turn it is, and whether they are its last (R341). -/
def lanesNow (s : State) (l : List Nat) : List Nat × Bool :=
  match s.cut with
  | none => (l, true)
  | some n => (l.take n, decide (l.length ≤ n))

/-- A VTEST or FBW after some of its lanes: over after the last, and else under issue, with those lanes behind it (R341); the others
read the registers it was issued with. -/
def lanesEnd (r : Regs) (s : State) (done : List Nat) (last : Bool) : State :=
  if last then wordDone (if s.me.path.gone = 0 then s else mapPath s fun p => { p with gone := 0 })
  else mapPath s fun p => { p with gone := p.gone ||| maskWhere (fun l => done.contains l), wait := .none, snap := some r }

/-- The pixel of a lane. -/
def pixelOf (s : State) (b : BitVec 7) (lane : Nat) : Nat × Nat := pixelIn s.me.path.lead s.me (readRegs s) b lane

/-- The pad offset of a failing lane of the word under issue (R318; log entry 80). -/
def laneOffset (s : State) (d : Word64) (depth : Bool) (b : BitVec 7) (ws lane : Nat) : Nat :=
  offsetIn s.me.path.lead s.me (readRegs s) d depth b ws lane

/-- The tile checks of a word on lanes (R163, R335): the lowest failing lane's pad offset is reported (R318). -/
def lanesTrap (s : State) (d : Word64) (depth : Bool) (b : BitVec 7) (ws : Nat) (lanes : List Nat) : Option Trap :=
  match tileTrap s d with
  | some k => some k
  | none =>
    (lanes.find? fun l => !inTile d (pixelOf s b l).1 (pixelOf s b l).2).map fun l =>
      trapLane 0x0A 16 (laneOffset s d depth b ws l) l

/-- A tile descriptor operand that the leading word names (R329). -/
def thirdTile (s : State) : Word64 := tileNamed s.me.path.lead (readRegs s)

/-- Pad reads of samples of lanes wait for empty and moving lines (R55), and then meet an uncorrectable error (R70). -/
def samplesWait (s : State) (l : List (Nat × Nat)) (n : Nat) : Res Unit :=
  if l.any fun e => padMoving s e.2 then .stall .clearing
  else (waitFull (l.flatMap fun e => emptyIn s.task e.2 n e.1)).bind fun _ =>
    Res.check (l.findSome? fun e => eccTrap s.task [e.1] (fun _ => e.2) n)

/-- Pad writes of samples wait as any pad write does (R52, R139). -/
def samplesWriteWait (s : State) (l : List (Nat × Nat)) (n : Nat) : Res Unit :=
  l.foldl (fun w e => w.bind fun _ => padWriteWait s [e.1] (fun _ => e.2) n) (.ok ())

/-- The views of a lane with their pad offsets. -/
def laneSamples (place : Nat → Nat → Nat → Nat) (xy : Nat × Nat) (m : Word64) (lane : Nat) : List (Nat × Nat) :=
  (lanesOf m).map fun v => (lane, place xy.1 xy.2 v)

/-! ## VTEST (R164, R335) -/

/-- The views of one lane that pass, with the depth written where `dw` (R164). -/
def testViews (d : Word64) (st : Setup) (cmp : Nat) (dw : Bool) (xy : Nat × Nat) : List Nat → Task → Word64 × Task
  | [], t => (0, t)
  | v :: vs, t =>
    match depthOf st xy.1 v with
    | none => testViews d st cmp dw xy vs t
    | some z =>
      let off := depthAt d xy.1 xy.2 v
      let old := padNat t off 4
      let pass := cmp == 2 || (fCompare 4 (fmtOf 10) z old).1 || (cmp == 1 && (fCompare 0 (fmtOf 10) z old).1)
      let t := if pass && dw then padWrite t off (bytesLE 4 z) else t
      let q := testViews d st cmp dw xy vs t
      (if pass then q.1 ||| BitVec.ofNat 64 (2 ^ v) else q.1, q.2)

/-- VTEST over its lanes in ascending order: the masks they keep. -/
def testLanes (s : State) (d : Word64) (st : Setup) (cmp : Nat) (dw : Bool) (b : BitVec 7) (ws : Nat) :
    List Nat → Task → List (Nat × Word64) × Task
  | [], t => ([], t)
  | l :: ls, t =>
    let q := testViews d st cmp dw (pixelOf s b l) (lanesOf (wMask (readRegs s) ws l)) t
    let rest := testLanes s d st cmp dw b ws ls q.2
    ((l, q.1) :: rest.1, rest.2)

/-- The views of a mask at which a slot's primitive has a depth: at the others it is neither tested nor written (R153, R164). -/
def depthViews (st : Setup) (m : Word64) : Word64 := m &&& maskWhere fun v => areaAt st v != 0

/-- VTEST (R164, R335), over the lanes whose turn it is (R341). -/
def execVtest (pd pa : BitVec 3) (b : BitVec 7) (f : BitVec 4) (s : State) : Host.Outcome State Fault Refusal :=
  runFlow (.vtest pd pa b f) s fun s =>
    let r := readRegs s
    let d := thirdTile s
    let st := vget r.slots ((extraOf s.me.path.lead).aux % 4) Setup.empty
    let all := viewLanes s pa.toNat
    let now := lanesNow s all
    let dw := decide (3 ≤ f.toNat)
    let places := all.flatMap fun l => laneSamples (depthAt d) (pixelOf s b l) (depthViews st (wMask r pa.toNat l)) l
    let run : Res Unit :=
      (Res.check (lanesTrap s d true b pa.toNat all)).bind fun _ =>
        (samplesWait s places 4).bind fun _ => if dw then samplesWriteWait s places 4 else .ok ()
    match run with
    | .trap k => wordTrap s k
    | .stall w => wordStall s w
    | .ok _ =>
      let q := testLanes s d st (f.toNat % 3) dw b pa.toNat now.1 s.task
      let mask := if now.2 then p0 s &&& ~~~s.me.path.gone else maskWhere fun l => now.1.contains l
      lanesEnd r (setWMask { s with task := q.2 } pd.toNat mask fun l =>
        let h := wHead r pa.toNat l
        match lookupNat l q.1 with
        | none => (0, emptyHead h)
        | some m => settleViews m (headFlag h 23 (dw && m != 0))) now.1 now.2

/-! ## FBW (R165, R336) -/

/-- The exact sum of two values; a NaN where there is none (R165). -/
def exactSum (x y : FVal) : FVal :=
  match x, y with
  | .nan a b c, _ => .nan a b c
  | _, .nan a b c => .nan a b c
  | .inf n, .inf k => if n = k then .inf n else .nan false false 0
  | .inf n, _ => .inf n
  | _, .inf k => .inf k
  | .zero n, .zero k => .zero (n && k)
  | .zero _, .fin k m e => .fin k m e
  | .fin n m e, .zero _ => .fin n m e
  | .fin n m e, .fin k l d =>
    let q := if e ≤ d then e else d
    let x := finInt n m e q + finInt k l d q
    if x = 0 then .zero false else .fin (decide (x < 0)) x.natAbs q

/-- The exact product of two values; a NaN where there is none. -/
def exactProduct (x y : FVal) : FVal :=
  if x.isNan then x else if y.isNan then y else (mulVals x y).getD (.nan false false 0)

/-- A channel's value rounded once (R165). -/
def channelBits (v : FVal) : Nat :=
  let f := fmtOf 8
  match v with
  | .nan _ _ _ => 0x7E00
  | .inf n => infBits f n
  | .zero n => zeroBits f n
  | .fin n m e => (roundPack f nearest n m e).bits

/-- A channel of the stored colour after a blend (R165). -/
def blendChannel (op cs cd as : Nat) : Nat :=
  let f := fmtOf 8
  let x := unpack f cs
  let y := unpack f cd
  channelBits (match op with
    | 0 => x
    | 1 => exactSum x (exactProduct y (exactSum (.fin false 1 0) ((unpack f as).flip true)))
    | 2 => exactSum x y
    | _ => exactProduct x y)

/-- A stored colour after a blend. -/
def blendColour (op cs cd : Nat) : Nat :=
  (List.range 4).foldl
    (fun acc k => acc + atBit (blendChannel op (channelOf cs k) (channelOf cd k) (channelOf cs 3)) (16 * k)) 0

/-- A view's write applies: always, or under .z where the stored depth equals that of the primitive (R165). -/
def depthAgrees (t : Task) (d : Word64) (z : Option Setup) (xy : Nat × Nat) (v : Nat) : Bool :=
  match z with
  | none => true
  | some st =>
    match depthOf st xy.1 v with
    | none => false
    | some w => (fCompare 0 (fmtOf 10) w (padNat t (depthAt d xy.1 xy.2 v) 4)).1

/-- A lane write applied to its views, in the tile its FBW named (R165). -/
def applyViews (w : Held) : List Nat → Task → Task
  | [], t => t
  | v :: vs, t =>
    let off := colourAt w.tile w.x w.y v
    applyViews w vs
      (if depthAgrees t w.tile w.depth (w.x, w.y) v then
        padWrite t off (bytesLE 8 (blendColour w.blend w.colour.toNat (padNat t off 8)))
      else t)

/-- A lane write applied. -/
def applyHeld (t : Task) (w : Held) : Task := applyViews w (lanesOf w.views) t

/-- The samples a lane write reads: colours, and depths under .z; none at a view where the primitive has no depth. -/
def heldPlaces (lane : Nat) (w : Held) : List (Nat × Nat) × List (Nat × Nat) :=
  match w.depth with
  | none => (laneSamples (colourAt w.tile) (w.x, w.y) w.views lane, [])
  | some st =>
    (laneSamples (colourAt w.tile) (w.x, w.y) (depthViews st w.views) lane,
      laneSamples (depthAt w.tile) (w.x, w.y) (depthViews st w.views) lane)

/-- Lane writes wait for the lines they read and write. -/
def heldWait (s : State) (l : List (Nat × Held)) : Res Unit :=
  let places := l.map fun e => heldPlaces e.1 e.2
  (samplesWait s (places.flatMap fun p => p.1) 8).bind fun _ =>
    (samplesWait s (places.flatMap fun p => p.2) 4).bind fun _ => samplesWriteWait s (places.flatMap fun p => p.1) 8

/-- The lane writes of an FBW. -/
def fbwWrites (s : State) (c : BitVec 7) (pa b : Nat × BitVec 7) (op : Nat) (lanes : List Nat) : List (Nat × Held) :=
  let r := readRegs s
  let aux := (extraOf s.me.path.lead).aux
  let st := vget r.slots (aux % 4) Setup.empty
  lanes.map fun l =>
    let xy := pixelOf s b.2 l
    (l, ⟨s.me.id, thirdTile s, headSerial (wHead r pa.1 l), xy.1, xy.2, wMask r pa.1 l, BitVec.ofNat 64 (colourLane r c.toNat l), op,
      if bitAt aux 2 then some st else none⟩)

/-- The lane writes the merge unit holds on a core. -/
def heldCount (c : Core) : Nat := c.merge.foldl (fun n g => n + g.held.length) 0

/-- A write's serial is below or at the mark of its tile's registration, in a word none of whose lanes has taken effect (R167, R336). -/
def staleWrite (s : State) (g : Registration) (l : List (Nat × Held)) : Option (Nat × Held) :=
  if s.me.path.gone = 0 then l.find? fun e => decide (e.2.serial ≤ g.mark) else none

/-- Ordered writes at the merge unit (R167, R336): the state, the lanes placed, and whether no lane is left. The writes of serial
mark + 1 apply at once even where the others find the unit full. -/
def orderedWrites (s : State) (d : Word64) (off : Nat → Nat) (all l : List (Nat × Held)) (last : Bool) :
    Res (State × List Nat × Bool) :=
  match registered s (tileBase d) with
  | none => .trap (trapAt s 0x0E 0 (tileBase d))
  | some g =>
    match staleWrite s g all with
    | some e => .trap (trapLane 0x0E 0 (off e.1) e.1)
    | none =>
      let now := l.filter fun e => decide (e.2.serial ≤ g.mark + 1)
      let later_ := l.filter fun e => !decide (e.2.serial ≤ g.mark + 1)
      let full := !later_.isEmpty && decide (1024 < heldCount s.core + later_.length)
      if (all.any fun e => decide (g.mark + 256 < e.2.serial)) || (full && now.isEmpty) then .stall .merge
      else
        (heldWait s now).bind fun _ =>
          let s := { s with task := now.foldl (fun t e => applyHeld t e.2) s.task }
          if full then .ok (s, now.map fun e => e.1, false)
          else .ok (mapRegistration s (tileBase d) fun g => { g with held := g.held ++ later_.map fun e => e.2 },
            l.map fun e => e.1, last)

/-- FBW (R165, R167, R336), over the lanes whose turn it is (R341). -/
def execFbw (d : BitVec 7) (pa : BitVec 3) (b : BitVec 7) (f : BitVec 4) (s : State) : Host.Outcome State Fault Refusal :=
  runFlow (.fbw d pa b f) s fun s =>
    let t := thirdTile s
    let all := viewLanes s pa.toNat
    let now := lanesNow s all
    let l := fbwWrites s d (pa.toNat, 0) (0, b) (f.toNat - 6) now.1
    let run : Res (State × List Nat × Bool) :=
      (Res.check (lanesTrap s t false b pa.toNat all)).bind fun _ =>
        if bitAt (extraOf s.me.path.lead).aux 3 then
          orderedWrites s t (laneOffset s t false b pa.toNat) (fbwWrites s d (pa.toNat, 0) (0, b) (f.toNat - 6) all) l now.2
        else (heldWait s l).bind fun _ =>
          .ok ({ s with task := l.foldl (fun k e => applyHeld k e.2) s.task }, now.1, now.2)
    match run with
    | .trap k => wordTrap s k
    | .stall w => wordStall s w
    | .ok (u, done, last) => lanesEnd (readRegs s) (nameTile u (tileBase t)) done last

/-! ## FBDONE (R168, R338) -/

/-- The arrivals a serial has. -/
def arrivalsOf (g : Registration) (serial : Nat) : Nat := (lookupNat serial g.arrivals).getD 0

/-- The mark advances while the next serial is done; each advance releases the writes held for the serial after it. -/
def advanceMark : Nat → Registration → List Held × Registration
  | 0, g => ([], g)
  | fuel + 1, g =>
    if arrivalsOf g (g.mark + 1) ≤ g.prod then ([], g)
    else
      let m := g.mark + 1
      let out := g.held.filter fun w => w.serial == m + 1
      let g := { g with
        mark := m
        arrivals := g.arrivals.filter fun a => a.1 != m
        held := g.held.filter fun w => w.serial != m + 1 }
      let q := advanceMark fuel g
      (out ++ q.1, q.2)

/-- A VTEST or FBW of another path of the context has lanes that have still to take effect (R168, R337). -/
def ownLanesOpen (s : State) : Bool := (pathsOf s.me).any fun p => p.gone != 0

/-- FBDONE (R168, R338): the held writes it releases wait for their lines. -/
def execFbdone (a b : BitVec 7) (s : State) : Host.Outcome State Fault Refusal :=
  runWord (.fbdone a b) s fun s =>
    let d := (aCode (readRegs s) a).base
    let serial := (aCode (readRegs s) b).base.toNat % 2 ^ 32
    (Res.check (tileTrap s d)).bind fun _ =>
     (Res.wait (!ownLanesOpen s) .merge).bind fun _ =>
      match registered s (tileBase d) with
      | none => .trap (trapAt s 0x0E 0 (tileBase d))
      | some g =>
        if serial ≤ g.mark ∨ g.prod < arrivalsOf g serial then .trap (trapAt s 0x0E 0 (tileBase d))
        else if g.mark + 256 < serial then .stall .merge
        else
          let q := advanceMark 257 { g with arrivals := setNat serial (arrivalsOf g serial + 1) g.arrivals }
          (heldWait s (q.1.map fun w => (electedLane s, w))).bind fun _ =>
            let s := { s with task := q.1.foldl applyHeld s.task }
            .ok (nameTile (mapRegistration s (tileBase d) fun _ => q.2) (tileBase d))

/-! ## FBLOAD and FBSTORE (R170, R337) -/

/-- The checks and the record of a tile copy, in the order of R318: the record is read as LDG reads. -/
def tileRecord (s : State) (d : Word64) (at_ : Nat) : Res (State × BitVec 512) :=
  (Res.check (match tileTrap s d with
    | some k => if k.code = 0x0A ∧ at_ % 64 ≠ 0 then some (trapAt s 0x08 0 at_) else some k
    | none => if at_ % 64 ≠ 0 then some (trapAt s 0x08 0 at_) else none)).bind fun _ =>
    (readOnce s at_ 64 (electedLane s) true).bind fun q =>
      let rec_ := BitVec.ofNat 512 (ofBytesLE q.2)
      if fbOk rec_ then .ok (q.1, rec_) else .trap (trapHere s 0x01 0)

/-- Lines of a tile emptied before its load: of its colours, and of its depths without NOD. -/
def emptyTile (s : State) (d : Word64) (r : BitVec 512) : Res State := emptyRange s (tileBase d) (tileSpan r)

/-- FBLOAD (R337). -/
def execFbload (dch : BitVec 2) (a b : BitVec 7) (s : State) : Host.Outcome State Fault Refusal :=
  runWord (.fbload dch a b) s fun s =>
    let d := (aCode (readRegs s) a).base
    (tileRecord s d (valueA s b)).bind fun q =>
      let s := q.1
      if (registered s (tileBase d)).isSome then .trap (trapAt s 0x0E 0 (tileBase d))
      else if 4 ≤ s.core.merge.length then .stall .merge
      else
        (emptyTile s d q.2).bind fun s =>
          (queueCopy s dch.toNat (.tileLoad d q.2)).bind fun s =>
            let g : Registration := ⟨s.task.tid, d, recField q.2 320 32, recField q.2 288 6, [], []⟩
            .ok (nameTile { s with core := { s.core with merge := s.core.merge ++ [g] } } (tileBase d))

/-- FBSTORE (R337): it waits until every earlier write of the context has applied. The registration goes, and the mark that the contexts
which named it last read is open. -/
def execFbstore (dch : BitVec 2) (a b : BitVec 7) (s : State) : Host.Outcome State Fault Refusal :=
  runWord (.fbstore dch a b) s fun s =>
    let d := (aCode (readRegs s) a).base
    (tileRecord s d (valueA s b)).bind fun q =>
     (Res.wait (!writesOpen q.1) .merge).bind fun _ =>
      match registered q.1 (tileBase d) with
      | none => .trap (trapAt s 0x0E 0 (tileBase d))
      | some g =>
        if !g.held.isEmpty then .trap (trapAt s 0x0E 0 (tileBase d))
        else
          (queueCopy q.1 dch.toNat (.tileStore d q.2)).bind fun s =>
            .ok (openMark { s with core := { s.core with merge := s.core.merge.filter fun k => k != g } } (tileBase d))

end Sys2Proof.Machine
end

