-- ==== Sys2Proof/Machine/Traverse.lean ====
section
/-! DEFINITION. Traversal of bounding-volume hierarchies (R171 to R178, R339, R340): descriptors, stacks, child tests, TRAVSET
and TRAV. -/

namespace Sys2Proof.Machine

/-! ## Descriptors and stacks (R172) -/

/-- The descriptor of a traversal: its two registers. -/
structure TravDesc where
  first : Word64
  second : Word64
  deriving DecidableEq, Repr

/-- The descriptor a word names. -/
def travDesc (s : State) (bpair : BitVec 4) : TravDesc :=
  let r := readRegs s
  ⟨(aReg r (2 * bpair.toNat)).base, (aReg r (2 * bpair.toNat + 1)).base⟩

/-- BVH. -/
def TravDesc.bvh (d : TravDesc) : Nat := bitsOf d.first.toNat 0 48
/-- SBASE. -/
def TravDesc.sbase (d : TravDesc) : Nat := bitsOf d.second.toNat 0 21
/-- ROOT. -/
def TravDesc.root (d : TravDesc) : Nat := bitsOf d.second.toNat 21 32

/-- The pad offset of an entry of a lane's stack of `n` entries. -/
def stackAt (d : TravDesc) (n lane k : Nat) : Nat := d.sbase + 8 * (n * lane + k)

/-- The checks of a descriptor on its fields and its alignment (R172, R318). -/
def travTrap (s : State) (d : TravDesc) (n : Nat) : Option Trap :=
  if bitsOf d.first.toNat 48 16 ≠ 0 ∨ bitsOf d.second.toNat 53 11 ≠ 0 ∨ n = 0 then some (trapHere s 0x01 0)
  else if d.bvh % 128 ≠ 0 then some (trapAt s 0x08 0 d.bvh)
  else if d.sbase % 8 ≠ 0 then some (trapAt s 0x08 0 d.sbase)
  else none

/-- The stack of a lane lies in the pad space (R172). -/
def stackTrap (s : State) (d : TravDesc) (n lane : Nat) : Option Trap :=
  if padIn s.task (stackAt d n lane 0) (8 * n) then none else some (trapLane 0x0A 16 (stackAt d n lane 0) lane)

/-- A stack entry: reference, t, leaf (R172). -/
def entryBits (ref t : Nat) (leaf : Bool) : Nat := ref % 2 ^ 32 + atBit (t % 2 ^ 31) 32 + atBit (bitNat leaf) 63

/-- TRAVSET (R173, R339). -/
def execTravset (d : BitVec 7) (bpair : BitVec 4) (s : State) : Host.Outcome State Fault Refusal :=
  runWord (.travset d bpair) s fun s =>
    let k := travDesc s bpair
    let n := s.task.stack
    let lanes := lanesOf (p0 s)
    (Res.check (travTrap s k n)).bind fun _ =>
      (Res.check (firstTrap (stackTrap s k n) lanes)).bind fun _ =>
        (padWriteWait s lanes (fun l => stackAt k n l 0) 8).bind fun _ =>
          let put (t : Task) (l : Nat) : Task := padWrite t (stackAt k n l 0) (bytesLE 8 (entryBits k.root 0 false))
          .ok (setV { s with task := lanes.foldl put s.task } d.toNat .int32 fun _ => 1)

/-! ## Child tests (R174) -/

/-- A query: its binary32 values, the ray form, tmin and tmax. -/
structure Query where
  ray : Bool
  vals : List Nat
  deriving DecidableEq, Repr

/-- A value of a query. -/
def Query.at (q : Query) (k : Nat) : Nat := q.vals.getD k 0

/-- Binary32. -/
def single : Fmt := fmtOf 10

/-- A binary32 value that is a NaN. -/
def isNan32 (x : Nat) : Bool := (unpack single x).isNan

/-- A value is at most another; no NaN. -/
def atMost (x y : Nat) : Bool := decide (cmpVals (unpack single x) (unpack single y) ≤ 0)

/-- A value lies beyond another; a NaN lies beyond none (R173). -/
def beyond (x y : Nat) : Bool := (fCompare 4 single x y).1

/-- The greater of two values. -/
def maxOf (x y : Nat) : Nat := if atMost x y then y else x

/-- The smaller of two values. -/
def minOf (x y : Nat) : Nat := if atMost x y then x else y

/-- An exact quotient of a finite or infinite difference and a divisor that is not zero, rounded once toward −∞ (code 4) or
+∞ (code 3); none where it is a NaN. -/
def quotientTo (code : Nat) (x y : FVal) : Option Nat :=
  let n := x.neg != y.neg
  match x, y with
  | .nan _ _ _, _ => none
  | _, .nan _ _ _ => none
  | .inf _, .inf _ => none
  | .inf _, _ => some (infBits single n)
  | _, .inf _ => some (zeroBits single n)
  | .zero _, _ => some (zeroBits single n)
  | .fin _ m e, .fin _ l d => some (divFin single ⟨code, false, false, false, 0⟩ n m e l d).bits
  | _, .zero _ => none

/-- What a ray's test finds on an axis: a NaN, a miss, or the interval [low, high]. -/
inductive Axis where
  | nan
  | miss
  | span (low high : Nat)
  deriving DecidableEq, Repr

/-- The interval of a ray on an axis (R174). -/
def rayAxis (lo hi o d : Nat) : Axis :=
  let x := unpack single lo
  let y := unpack single hi
  let p := (unpack single o).flip true
  let q := unpack single d
  match q with
  | .zero _ => if atMost lo o && atMost o hi then .span (infBits single true) (infBits single false) else .miss
  | _ =>
    let a := exactSum x p
    let b := exactSum y p
    match quotientTo 4 a q, quotientTo 4 b q, quotientTo 3 a q, quotientTo 3 b q with
    | some a0, some b0, some a1, some b1 => .span (minOf a0 b0) (maxOf a1 b1)
    | _, _, _, _ => .nan

/-- A child's six bounds: min x, y, z, max x, y, z. -/
def childBounds (node : List Byte) (i : Nat) : List Nat :=
  (List.range 6).map fun k => ofBytesLE ((node.drop (24 * i + 4 * k)).take 4)

/-- The entry distance of a child that hits; none where it misses (R174). -/
def childHit (q : Query) (t0 : Nat) (node : List Byte) (i : Nat) : Option Nat :=
  let b := childBounds node i
  let lo (k : Nat) : Nat := b.getD k 0
  let hi (k : Nat) : Nat := b.getD (k + 3) 0
  if b.any isNan32 then some t0
  else if q.ray then
    let axes := (List.range 3).map fun k => rayAxis (lo k) (hi k) (q.at k) (q.at (k + 3))
    if axes.contains .nan then some t0
    else if axes.contains .miss then none
    else
      let near := axes.foldl (fun m a => match a with | .span l _ => maxOf m l | _ => m) (infBits single true)
      let far := axes.foldl (fun m a => match a with | .span _ h => minOf m h | _ => m) (infBits single false)
      let enter := if atMost near t0 then t0 else near
      if atMost enter (minOf far (q.at 7)) then some enter else none
  else if (List.range 3).all fun k => atMost (q.at k) (hi k) && atMost (lo k) (q.at (k + 3)) then some 0
  else none

/-- A child's flag byte. -/
def childFlag (node : List Byte) (i : Nat) : Byte := node.getD (112 + i) 0

/-- A child's reference. -/
def childRef (node : List Byte) (i : Nat) : Nat := ofBytesLE ((node.drop (96 + 4 * i)).take 4)

/-- The entries of the valid children that hit, in the order they are pushed: descending key (R173). -/
def hitEntries (q : Query) (t0 : Nat) (node : List Byte) : List Nat :=
  let hits := (List.range 4).filterMap fun i =>
    if (childFlag node i).getLsbD 0 then (childHit q t0 node i).map fun t => (t, i) else none
  (sortBy (fun h => h.1 * 4 + h.2) hits).reverse.map fun h =>
    entryBits (childRef node h.2) h.1 ((childFlag node h.2).getLsbD 1)

/-! ## The walk (R173, R176) -/

/-- How a lane's walk stands at the end of an issue: its count, and the candidate it stopped at, or the trap it took. -/
structure LaneWalk where
  count : Nat
  leaf : Option (Nat × Nat)
  trap : Option Trap
  deriving DecidableEq, Repr

/-- A node's bytes (R176): a load of the context, as LDG's, but for the parameter window (R364). -/
def loadNode (s : State) (va lane : Nat) : Res (State × List Byte) :=
  (Res.check (formTrap va 4 lane)).bind fun _ =>
    (spotOf .read false anyKind va 128 lane s).bind fun q =>
      (loadParts true lane q.2.parts q.1).bind fun u => .ok (raiseHorizon u.1 u.2.2, u.2.1)

/-- Entries pushed onto a lane's stack. -/
def pushAll (d : TravDesc) (n lane : Nat) : List Nat → Nat → Task → Task
  | [], _, t => t
  | e :: es, count, t => pushAll d n lane es (count + 1) (padWrite t (stackAt d n lane count) (bytesLE 8 e))

/-- A lane's walk: `visits` node loads are left of its budget, `fuel` bounds the pops. -/
def walkLane (d : TravDesc) (n : Nat) (q : Query) (t0 lane : Nat) : Nat → Nat → Nat → State → Res (State × LaneWalk)
  | 0, _, count, s => .ok (s, ⟨count, none, none⟩)
  | fuel + 1, visits, count, s =>
    if count = 0 then .ok (s, ⟨0, none, none⟩)
    else
      let at_ := stackAt d n lane (count - 1)
      (padReadWait s [lane] (fun _ => at_) 8).bind fun _ =>
        let e := padNat s.task at_ 8
        let ref := bitsOf e 0 32
        let t := bitsOf e 32 31
        if q.ray && beyond t (q.at 7) then walkLane d n q t0 lane fuel visits (count - 1) s
        else if bitAt e 63 then .ok (s, ⟨count - 1, some (ref, t), none⟩)
        else match visits with
          | 0 => .ok (s, ⟨count, none, none⟩)
          | left + 1 =>
            match loadNode s ((d.bvh + 128 * ref) % 2 ^ 64) lane with
            | .stall w => .stall w
            | .trap k => .ok (s, ⟨count, none, some k⟩)
            | .ok (u, node) =>
              let hits := hitEntries q t0 node
              if n < count - 1 + hits.length then
                .ok (s, ⟨count, none, some (trapLane 0x0A 16 (stackAt d n lane n) lane)⟩)
              else
                (padWriteWait u [lane] (fun _ => stackAt d n lane (count - 1)) (8 * hits.length)).bind fun _ =>
                  walkLane d n q t0 lane fuel left (count - 1 + hits.length)
                    { u with task := pushAll d n lane hits (count - 1) u.task }

/-- The walks of lanes in ascending order. -/
def walkLanes (d : TravDesc) (n budget : Nat) (query : Nat → Query) (count : Nat → Nat) :
    List Nat → State → Res (State × List (Nat × LaneWalk))
  | [], s => .ok (s, [])
  | l :: ls, s =>
    let q := query l
    let first : Res (State × LaneWalk) :=
      if q.vals.any isNan32 then .ok (s, ⟨0, none, none⟩)
      else walkLane d n q (if q.ray then (maxOf (q.at 6) 0) % 2 ^ 31 else 0) l (n + 4 * budget + 1) budget (count l) s
    first.bind fun u => (walkLanes d n budget query count ls u.1).bind fun w => .ok (w.1, (l, u.2) :: w.2)

/-- The results of a walk written (R340): the counts and pd in every lane, the leaf and t where a lane stopped at a
candidate. A call-out begins where one did (R177). -/
def writeWalk (s : State) (d : Nat) (bp : Nat) (l : List (Nat × LaneWalk)) : State :=
  let walk (lane : Nat) : LaneWalk := (lookupNat lane l).getD ⟨0, none, none⟩
  let got : Word64 := maskWhere fun lane => (walk lane).leaf.isSome
  let leaf (lane : Nat) : Nat × Nat := (walk lane).leaf.getD (0, 0)
  let s := setV s d .int32 fun lane => BitVec.ofNat 32 (walk lane).count
  let s := setP s bp got
  if got = 0 then s
  else
    let s := setVMask s (d + 1) got .int32 fun lane => BitVec.ofNat 32 (leaf lane).1
    let s := setVMask s (d + 2) got .f32 fun lane => BitVec.ofNat 32 (leaf lane).2
    { s with me := { s.me with callout := true } }

/-- The end of a call-out (R177): what it stored has its WCT, and this word's and later loads wait for H + 4 ns. -/
def endCallout (s : State) : Res State :=
  if s.me.callout then
    (flushCtx s s.me.id).bind fun s =>
      .ok { s with me := { s.me with
        callout := false, loadAfter := later s.me.loadAfter (s.me.calloutH + 4), calloutH := 0 } }
  else .ok s

/-- TRAV (R173 to R178, R340): a lane's fault undoes its visit; every lane that has walked keeps its results. -/
def travWord (i : Instr) (ray : Bool) (d a : BitVec 7) (bpair : BitVec 4) (bp : BitVec 3) (s : State) :
    Host.Outcome State Fault Refusal :=
  runFlow i s fun s =>
    let r := readRegs s
    let k := travDesc s bpair
    let n := s.task.stack
    let lanes := lanesOf (p0 s)
    let src := srcOf r s.me.path.lead 0 a.toNat
    let query (l : Nat) : Query :=
      ⟨ray, (List.range (if ray then 8 else 6)).map fun j => (srcWord s.me r src j l).toNat⟩
    let count (l : Nat) : Int := (vLane r d.toNat l).toInt
    let bad (l : Nat) : Option Trap :=
      if count l < 0 ∨ Int.ofNat n < count l then some (trapLane 0x0A 16 (stackAt k n l 0) l) else stackTrap s k n l
    match travTrap s k n with
    | some t => wordTrap s t
    | none =>
      match firstTrap bad lanes with
      | some t => wordTrap s t
      | none =>
        match endCallout s with
        | .trap t => wordTrap s t
        | .stall w => wordStall s w
        | .ok s =>
          if myTime s < s.me.loadAfter then wordStall s .load
          else match walkLanes k n (r.budget.toNat % 2 ^ 16) query (fun l => (count l).toNat) lanes s with
            | .trap t => wordTrap s t
            | .stall w => wordStall s w
            | .ok (t, l) =>
              let t := writeWalk t d.toNat bp.toNat l
              match l.findSome? fun w => w.2.trap with
              | some x => wordTrap t x
              | none => wordDone t

/-- TRAV.ray (R173, R340). -/
def execTravRay (d a : BitVec 7) (bpair : BitVec 4) (bp : BitVec 3) (s : State) : Host.Outcome State Fault Refusal :=
  travWord (.travRay d a bpair bp) true d a bpair bp s

/-- TRAV.box (R173, R340). -/
def execTravBox (d a : BitVec 7) (bpair : BitVec 4) (bp : BitVec 3) (s : State) : Host.Outcome State Fault Refusal :=
  travWord (.travBox d a bpair bp) false d a bpair bp s

end Sys2Proof.Machine
end

