-- ==== Sys2Proof/Machine/Epilogue.lean ====
section
/-! DEFINITION. The epilogue unit (R142 to R145): the micro-op words and their check, the row a drain carries, group
requantisation (R89, R90), the activation functions, and the program run over the rows of a tile. -/

namespace Sys2Proof.Machine

/-! ## Micro-op words (R142, R143, R144) -/

/-- OP of a micro-op word. -/
def microCode (w : Word32) : Nat := bitsOf w.toNat 28 4
/-- ARG. -/
def microArg (w : Word32) : Nat := bitsOf w.toNat 26 2
/-- SUB. -/
def microSub (w : Word32) : Nat := bitsOf w.toNat 22 4
/-- IMM. -/
def microImm (w : Word32) : Nat := bitsOf w.toNat 0 16

/-- SUB and IMM are values that the table of R144 lists, and the reserved bits are 0. -/
def microOk (w : Word32) : Bool :=
  let sub := microSub w
  let imm := microImm w
  bitsOf w.toNat 16 6 == 0 &&
  match microCode w with
  | 1 => decide (sub ≤ 2) && imm == 0
  | 2 => sub == 0 || (decide (sub ≤ 2) && imm == 0)
  | 3 => decide (sub ≤ 2)
  | 4 => sub == 3 || (decide (sub ≤ 2) && imm == 0)
  | 5 => decide (sub ≤ 4) && decide (imm ≤ 1)
  | 6 => decide (sub ≤ 4) && (imm == 0 || (imm == 1 && sub != 4))
  | 9 => sub == 0
  | 12 => sub == 0
  | 13 => decide (sub ≤ 2) && imm == 0
  | 15 => decide (sub ≤ 1) && imm == 0
  | _ => sub == 0 && imm == 0

/-- A QUANT that makes 4-bit codes. -/
def quantNarrow (w : Word32) : Bool := microCode w == 6 && (microSub w == 1 || microSub w == 4)

/-- TRANS. -/
def isTrans (w : Word32) : Bool := microCode w == 10

/-- A program that EPLOAD accepts (R142). -/
def programOk (l : List Word32) : Bool :=
  l.all microOk && !((l.drop 1).any isTrans) && !(l.any isTrans && l.any quantNarrow)

/-! ## Values rounded once to a format -/

/-- A value rounded once, nearest-even, with the canonical NaN (R84, R144). -/
def valueBits (f : Fmt) (v : FVal) : Nat :=
  match v with
  | .nan _ _ _ => f.nanBits
  | .inf n => infBits f n
  | .zero n => zeroBits f n
  | .fin n m e => (roundPack f nearest n m e).bits

/-- A value rounded to FP32. -/
def roundSingle (v : FVal) : FVal := unpack single (valueBits single v)

/-- An integer as a value. -/
def intVal (x : Int) : FVal := if x = 0 then .zero false else .fin (decide (x < 0)) x.natAbs 0

/-- The quotient of two values rounded once under a code; canonical NaN where there is none. -/
def quotientBits (f : Fmt) (r : Round) (x y : FVal) : Nat :=
  let n := x.neg != y.neg
  match x, y with
  | .nan _ _ _, _ => f.nanBits
  | _, .nan _ _ _ => f.nanBits
  | .inf _, .inf _ => f.nanBits
  | .zero _, .zero _ => f.nanBits
  | .inf _, _ => infBits f n
  | _, .inf _ => zeroBits f n
  | .zero _, _ => zeroBits f n
  | _, .zero _ => infBits f n
  | .fin _ m e, .fin _ l d => (divFin f r n m e l d).bits

/-! ## The row (R144) -/

/-- A drained row: the exact values of its 64 elements, their bits in EF, the width of EF, and M and S as FP32. -/
structure Row where
  vals : List FVal
  bits : List Nat
  width : Nat
  max : Nat
  sum : Nat
  deriving DecidableEq, Repr

/-- A row of FP32 results. -/
def Row.results (w : Row) (l : List FVal) : Row :=
  let b := l.map (valueBits single)
  { w with bits := b, vals := b.map (unpack single), width := 32 }

/-- Every element changed by an arithmetic micro-op, with its column. -/
def Row.arith (w : Row) (f : Nat → FVal → FVal) : Row :=
  w.results (List.zipWith f (List.range 64) w.vals)

/-- The row's elements as bytes. -/
def Row.bytes (w : Row) : List Byte :=
  bytesLE (8 * w.width) (w.bits.foldr (fun b acc => b % 2 ^ w.width + acc * 2 ^ w.width) 0)

/-- One element's bytes. -/
def Row.elem (w : Row) (c : Nat) : List Byte := bytesLE (w.width / 8) (w.bits.getD c 0)

/-- One level of the tree of R93 over columns. -/
def sumPairs : List FVal → List FVal
  | x :: y :: rest => roundSingle (exactSum x y) :: sumPairs rest
  | l => l

/-- The sum of 64 columns (R93). -/
def treeSum (l : List FVal) : FVal := (sumPairs (sumPairs (sumPairs (sumPairs (sumPairs (sumPairs l)))))).headD (.zero false)

/-- The maximum of 64 columns under R85. -/
def maxBits (l : List FVal) : Nat :=
  match l.map (valueBits single) with
  | [] => 0
  | b :: bs => bs.foldl (fun m x => (fMinMax true single nearest m x).bits) b

/-! ## Activation functions -/

/-- e^|y| in fixed point with `g` bits for |y| given in the same. -/
def expFixed (g y : Nat) : Nat :=
  let ln2 := ln2Fixed g
  expSeries g (y % ln2) g (2 ^ g) 0 0 * 2 ^ (y / ln2)

/-- The argument of the logistic factor in fixed point, for |x| in fixed point: x for SiLU, 2·√(2/π)·(x + 0.044715·x³) for
GELU, since ½(1 + tanh u) = 1/(1 + e^−2u). -/
def gateArg (gelu : Bool) (g x : Nat) : Nat :=
  if gelu then
    let cube := x * x / 2 ^ g * x / 2 ^ g
    let sum := x + 44715 * cube / 1000000
    2 * (isqrt (2 * 2 ^ (3 * g) / piFixed g) * sum / 2 ^ g)
  else x

/-- x/(1 + e^−y) for a finite x that is neither tiny nor far out. -/
def gateSpan (gelu neg : Bool) (sig : Nat) (e : Int) (p : Nat) : Span :=
  let g := p + guardBits
  let x := toFixed sig e g
  let a := expFixed g (gateArg gelu g x)
  let v := if neg then x * 2 ^ g / (2 ^ g + a) else x * a / (2 ^ g + a)
  spanOf p (if neg then -Int.ofNat v else Int.ofNat v) guardError

/-- SiLU or GELU of a finite non-zero value, rounded once (R144). Far out the value stands for one that rounds alike. -/
def gateFin (gelu neg : Bool) (sig : Nat) (e : Int) : Nat :=
  let size := Int.ofNat (bitLen sig) + e
  if (if gelu then 5 else 8) ≤ size then
    if neg then (roundPack single nearest true 1 (-400)).bits
    else (roundPack single nearest false (sig * 2 ^ 256 - 1) (e - 256)).bits
  else if size < -60 then
    (roundPack single nearest neg (if neg then sig * 2 ^ 256 - 1 else sig * 2 ^ 256 + 1) (e - 257)).bits
  else (functionRes single nearest fun p => (gateSpan gelu neg sig e p, 0)).bits

/-- An activation of an element; `open_` is what stands where the spec states no value: the gates at −∞, and a clamp whose
bound is a NaN or negative. -/
def actBits (sub imm : Nat) (open_ : Nat) (v : FVal) : Nat :=
  let h := unpack (fmtOf 8) imm
  match sub, v with
  | 3, v =>
    if h.isNan || (h.neg && h != .zero true) then open_
    else if v.isNan then single.nanBits
    else
      let top := valueBits single (h.flip h.neg)
      let low := valueBits single ((h.flip h.neg).flip true)
      (fMinMax false single nearest (fMinMax true single nearest (valueBits single v) low).bits top).bits
  | _, .nan _ _ _ => single.nanBits
  | 0, v => if v.neg then 0 else valueBits single v
  | _, .inf n => if n then open_ else infBits single false
  | _, .zero n => zeroBits single n
  | k, .fin n m e => gateFin (k == 2) n m e

/-! ## Group requantisation (R89, R90) -/

/-- ⌊log₂⌋ of a finite non-zero magnitude. -/
def floorLog (m : Nat) (e : Int) : Int := Int.ofNat (bitLen m) - 1 + e

/-- The largest magnitude among values that are finite, as one of them. -/
def amaxOf (l : List FVal) : FVal :=
  l.foldl (fun a v => if cmpVals a (v.flip v.neg) < 0 then v.flip v.neg else a) (.zero false)

/-- The E8M0 code of a group for an element format's emax (R89). -/
def scaleCode (emax : Int) (l : List FVal) : Nat :=
  if l.any fun v => v.isNan || (match v with | .inf _ => true | _ => false) then 0xFF
  else match amaxOf l with
    | .fin _ m e => (clampInt 0 254 (floorLog m e - emax + 127)).toNat
    | _ => 0x7F

/-- A quantised group: the parameter word, the codes and the exact values they stand for. -/
structure Quantised where
  param : Nat
  codes : List Nat
  vals : List FVal
  deriving DecidableEq, Repr

/-- The value of an element under an E8M0 scale (R74). -/
def scaled (code : Nat) (v : FVal) : FVal :=
  if code = 0xFF then .nan false false 0 else exactProduct v (.fin false 1 (Int.ofNat code - 127))

/-- Every value of a group is a zero (R89). -/
def allZero (l : List FVal) : Bool := match amaxOf l with | .zero _ => true | _ => false

/-- A group in FP8 or MXFP4 with an E8M0 scale (R89): `t` is the element type. DESIGN CHOICE (log entry 99): each element is rounded to
nearest even, as the epilogue's CVT rounds. -/
def quantScaled (t : Nat) (emax : Int) (l : List FVal) : Quantised :=
  let code := scaleCode emax l
  let codes := l.map fun v =>
    if code = 0xFF ∨ allZero l = true then 0
    else (cvtToFloat ⟨1, true, false, false, 0⟩ single (fmtOf t) false (exactProduct v (.fin false 1 (127 - Int.ofNat code)))).bits
  ⟨code, codes, codes.map fun c => scaled code (unpack (fmtOf t) c)⟩

/-- The value of a half-step code under a parameter word (R77). -/
def halfStep (param bits code : Nat) : FVal :=
  let k := 2 * signedOf bits code + 1 - 2 * signedOf 8 (bitsOf param 16 8)
  exactProduct (unpack (fmtOf 8) (bitsOf param 0 16)) (.fin (decide (k < 0)) k.natAbs (-1))

/-- The lesser, or the greater, of two values. -/
def pickVal (max : Bool) (a b : FVal) : FVal := if (cmpVals a b < 0) != max then a else b

/-- σ of a half-step group (R90), as binary16 bits; `n2` is 2·Lmax. -/
def sigmaOf (n2 : Nat) (gmin gmax : FVal) : Nat :=
  let up : Round := ⟨3, false, false, false, 0⟩
  let span := match exactSum gmax (gmin.flip true) with
    | .fin n m e => unpack single (roundPack single up n m e).bits
    | v => v
  let s := match span with
    | .zero _ => quotientBits (fmtOf 8) up (gmax.flip gmax.neg) (.fin false n2 (-1))
    | v => quotientBits (fmtOf 8) up v (.fin false n2 0)
  if s = 0 then 0x3C00 else if s = 0x7C00 then 0x7BFF else s

/-- z of a half-step group (R90), as a whole number of steps. DESIGN CHOICE (log entry 83): the FP32 value of R90 is rounded to a whole
number, nearest-even. -/
def zeroPoint (n2 : Nat) (gmin sigma : FVal) : Int :=
  let top := exactSum (exactProduct (.fin true n2 (-1)) sigma) (gmin.flip true)
  match unpack single (quotientBits single nearest top sigma) with
  | .fin n m e => clampInt (-128) 127 (roundToInt nearest n m e).1
  | .inf n => if n then -128 else 127
  | _ => 0

/-- The code of an element (R90). -/
def halfCode (bits : Nat) (sigma : FVal) (z : Int) (v : FVal) : Nat :=
  let q := unpack single (quotientBits single nearest v sigma)
  let down : Round := ⟨4, false, false, false, 0⟩
  let range := intRange true bits
  match roundSingle (exactSum q (intVal z)) with
  | .fin n m e => wrapInt bits (clampInt range.1 range.2 (roundToInt down n m e).1)
  | .inf n => wrapInt bits (if n then range.1 else range.2)
  | _ => 0

/-- A group in HS4 or HS8 (R90). -/
def quantHalf (bits : Nat) (l : List FVal) : Quantised :=
  if l.any fun v => v.isNan || (match v with | .inf _ => true | _ => false) then
    ⟨0x7E00, l.map fun _ => 0, l.map fun _ => .nan false false 0⟩
  else
    let n2 := 2 ^ bits - 1
    let gmin := l.foldl (pickVal false) (l.headD (.zero false))
    let gmax := l.foldl (pickVal true) (l.headD (.zero false))
    let sb := sigmaOf n2 gmin gmax
    let z := zeroPoint n2 gmin (unpack (fmtOf 8) sb)
    let param := sb + atBit (wrapInt 8 z) 16
    let codes := l.map (halfCode bits (unpack (fmtOf 8) sb) z)
    ⟨param, codes, codes.map (halfStep param bits)⟩

/-- A group of FP32 inputs quantised by SUB. -/
def quantGroup (sub : Nat) (l : List FVal) : Quantised :=
  match sub with
  | 0 => quantHalf 8 l
  | 1 => quantHalf 4 l
  | 2 => quantScaled 12 8 l
  | 3 => quantScaled 13 15 l
  | _ => quantScaled 14 2 l

/-- The element width of QUANT's codes. -/
def quantWidth (sub : Nat) : Nat := if sub = 1 ∨ sub = 4 then 4 else 8

/-- The groups of a row. -/
def quantRow (sub size : Nat) (l : List FVal) : List Quantised :=
  (List.range (64 / size)).map fun g => quantGroup sub (((l.drop (g * size)).take size).map roundSingle)

/-! ## A drain under way -/

/-- A drain: the machine, the row, the first fault or wait that stops it, the latest WCT of its writes, and the vectors
it has fetched, by program word. -/
structure Drain where
  s : State
  row : Row
  fault : Option Trap
  stall : Option Stall
  wct : Nat
  kept : List (Nat × List FVal)
  began : Task
  deriving DecidableEq, Repr

/-- One access of a drain; nothing more happens after one that faults or waits. -/
def Drain.act (p : Drain) (f : State → Row → Res (State × Row × Nat)) : Drain :=
  if p.fault.isSome || p.stall.isSome then p
  else match f p.s p.row with
    | .ok (s, row, w) => { p with s := s, row := row, wct := later p.wct w }
    | .trap k => { p with fault := some k }
    | .stall w => { p with stall := some w }

/-- A change of the row alone. -/
def Drain.rowOp (p : Drain) (f : Row → Row) : Drain := p.act fun s w => .ok (s, f w, 0)

/-- Bytes a drain stores in the pad (R144, R145): the range must lie in the pad space, lines that a clearing moves, that an
earlier matrix operation of the context still reads or that were full as the drain began and whose waiters are served first (R56, log
entry 45) hold it up, and the lines become full. -/
def drainPad (o : MatOp) (began : Task) (s : State) (code off : Nat) (bytes : List Byte) : Res State :=
  if !padIn s.task off bytes.length then .trap (copyFault 0x0A 16 off)
  else if padMoving s off then .stall .clearing
  else if (linesOf off bytes.length).any (matHolds s fun k => k.task == o.task && k.ctx == o.ctx && decide (k.op < o.op)) then
    .stall .matrixRead
  else if (linesOf off bytes.length).any (servedFirst s began) then .stall .served
  else .ok { s with task := setFull (rotWrite code off bytes s.task) (linesOf off bytes.length) }

/-- Values read at an argument's address: elements of a type, consecutive. DESIGN CHOICE (log entry 81): BIAS, SCALE and RESID read global
memory, and QUANT stores its parameter words in the pad with rotation code 0. -/
def fetchVals (t n va : Nat) (s : State) : Res (State × List FVal) :=
  (copyRead va (n * (typeBits t / 8)) s).bind fun q =>
    .ok (q.1, (List.range n).map fun c =>
      unpack (fmtOf t) (ofBytesLE ((q.2.1.drop (c * (typeBits t / 8))).take (typeBits t / 8))))

/-- A vector that the drain loads once, at its first use (R144). -/
def Drain.vector (p : Drain) (k t va : Nat) : Drain :=
  match lookupNat k p.kept with
  | some _ => p
  | none =>
    if p.fault.isSome || p.stall.isSome then p
    else match fetchVals t 64 va p.s with
      | .ok (s, l) => { p with s := s, kept := (k, l) :: p.kept }
      | .trap k => { p with fault := some k }
      | .stall w => { p with stall := some w }

/-- The type of a float operand by SUB: f32, bf16, f16. -/
def subType (sub : Nat) : Nat := if sub = 0 then 10 else if sub = 1 then 9 else 8

/-- The type CVT names by SUB. -/
def cvtType (sub : Nat) : Nat := match sub with | 0 => 10 | 1 => 9 | 2 => 8 | 3 => 12 | _ => 13

/-- An address formed from an argument, modulo 2^64. -/
def argAddr (args : Vector Word64 4) (arg off : Nat) : Nat := ((vget args arg 0).toNat + off) % 2 ^ 64

/-- STP's argument (R135, R144): the trap of a breach of its layout. DESIGN CHOICE (log entry 82): such a breach, and a cell of ESUM that
is not aligned, fail the batch as the drain meets them, with codes 0x01 and 0x08. -/
def stpTrap (x : Word64) : Option Trap :=
  if bitsOf x.toNat 36 28 ≠ 0 ∨ 8 ≤ bitsOf x.toNat 32 4 then some (copyFault 0x01 0 (pairBase x))
  else if pairBase x % 16 ≠ 0 then some (copyFault 0x08 0 (pairBase x))
  else none

/-- The stores of a row in EF: whole, or under TRANS one element a column with the row as its place (R144). -/
def Drain.stores (p : Drain) (trans : Bool) (pitch r : Nat) (put : State → Nat → List Byte → Res (State × Nat)) : Drain :=
  if trans then
    (List.range 64).foldl (fun p c => p.act fun s w =>
      (put s (pitch * c + r * (w.width / 8)) (w.elem c)).bind fun q => .ok (q.1, w, q.2)) p
  else p.act fun s w => (put s (pitch * r) w.bytes).bind fun q => .ok (q.1, w, q.2)

/-- An exact add of a value into a cell at an address (R95, R145). -/
def cellStore (va : Nat) (v : FVal) (s : State) : Res (State × Nat) :=
  if va % 64 ≠ 0 then .trap (copyFault 0x08 0 va)
  else copyAtomic { layoutOf 0 with dop := 2 } va 64 (fun b => bytesLE 64 (cellAdd (ofBytesLE b) (addendOf v))) s

/-- QUANT of a row: its codes, then its parameter words to the pad, group by group (R144). -/
def Drain.quant (p : Drain) (o : MatOp) (args : Vector Word64 4) (r : Nat) (w : Word32) : Drain :=
  let size := if microImm w = 0 then 32 else 64
  let groups := quantRow (microSub w) size p.row.vals
  let p := p.rowOp fun row => { row with
    bits := groups.flatMap fun g => g.codes, vals := groups.flatMap fun g => g.vals, width := quantWidth (microSub w) }
  (List.zip (List.range groups.length) groups).foldl (fun p g => p.act fun s row =>
    (drainPad o p.began s 0 (argAddr args (microArg w) (4 * (r * (64 / size) + g.1))) (bytesLE 4 g.2.param)).bind fun s =>
      .ok (s, row, 0)) p

/-- One micro-op on a row (R144); `k` is its place in the program. -/
def microOp (o : MatOp) (args : Vector Word64 4) (trans : Bool) (r k : Nat) (w : Word32) (p : Drain) : Drain :=
  let at_ (off : Nat) : Nat := argAddr args (microArg w) off
  let sub := microSub w
  let imm := microImm w
  let half := unpack (fmtOf 8) imm
  match microCode w with
  | 1 =>
    let p := p.vector k (subType sub) (at_ 0)
    let l := (lookupNat k p.kept).getD []
    p.rowOp fun row => row.arith fun c x => exactSum x (l.getD c (.zero false))
  | 2 =>
    if sub = 0 then p.rowOp fun row => row.arith fun _ x => exactProduct x half
    else if sub = 1 then
      let p := p.vector k 10 (at_ 0)
      let l := (lookupNat k p.kept).getD []
      p.rowOp fun row => row.arith fun c x => exactProduct x (l.getD c (.zero false))
    else p.act fun s row => (fetchVals 10 1 (at_ (4 * r)) s).bind fun q =>
      .ok (q.1, row.arith fun _ x => exactProduct x (q.2.headD (.zero false)), 0)
  | 3 => p.act fun s row => (fetchVals (subType sub) 64 (at_ (16 * imm * r)) s).bind fun q =>
      .ok (q.1, row.arith fun c x => exactSum x (q.2.getD c (.zero false)), 0)
  | 4 => p.act fun s row =>
      let open_ (c : Nat) : Nat := ofBytesLE (freeBytes (s.freeCtr + 4 * c) 4)
      .ok (useFree s 256, row.arith fun c x => unpack single (actBits sub imm (open_ c) x), 0)
  | 5 => p.rowOp fun row =>
      let f := fmtOf (cvtType sub)
      let b := row.vals.map fun x => (cvtToFloat ⟨1, bitAt imm 0, false, false, 0⟩ single f false x).bits
      { row with bits := b, vals := b.map (unpack f), width := f.width }
  | 6 => p.quant o args r w
  | 7 => p.rowOp fun row => { row with max := maxBits row.vals }
  | 8 => p.rowOp fun row => { row with sum := valueBits single (treeSum row.vals) }
  | 9 => p.rowOp fun row => row.arith fun _ x =>
      let d := roundSingle (exactSum x ((unpack single row.max).flip true))
      unpack single (fUnit 3 single nearest (valueBits single (exactProduct d half))).bits
  | 11 =>
    let x := vget args (microArg w) 0
    p.act (fun s row => (Res.check (stpTrap x)).bind fun _ => .ok (s, row, 0))
      |>.stores trans (16 * pairPitch x) r fun s off bytes =>
        (drainPad o p.began s (bitsOf x.toNat 32 4) (pairBase x + off) bytes).bind fun s => .ok (s, 0)
  | 12 => p.stores trans (16 * imm) r fun s off bytes => copyWrite (at_ off) bytes s
  | 13 => (List.range 64).foldl (fun p c => p.act fun s row =>
      let off := if sub = 0 then 64 * (64 * r + c) else if sub = 1 then 64 * c else 64 * r
      (cellStore (at_ off) (row.vals.getD c (.zero false)) s).bind fun q => .ok (q.1, row, q.2)) p
  | 14 => p.rowOp fun row => row.arith fun _ x =>
      unpack single (quotientBits single nearest x (unpack single row.sum))
  | 15 => p.act fun s row =>
      (copyWrite (at_ (4 * r)) (bytesLE 4 (if sub = 0 then row.max else row.sum)) s).bind fun q => .ok (q.1, row, q.2)
  | _ => p

/-- The program over one row, until END or past its last word. -/
def runRow (o : MatOp) (args : Vector Word64 4) (trans : Bool) (r : Nat) : List (Nat × Word32) → Drain → Drain
  | [], p => p
  | (k, w) :: rest, p => if microCode w = 0 then p else runRow o args trans r rest (microOp o args trans r k w p)

/-- The row of a tile that a drain starts with (R144). -/
def tileRow (t : Memory) (tag : Tag) (r : Nat) : Row :=
  let b := (List.range 64).map fun c => ofBytesLE (t.getBytes (256 * r + 4 * c) 4)
  ⟨if tag = .int32 then b.map fun x => intVal (signedOf 32 x) else b.map (unpack single), b, 32, 0, 0⟩

/-- The tile of a bank of the task; a bank never written holds zeros (R50). -/
def tileOf (t : Task) (bank : Nat) : Memory := (lookupNat bank t.tiles).getD []

/-- Rows of a tile set to zero. -/
def zeroRows (t : Memory) (rows : List Nat) : Memory :=
  rows.foldl (fun t r => t.setBytes (256 * r) (List.replicate 256 0)) t

/-- A drain over rows, in ascending order (R144, R145): with `clear` each row that it finishes reads zero. -/
def drainRows (o : MatOp) (program : Vector Word32 16) (args : Vector Word64 4) (clear : Bool) : List Nat → Drain → Drain
  | [], p => p
  | r :: rest, p =>
    let l := program.toList
    let p := { p with row := tileRow (tileOf p.s.task o.bank) o.tag r }
    let p := runRow o args ((l.headD 0 |> isTrans)) r (List.zip (List.range 16) l) p
    if p.fault.isSome || p.stall.isSome then p
    else
      let s := if clear then
          { p.s with task := { p.s.task with tiles := setNat o.bank (zeroRows (tileOf p.s.task o.bank) [r]) p.s.task.tiles } }
        else p.s
      drainRows o program args clear rest { p with s := s }

end Sys2Proof.Machine
end

