-- ==== Sys2Proof/Machine/Matrix.lean ====
section
/-! DEFINITION. The matrix words (R130 to R141, R317 to R328): the step sum (R91, R92), the words that queue operations,
seal and wait for batches and load epilogue programs, and the events in which a queued operation or a drain executes. -/

namespace Sys2Proof.Machine

/-! ## Steps (R133, R137) -/

/-- The width of an element of a format's operands. -/
def stepBits (fmt : Nat) : Nat := if fmt < 2 then 16 else if fmt < 8 then 8 else 4

/-- The float type of an operand's elements; `first` marks A. -/
def stepType (fmt : Nat) (first : Bool) : Nat :=
  match fmt with
  | 0 => 9 | 1 => 8 | 2 => 12 | 3 => 13
  | 4 => if first then 12 else 13
  | 5 => if first then 13 else 12
  | _ => 14

/-- What scales the elements of one side of a step: an E8M0 code, or a half-step parameter word, for each half. -/
structure Scales where
  low : Nat
  high : Nat
  deriving DecidableEq, Repr

/-- The scales of MMA: code 127, or σ = 1 and z = 0 (R323). -/
def Scales.plain (fmt : Nat) : Scales := if fmt = 7 ∨ fmt = 9 then ⟨0x3C00, 0x3C00⟩ else ⟨127, 127⟩

/-- The scales of a row under MMAS (R137): from lanes of vq and vq+1. -/
def rowScales (fmt : Nat) (q q1 : Word32) : Scales :=
  match fmt with
  | 7 => ⟨q.toNat, q.toNat⟩
  | 9 => ⟨q.toNat, q1.toNat⟩
  | 8 => ⟨bitsOf q.toNat 0 8, bitsOf q.toNat 8 8⟩
  | _ => ⟨bitsOf q.toNat 0 8, bitsOf q.toNat 0 8⟩

/-- The scales of a column under MMAS (R137): from the eight bytes at its pad offset. -/
def colScales (fmt : Nat) (x : Nat) : Scales :=
  match fmt with
  | 7 => ⟨bitsOf x 0 32, bitsOf x 0 32⟩
  | 9 => ⟨bitsOf x 0 32, bitsOf x 32 32⟩
  | 8 => ⟨bitsOf x 0 8, bitsOf x 8 8⟩
  | _ => ⟨bitsOf x 0 8, bitsOf x 0 8⟩

/-- The exact value of element `k` of an operand vector (R71, R74, R77). -/
def stepValue (fmt : Nat) (first : Bool) (sc : Scales) (x k : Nat) : FVal :=
  let b := stepBits fmt
  let code := bitsOf x (b * k) b
  let scale := if k < 32 then sc.low else sc.high
  if fmt = 7 ∨ fmt = 9 then halfStep scale b code
  else if fmt < 2 then unpack (fmtOf (stepType fmt first)) code
  else scaled scale (unpack (fmtOf (stepType fmt first)) code)

/-- The exact sum of a step's products (R91, R92). -/
def stepSum (fmt : Nat) (sa sb : Scales) (x y : Nat) : FVal :=
  (List.range (256 / stepBits fmt)).foldl
    (fun p k => exactSum p (exactProduct (stepValue fmt true sa x k) (stepValue fmt false sb y k))) (.zero true)

/-- The integer sum of a step of fmt 6 (R92). -/
def stepInt (x y : Nat) : Int :=
  (List.range 32).foldl (fun p k => p + signedOf 8 (bitsOf x (8 * k) 8) * signedOf 8 (bitsOf y (8 * k) 8)) 0

/-- An element of a tile after a step (R91, R323). -/
def stepElem (fmt : Nat) (sa sb : Scales) (acc x y : Nat) : Nat :=
  if fmt = 6 then wrapInt 32 (Int.ofNat acc + stepInt x y)
  else valueBits single (exactSum (unpack single acc) (stepSum fmt sa sb x y))

/-- Vector `i` of an operand as a number of 256 bits (R134 to R136). -/
def operandVec (t : Task) (index : Nat) (src : MatSrc) (i : Nat) : Nat :=
  match src with
  | .regs v => (vget v i (Vector.replicate 8 0)).toList.foldr (fun w acc => w.toNat + acc * 2 ^ 32) 0
  | .pad first second => ofBytesLE (rotRead t (pairRot second) (vectorOff first second i index) 32)

/-- The scales of a row and of a column of a queued step. -/
def stepScales (t : Task) (fmt index : Nat) (rowScale : Option (Vector Word32 64 × Vector Word32 64)) (col r c : Nat) :
    Scales × Scales :=
  match rowScale with
  | none => (Scales.plain fmt, Scales.plain fmt)
  | some (q, q1) => (rowScales fmt (vget q r 0) (vget q1 r 0), colScales fmt (padNat t (col + 512 * index + 8 * c) 8))

/-- A row of a tile after a step. -/
def stepRow (t : Task) (fmt index : Nat) (a b : MatSrc) (rowScale : Option (Vector Word32 64 × Vector Word32 64)) (col : Nat)
    (tile : Memory) (r : Nat) : Memory :=
  let x := operandVec t index a r
  tile.setBytes (256 * r) ((List.range 64).flatMap fun c =>
    let sc := stepScales t fmt index rowScale col r c
    bytesLE 4 (stepElem fmt sc.1 sc.2 (ofBytesLE (tile.getBytes (256 * r + 4 * c) 4)) x (operandVec t index b c)))

/-- The tile of an operation that is no drain, after it (R323, R324). -/
def tileAfter (t : Task) (o : MatOp) : Memory :=
  let tile := tileOf t o.bank
  let rows := lanesOf o.rows
  match o.work with
  | .step fmt index a b rowScale col => rows.foldl (stepRow t fmt index a b rowScale col) tile
  | .zero => zeroRows tile rows
  | .load (.pad first second) =>
      rows.foldl (fun tile r => tile.setBytes (256 * r) (rotRead t (pairRot second) (vectorOff first second r 0) 256)) tile
  | _ => tile

/-! ## Events (R138, R144, R145) -/

/-- Every earlier operation on an operation's tile has finished. -/
def tileFree (c : Core) (n : Nat) (o : MatOp) : Bool :=
  !((c.matq.take n).any fun k => k.bank == o.bank && k.task == o.task)

/-- The empty line an operation waits for, with the offset that meets it. -/
def matEmpty (t : Task) (o : MatOp) : Option (Nat × Nat) :=
  (matReads o).findSome? fun r => ((linesOf r.1 r.2).find? fun k => t.empty.contains k).map fun k => (k, r.1)

/-- The pad ranges an operation reads, each with its rotation code. -/
def matSpans (o : MatOp) : List (Nat × Nat × Nat) :=
  let side (k : Nat) : MatSrc → List (Nat × Nat × Nat)
    | .regs _ => []
    | .pad first second => lanes64.map fun i => (pairRot second, vectorOff first second i k, 32)
  match o.work with
  | .step _ k a b rowScale col => side k a ++ side k b ++ (if rowScale.isSome then [(0, col + 512 * k, 512)] else [])
  | .load (.pad first second) => (lanesOf o.rows).map fun r => (pairRot second, vectorOff first second r 0, 256)
  | _ => []

/-- An operation reads the tile of its bank. -/
def readsTile (o : MatOp) : Bool := match o.work with | .step .. => true | .drain .. => true | _ => false

/-- Trap 0x21 of an error in a tile (R70; log entry 73). -/
def tileTrap21 : Trap := ⟨0x21, BitVec.ofNat 8 (roleCode .tile), 0, 0, 64⟩

/-- The uncorrectable error that an operation meets in the pad or in its tile (R70). -/
def matBad (t : Task) (o : MatOp) : Option Trap :=
  match (matSpans o).find? fun r => padBad t r.1 r.2.1 r.2.2 with
  | some r => some ⟨0x21, BitVec.ofNat 8 (roleCode .pad), 0, BitVec.ofNat 64 r.2.1, 64⟩
  | none => if readsTile o && t.badTiles.contains o.bank then some tileTrap21 else none

/-- A tile written in every row holds no error any more (R70). -/
def clearTile (t : Task) (o : MatOp) : Task :=
  if !readsTile o && o.rows == BitVec.allOnes 64 then { t with badTiles := t.badTiles.filter fun b => b != o.bank } else t

/-- A matrix operation leaves the queue: done, with its first fault and the latest WCT of its writes. -/
def closeMatOp (s : State) (o : MatOp) (fault : Option Trap) (w : Nat) : State :=
  let s := { s with core := { s.core with matq := eraseFirst (fun k => k.op == o.op) s.core.matq } }
  mapTask s o.task fun t => { t with
    ops := updateFirst (fun k => k.id == o.op) (fun k => { k with done := true, fault := fault, wct := later k.wct w }) t.ops }

/-- A matrix operation ends. -/
def endMatOp (s : State) (o : MatOp) (fault : Option Trap) (w : Nat) : State := settle (closeMatOp s o fault w) o.task

/-- An operation waits from now on, if it does not yet. -/
def markWait (s : State) (o : MatOp) : State :=
  let begin_ (k : MatOp) : MatOp := { k with since := match k.since with | none => some (myTime s) | some x => some x }
  { s with core := { s.core with matq := updateFirst (fun k => k.op == o.op) begin_ s.core.matq } }

/-- A time limit that began at `since` has passed (R57). -/
def waitedOut (s : State) (since : Option Nat) : Bool :=
  match since, waitLimitOf s s.task.region with
  | some t, some limit => decide (t + limit < myTime s)
  | _, _ => false

/-- The queued operation a step of an engine acts on, with its task under issue. -/
def matAt (s : State) (core n : Nat) : Option (State × MatOp) :=
  match (getCore s core).matq[n]? with
  | none => none
  | some o => if tileFree (getCore s core) n o then some (focusTask s o.task, o) else none

/-- An operation that is a drain. -/
def isDrain (o : MatOp) : Bool := match o.work with | .drain _ _ _ _ => true | _ => false

/-- MATRIX_OP_EXECUTE (R138, R323, R324): operation `n` of a core's matrix queue runs, once every earlier operation on its
tile has finished and every pad line it reads is full; a wait past the limit fails it, and so does an uncorrectable error (R70). -/
def execMatrixOpExecute (core n : Nat) (s : State) : Host.Outcome State Fault Refusal :=
  .next (match matAt s core n with
  | none => s
  | some (t, o) =>
    if isDrain o || ((matReads o).any fun r => (linesOf r.1 r.2).any fun k => padMoving t (128 * k)) then s
    else match matEmpty t.task o with
      | some (_, off) =>
        if waitedOut t o.since then endMatOp t o (some (copyFault 0x0D 2 off)) 0 else markWait t o
      | none =>
        match matBad t.task o with
        | some k => endMatOp t o (some k) 0
        | none =>
          endMatOp { t with task := clearTile { t.task with tiles := setNat o.bank (tileAfter t.task o) t.task.tiles } o } o none 0)

/-- DRAIN_EXECUTE (R144, R145): a queued drain runs its program over its rows; a fault stops it and fails its batch. -/
def execDrainExecute (core n : Nat) (s : State) : Host.Outcome State Fault Refusal :=
  .next (match matAt s core n with
  | none => s
  | some (t, o) =>
    match o.work with
    | .drain program args _ clear =>
      if (matBad t.task o).isSome then endMatOp t o (matBad t.task o) 0
      else
      let p := drainRows o program args clear (lanesOf o.rows) ⟨t, ⟨[], [], 32, 0, 0⟩, none, none, 0, [], t.task⟩
      match p.stall with
      | some (.hostLine pa) => sendBackInvalidate t pa
      | some _ => t
      | none => endMatOp p.s o p.fault p.wct
    | _ => s)

/-! ## Words -/

/-- The pad pair an operand code names. -/
def padPair (s : State) (code : Nat) : Word64 × Word64 :=
  ((aReg (readRegs s) (code - 64)).base, (aReg (readRegs s) (code - 63)).base)

/-- A reserved bit of a pair is set, or its bank-rotation code is reserved (R46, R135). -/
def pairBad (p : Word64 × Word64) : Bool :=
  bitsOf p.1.toNat 32 32 != 0 || bitsOf p.2.toNat 20 44 != 0 || decide (8 ≤ pairRot p.2)

/-- The checks of pad operands at issue (R135, R136, R318): reserved bits, BASE, and the vectors of `n` bytes at rows. -/
def pairTrap (s : State) (pairs : List (Word64 × Word64)) (rows : List Nat) (index n : Nat) : Option Trap :=
  if pairs.any pairBad then some (trapHere s 0x01 0)
  else match pairs.find? fun p => pairBase p.1 % 16 != 0 with
    | some p => some (trapAt s 0x08 0 (pairBase p.1))
    | none => pairs.findSome? fun p =>
        (rows.find? fun i => !padIn s.task (vectorOff p.1 p.2 i index) n).map fun i =>
          trapAt s 0x0A 16 (vectorOff p.1 p.2 i index)

/-- An operand captured at issue (R134, R135), its lanes through the pattern that a kind 2 leading word gives it (R68). -/
def captureSrc (s : State) (opd code : Nat) : MatSrc :=
  if code < 64 then
    let r := readRegs s
    let src := srcOf r s.me.path.lead opd code
    .regs (Vector.ofFn fun i => Vector.ofFn fun w : Fin 8 => srcWord s.me r src w.val i.val)
  else .pad (padPair s code).1 (padPair s code).2

/-- An operation queued, unsealed, in the issuing context; the word stalls while the queue holds 16 (R138). -/
def queueMat (s : State) (bank : Nat) (tag : Tag) (work : MatWork) : Res State :=
  if 16 ≤ s.core.matq.length then .stall .matrixQueue
  else
    let (t, op) := newOp s true
    .ok { t with core := { t.core with matq := t.core.matq ++ [⟨op, s.me.id, s.task.tid, bank, tag, p0 s, work, none⟩] } }

/-- The m register a word names. -/
def mRegOf (s : State) (tile : BitVec 3) : MReg := vget s.me.regs.m tile.toNat MReg.unbound

/-- MMA and MMAS once their scales are known (R323). -/
def queueStep (s : State) (tile : BitVec 3) (ka kb fmt index : Nat) (rowScale : Option (Vector Word32 64 × Vector Word32 64))
    (col : Nat) : Res State :=
  let m := mRegOf s tile
  queueMat s (m.bank.getD 0) m.tag (.step fmt index (captureSrc s 0 ka) (captureSrc s 1 kb) rowScale col)

/-- The pad pairs of a step's operands. -/
def stepPairs (s : State) (ka kb : Nat) : List (Word64 × Word64) :=
  ([ka, kb].filter fun c => decide (64 ≤ c)).map (padPair s)

/-- MMA (R323). -/
def execMma (tile : BitVec 3) (ka kb : BitVec 7) (fmt : BitVec 4) (step : BitVec 2) (s : State) :
    Host.Outcome State Fault Refusal :=
  runWord (.mma tile ka kb fmt step) s fun s =>
    (Res.check (pairTrap s (stepPairs s ka.toNat kb.toNat) lanes64 step.toNat 32)).bind fun _ =>
      queueStep s tile ka.toNat kb.toNat fmt.toNat step.toNat none 0

/-- MMAS (R137, R322, R323): the row parameters are read at issue. -/
def execMmas (tile : BitVec 3) (ka kb : BitVec 7) (fmt : BitVec 4) (step : BitVec 2) (s : State) :
    Host.Outcome State Fault Refusal :=
  runWord (.mmas tile ka kb fmt step) s fun s =>
    let e := extraOf s.me.path.lead
    let r := readRegs s
    let cs := (aReg r (e.aux % 32)).base.toNat
    let pairs := stepPairs s ka.toNat kb.toNat
    (Res.check (if pairs.any pairBad then some (trapHere s 0x01 0) else none)).bind fun _ =>
    (Res.need (cs % 8 == 0) (trapAt s 0x08 0 cs)).bind fun _ =>
    (Res.check (pairTrap s pairs lanes64 step.toNat 32)).bind fun _ =>
    (Res.need (padIn s.task (cs + 512 * step.toNat) 512) (trapAt s 0x0A 16 (cs + 512 * step.toNat))).bind fun _ =>
      queueStep s tile ka.toNat kb.toNat fmt.toNat step.toNat
        (some (rowWord r e.third 0, rowWord r e.third 1)) cs
where
  /-- The lanes of a register that holds row parameters, through their pattern (R68). -/
  rowWord (r : Regs) (third k : Nat) : Vector Word32 64 :=
    Vector.ofFn fun l => srcWord s.me r (srcOf r s.me.path.lead 2 third) k l.val

/-- An m register bound where it is not, with its tag set (R62, R324); the word stalls while the task holds no unbound
TILE bank. -/
def bindTile (s : State) (tile : BitVec 3) (tag : Tag) : Res (State × Nat) :=
  let bind (b : Nat) : State := mapRegs s fun r => { r with m := vset r.m tile.toNat ⟨some b, tag⟩ }
  match (mRegOf s tile).bank with
  | some b => .ok (bind b, b)
  | none =>
    match (unboundTiles s s.task).head? with
    | none => .stall .tile
    | some b => .ok (bind b, b)

/-- The tag of MZERO's and MLOAD's modifier (R132). -/
def modTag (i32 : BitVec 1) : Tag := if i32 = 1#1 then .int32 else .f32

/-- MZERO (R132, R324). -/
def execMzero (tile : BitVec 3) (i32 : BitVec 1) (s : State) : Host.Outcome State Fault Refusal :=
  runWord (.mzero tile i32) s fun s =>
    (bindTile s tile (modTag i32)).bind fun q => queueMat q.1 q.2 (modTag i32) .zero

/-- MLOAD (R132, R324). -/
def execMload (tile : BitVec 3) (ka : BitVec 7) (i32 : BitVec 1) (s : State) : Host.Outcome State Fault Refusal :=
  runWord (.mload tile ka i32) s fun s =>
    let pair := padPair s ka.toNat
    (Res.check (pairTrap s [pair] (lanesOf (p0 s)) 0 256)).bind fun _ =>
      (bindTile s tile (modTag i32)).bind fun q => queueMat q.1 q.2 (modTag i32) (.load (.pad pair.1 pair.2))

/-- MDRAIN (R144, R325): with .release mk reads tag 15 from the issue onward. A tile with an uncorrectable error raises trap 0x21 here
(R70). -/
def execMdrain (tile : BitVec 3) (ka : BitVec 7) (flags : BitVec 4) (s : State) : Host.Outcome State Fault Refusal :=
  runWord (.mdrain tile ka flags) s fun s =>
    let m := mRegOf s tile
    let rel := flags.getLsbD 0
    let args : Vector Word64 4 := Vector.ofFn fun k => (aReg (readRegs s) (ka.toNat - 64 + k.val)).base
    let program := vget s.task.epi (bitsOf flags.toNat 2 2) (Vector.replicate 16 0)
    (Res.check (if s.task.badTiles.contains (m.bank.getD 0) then some { tileTrap21 with lane := electedLane s } else none)).bind fun _ =>
    (queueMat s (m.bank.getD 0) m.tag (.drain program args rel (flags.getLsbD 1))).bind fun t =>
      .ok (if rel then mapRegs t fun r => { r with m := vset r.m tile.toNat MReg.unbound } else t)

/-- MSEAL (R140, R326). -/
def execMseal (s : State) : Host.Outcome State Fault Refusal := runWord .mseal s fun s => sealBatch s true

/-- MWAIT (R140, R326). -/
def execMwait (flags : BitVec 4) (s : State) : Host.Outcome State Fault Refusal :=
  runFlow (.mwait flags) s fun s => waitBatch s true flags.toNat

/-- EPLOAD (R142, R327). -/
def execEpload (tile : BitVec 3) (ka : BitVec 7) (s : State) : Host.Outcome State Fault Refusal :=
  runWord (.epload tile ka) s fun s =>
    let off := valueA s ka
    let lane := electedLane s
    (Res.check (padTrap s.task off 64 lane)).bind fun _ =>
    (padReadWait s [lane] (fun _ => off) 64).bind fun _ =>
      let words := (List.range 16).map fun k => BitVec.ofNat 32 (padNat s.task (off + 4 * k) 4)
      if !programOk words then .trap (trapHere s 0x01 0)
      else
        let slot : Vector Word32 16 := Vector.ofFn fun k => words.getD k.val 0
        .ok { s with task := { s.task with epi := vset s.task.epi tile.toNat slot } }

end Sys2Proof.Machine
end

