-- ==== Sys2Proof/Machine/Pool.lean ====
section
/-! DEFINITION. The glade words (R47 to R54, R312 to R314, R428): POOLSET with its conditions, the banks that depart and
join, and the end of a clearing; POOLQ. -/

namespace Sys2Proof.Machine

/-- What a POOLSET asks for. -/
structure Move where
  src : Role
  dst : Role
  n : Nat
  keep : Bool
  discard : Bool
  deriving DecidableEq, Repr

/-- The least number of banks of a role a task keeps (R42). -/
def roleMin (r : Role) : Nat := match r with | .reg => 1 | .cache => 2 | _ => 0

/-- The banks a role allows (R42). -/
def allows (r : Role) (b : Nat) : Bool :=
  match r with | .tile => decide (b < 32) | .fifo => decide (80 ≤ b) | _ => true

/-- The live files of a REG bank. -/
def liveFiles (s : State) (b : Nat) : Nat :=
  ((ctxsOf s s.task.tid).filter fun c => match c.file with | some f => f.1 == b | none => false).length

/-- The order in which banks of REG, CACHE, or PAD with keep depart (R48, R428). -/
def departKey (s : State) (m : Move) (b : Nat) : Nat :=
  bitNat (!allows m.dst b) * 2 ^ 16 + (if m.src = .reg then liveFiles s b else 0) * 2 ^ 8 + b

/-- The banks that depart, but for an OFF source (R48, R428); fewer than n where the task has not so many. -/
def departing (s : State) (m : Move) : List Nat :=
  let own := ownBanks s.core s.task.tid m.src
  match m.src with
  | .off => []
  | .fifo => own.reverse.take m.n
  | .tile => (unboundTiles s s.task).reverse.take m.n
  | .pad =>
    if m.keep then (sortBy (departKey s m) own).take m.n
    else s.task.padSlots.drop (s.task.padSlots.length - m.n)
  | _ => (sortBy (departKey s m) own).take m.n

/-- The OFF banks that must join in the destination's order, and those that take over pad slots (R48, R49). -/
def needed (s : State) (m : Move) : Nat × Nat :=
  (if m.src = .off then m.n else if m.dst = .off then 0
    else ((departing s m).filter fun b => !allows m.dst b).length,
   if m.keep then m.n else 0)

/-- Banks of a list taken for the destination and then, for the pad slots, from the others; none where they fall short. -/
def pickBanks (m : Move) (need : Nat × Nat) (pool : List Nat) : Option (List Nat × List Nat) :=
  let got := ((bankOrder m.dst).filter fun b => pool.contains b && allows m.dst b).take need.1
  let rest := (bankOrder .pad).filter fun b => pool.contains b && !got.contains b
  if got.length < need.1 ∨ rest.length < need.2 then none else some (got, rest.take need.2)

/-- The banks of the task's partition on the core that the task does not own, whoever holds them (R51, code 8). -/
def partitionPool (s : State) : List Nat :=
  (List.range 96).filter fun b =>
    bankPart s s.core.id b == s.task.part && !(bankAt s.core b).out && (bankAt s.core b).owner != some s.task.tid

/-- The OFF banks of the core that the task's partition may take. -/
def freePool (s : State) : List Nat := offBanks s s.core s.task.part .reg

/-- The pad slots of departing banks. -/
def departSlots (s : State) (m : Move) : List Nat :=
  if m.src = .pad then
    (List.range s.task.padSlots.length).filter fun k => (departing s m).contains (s.task.padSlots.getD k 96)
  else []

/-- A pad range touches a slot of a list. -/
def inSlots (slots : List Nat) (r : Nat × Nat) : Bool := (linesOf r.1 r.2).any fun k => slots.contains (k / 128)

/-- The REG files of the banks that stay, free, lowest first; and the contexts whose files must move. -/
def movingFiles (s : State) (m : Move) : List (Nat × Nat) × List Context :=
  if m.src ≠ .reg then ([], [])
  else
    let gone := departing s m
    ((freeFiles s s.task).filter fun f => !gone.contains f.1,
     (ctxsOf s s.task.tid).filter fun c => match c.file with | some f => gone.contains f.1 | none => false)

/-- The credits of the task's inbox in use (R125). -/
def creditsUsed (t : Task) : Nat := t.credits.toList.foldl (fun a b => a + b) 0

/-- The code of the first condition that fails, in the order of R51; 0 when all hold. -/
def poolCode (s : State) (m : Move) : Nat :=
  let own := (ownBanks s.core s.task.tid m.src).length
  let gone := departing s m
  let slots := departSlots s m
  if m.src ≠ .off ∧ (own < m.n ∨ (m.keep = false ∧ own - m.n < roleMin m.src)) then 4
  else if !chargeFits s s.task.region m.dst m.n then 2
  else if (pickBanks m (needed s m) (partitionPool s)).isNone then 8
  else if m.src = .tile ∧ gone.length < m.n then 7
  else if m.src = .fifo ∧ ((s.task.inbox.any fun e => gone.contains e.bank) ∨ 127 * (own - m.n) < creditsUsed s.task) then 6
  else if (copiesOf s.core s.task.tid).any fun c => match c.kind with
      | .layout rec _ dense _ => (layoutWrites (layoutOf rec) dense).any (inSlots slots)
      | _ => false then 5
  else if !m.keep && !m.discard && slots.any fun k => (List.range 128).any fun j => !s.task.empty.contains (128 * k + j) then 3
  else if s.core.clearing.isSome || (pickBanks m (needed s m) (freePool s)).isNone
      || decide ((movingFiles s m).1.length < (movingFiles s m).2.length) then 1
  else 0

/-! ## Accesses in flight (R52, R328) -/

/-- The pad ranges a queued drain writes: rows of STP, and QUANT's parameter words (R144). -/
def drainWrites (o : MatOp) : List (Nat × Nat) :=
  match o.work with
  | .drain program args _ _ =>
    program.toList.flatMap fun w =>
      let x := vget args (microArg w) 0
      if microCode w = 11 then (List.range 64).map fun r => (pairBase x + 16 * pairPitch x * r, 256)
      else if microCode w = 6 then [(x.toNat, 512)] else []
  | _ => []

/-- The pad ranges a queued copy reads or writes, a tile copy's tile among them. -/
def copyTouches (c : Copy) : List (Nat × Nat) :=
  match c.kind with
  | .layout rec _ dense _ =>
    let l := layoutOf rec
    layoutWrites l dense ++ (if l.dir < 2 then [(dense, l.denseLen)] else [])
  | .tileLoad tile rec => tileRanges tile rec
  | .tileStore tile rec => tileRanges tile rec

/-- Remote pad atomics on their way to departing slots of the task (R127). -/
def remoteBound (s : State) (slots : List Nat) : Bool :=
  s.remote.any fun q =>
    (match stallOf s q.ctx q.path with | some (.remote, _) => true | _ => false) &&
    match (anyCtx s q.ctx).bind fun c => getTask s c.task with
    | none => false
    | some u => u.serial == s.task.serial
        && (remoteLanes u.core q).any fun l => l.core == s.task.core && slots.contains (l.off / 16384)

/-- Something issued before still touches a departing pad slot: a copy, a matrix operation, a held write of a registered
tile, a VTEST or FBW between two of its lanes, a remote atomic (R52, R328, R341). DEDUCED (log entry 94): a word that waits on an empty
line of such a slot is not waited for, since the line may never become full. -/
def padBusy (s : State) (slots : List Nat) : Bool :=
  !slots.isEmpty &&
    (((copiesOf s.core s.task.tid).any fun c => (copyTouches c).any (inSlots slots))
      || (s.core.matq.any fun o => o.task == s.task.tid && (matReads o ++ drainWrites o).any (inSlots slots))
      || (s.core.merge.any fun g => g.task == s.task.tid && !g.held.isEmpty && inSlots slots (tileBase g.tile, tileBytes))
      || lanesOpen s s.task || remoteBound s slots)

/-! ## The move (R48 to R50) -/

/-- Pad slots after the move: the highest gone, or their banks replaced, and the banks that join PAD added. -/
def slotsAfter (s : State) (m : Move) (gone spare joined : List Nat) : List Nat :=
  let l := s.task.padSlots
  if m.src = .pad then
    if m.keep then l.map fun b => match lookupNat b (List.zip gone spare) with | some k => k | none => b
    else l.take (l.length - m.n)
  else if m.dst = .pad then l ++ sortBy (fun b => b) joined else l

/-- The CACHE lines of a task beyond its room dropped, the oldest first (log entry 12). -/
def trimCache (c : Core) (tid : Nat) : Core :=
  let mine := c.cache.filter fun l => l.task == tid
  let keep := mine.drop (mine.length - cacheRoom c tid)
  { c with cache := (c.cache.filter fun l => l.task != tid) ++ keep }

/-- The files of contexts moved into free ones. -/
def moveFiles (s : State) : List Context → List (Nat × Nat) → State
  | c :: cs, f :: fs => moveFiles (mapCtx s c.id fun d => { d with file := some f }) cs fs
  | _, _ => s

/-- A POOLSET whose conditions hold, done: banks, pad, tiles, files, charges; the clearing ends later. -/
def applyMove (s : State) (m : Move) (dest : Nat) (subs spare : List Nat) : State :=
  let gone := departing s m
  let slots := if m.keep then departSlots s m else []
  let stay := gone.filter (allows m.dst)
  let joined := if m.src = .off then subs else if m.dst = .off then [] else stay ++ subs
  let files := movingFiles s m
  let tid := s.task.tid
  let padSlots := slotsAfter s m gone spare joined
  let limit := 16384 * padSlots.length
  let s := moveFiles s files.2 files.1
  let core := setBanks (setBanks (setBanks s.core gone .off none) joined m.dst (some tid)) spare .pad (some tid)
  let clearing : Clearing := ⟨s.me.id, s.me.path.id, tid, dest, slots, files.2.map fun c => c.id⟩
  let s := { s with
    core := { trimCache core tid with clearing := some clearing }
    task := { s.task with
      padSlots := padSlots
      pad := s.task.pad.filter fun c => decide (c.1 < limit)
      empty := s.task.empty.filter fun k => decide (128 * k < limit)
      tiles := if m.dst = .tile then s.task.tiles.filter fun t => !joined.contains t.1 else s.task.tiles
      badPad := s.task.badPad.filter fun b => decide (b < limit)
      badTiles := s.task.badTiles.filter fun b => !gone.contains b && !joined.contains b
      badInbox := s.task.badInbox.filter fun b => !gone.contains b.1
      withdrawn := if m.src = .fifo ∨ m.dst = .fifo then none else s.task.withdrawn } }
  let s := charge s s.task.region m.dst m.n
  if m.src = .off ∨ m.keep = true then s else release s s.task.region m.src m.n

/-! ## The words -/

/-- POOLSET (R47 to R52, R312, R313): a non-zero code at once, or a clearing whose end writes code 0. -/
def poolWord (s : State) (m : Move) (dest : BitVec 7) (trapped : Bool) : Res State :=
  match s.core.clearing with
  | some c => if c.ctx = s.me.id ∧ c.path = s.me.path.id then .stall .clearing else coded s m dest trapped
  | none => coded s m dest trapped
where
  /-- The conditions, then the move. -/
  coded (s : State) (m : Move) (dest : BitVec 7) (trapped : Bool) : Res State :=
    match poolCode s m with
    | 0 =>
      if padBusy s (departSlots s m) then .stall .pool
      else match pickBanks m (needed s m) (freePool s) with
        | none => .stall .pool
        | some (subs, spare) =>
          let t := applyMove s m dest.toNat subs spare
          .ok (wordStall t .clearing)
    | k =>
      let s := if k = 6 then
          { s with task := { s.task with withdrawn := some ((ownBanks s.core s.task.tid .fifo).length - m.n) } }
        else s
      if trapped then .ok (wordTrap s (trapHere s 0x0C k)) else .ok (wordDone (setUniform s dest (BitVec.ofNat 64 k) .int32))

/-- POOLSET. -/
def execPoolset (d : BitVec 7) (src dst : BitVec 3) (b : BitVec 7) (f3 : BitVec 3) (s : State) :
    Host.Outcome State Fault Refusal :=
  runFlow (.poolset d src dst b f3) s fun s =>
    match poolWord s ⟨roleOf src.toNat, roleOf dst.toNat, b.toNat, f3.getLsbD 0, f3.getLsbD 1⟩ d (f3.getLsbD 2) with
    | .ok t => t
    | .trap k => wordTrap s k
    | .stall w => wordStall s w

/-- CLEARING_COMPLETE (R47): the clearing of a core ends; its code 0 is written and the word is over. -/
def execClearingComplete (core : Nat) (s : State) : Host.Outcome State Fault Refusal :=
  .next (match (getCore s core).clearing with
  | none => s
  | some c =>
    let s := mapCore s core fun k => { k with clearing := none }
    onPath s c.ctx c.path fun s => wordDone (setUniform s (BitVec.ofNat 7 c.dest) 0 .int32))

/-- POOLQ (R314): the counter and the budget of a role at a level of the task's line. -/
def poolInfo (s : State) (role : Role) (level : Nat) : Nat :=
  let line := (ancestry s s.task.region).takeWhile fun r => r.part == s.task.part
  let k := earlier level (line.length - 1)
  let word (used budget : Nat) : Nat := used % 2 ^ 17 + atBit (budget % 2 ^ 17) 17 + atBit (k % 8) 34
  match role, (line.drop k).head? with
  | .off, _ => word (freePool s).length 0x1FFFF
  | _, some r => word (vget r.used (roleCode role) 0) (ownBudget r role)
  | _, none => word 0 0x1FFFF

/-- POOLQ. -/
def execPoolq (d : BitVec 7) (src dst : BitVec 3) (s : State) : Host.Outcome State Fault Refusal :=
  runWord (.poolq d src dst) s fun s =>
    .ok (setUniform s d (BitVec.ofNat 64 (poolInfo s (roleOf src.toNat) dst.toNat)) .int32)

end Sys2Proof.Machine
end

