-- ==== Sys2Proof/Machine/Engines.lean ====
section
/-! DEFINITION. The copy channels at work (R118 to R124, R57, R170): the elements a channel delivers, the end of a copy, and
the events COPY_START and COPY_COMPLETE. -/

namespace Sys2Proof.Machine

/-! ## Delivery (R122) -/

/-- The places of a copy's elements in the order it delivers them: ascending destination addresses. -/
def copyOrder (c : Copy) : List Nat :=
  match c.kind with
  | .layout rec coords _ _ => layoutOrder (layoutOf rec) coords
  | .tileLoad _ rec => List.range (tileCount rec)
  | .tileStore tile rec => sortBy (imageAt tile rec) (List.range (tileCount rec))

/-- One element of a copy; `last` marks the copy's last. -/
def copyElem (c : Copy) (n : Nat) (last : Bool) (s : State) : Res (State × Copy) :=
  match c.kind with
  | .layout rec coords dense _ => layoutElem (layoutOf rec) coords dense n last c s
  | .tileLoad tile rec => loadTileElem tile rec n c s
  | .tileStore tile rec => storeTileElem tile rec n c s

/-- The mark of a copy's channel after the elements delivered (R122); none for a global destination. -/
def copyMark (c : Copy) : Option Nat :=
  match c.kind with
  | .layout rec _ dense _ => layoutMark (layoutOf rec) dense c.sent
  | .tileLoad tile _ => some (tileSide tile c.sent).1
  | .tileStore _ _ => none

/-- A copy under way: the machine, the copy, and what has stopped it. -/
structure Delivery where
  s : State
  c : Copy
  fault : Option Trap
  stall : Option Stall
  deriving DecidableEq, Repr

/-- Elements delivered one after another, until one faults or waits. -/
def deliver : List (Nat × Bool) → Delivery → Delivery
  | [], d => d
  | (n, last) :: rest, d =>
    match copyElem d.c n last d.s with
    | .ok (s, c) => deliver rest { d with s := s, c := { c with sent := c.sent + 1, since := none, needs := [] } }
    | .trap k => { d with fault := some k }
    | .stall w => { d with stall := some w }

/-- The elements still to deliver, the last one marked. -/
def remaining (c : Copy) : List (Nat × Bool) :=
  let l := copyOrder c
  (List.zip l (List.range l.length)).drop c.sent |>.map fun e => (e.1, e.2 + 1 == l.length)

/-! ## The channel -/

/-- A channel of the core under issue changed. -/
def mapChan (s : State) (ch : Nat) (f : Channel → Channel) : State :=
  { s with core := { s.core with chans := vset s.core.chans ch (f (channel s.core ch)) } }

/-- The running copy put back with its mark (R122). -/
def putCopy (s : State) (ch : Nat) (c : Copy) : State :=
  mapChan s ch fun q => { q with
    queue := c :: q.queue.drop 1
    mark := match copyMark c with | some m => BitVec.ofNat 21 m | none => q.mark }

/-! ## The end of a copy -/

/-- The barrier a copy names. -/
def copyBarrier (c : Copy) : Option Nat := match c.kind with | .layout _ _ _ b => b | _ => none

/-- The still-empty lines of a failed copy's pad destination (R57). -/
def deadLines (s : State) (c : Copy) : List Nat :=
  ((copyWrites tileRanges c).flatMap fun r => linesOf r.1 r.2).filter fun k => s.task.empty.contains k

/-- The wait of a path on lines of the task under issue that a copy has failed to fill: offset and lane (R57). -/
def deadWait (s : State) (lines : List Nat) (c : Context) (p : Path) : Option (Nat × Nat) :=
  match p.wait with
  | .stall (.emptyLine l) _ =>
    match remoteOf s c.id p.id with
    | none =>
      if c.task = s.task.tid then (l.find? fun e => lines.contains e.1).map fun e => (e.2.1, e.2.2) else none
    | some q =>
      ((getTask s c.task).bind fun u =>
        if u.serial ≠ s.task.serial then none
        else (remoteLanes u.core q).find? fun r =>
          r.core == s.task.core && (linesOf r.off (typeBits q.type / 8)).any fun k => lines.contains k).map
            fun r => (r.addr, r.lane)
  | _ => none

/-- The paths whose waits end with a failed copy, those of spilled stands among them (R41). DESIGN CHOICE (log entry 98): a path that the frame
of a handler holds back (R392) waits for nothing meanwhile. -/
def deadPaths (s : State) (lines : List Nat) : List (Nat × Nat × Nat × Nat) :=
  (liveCtxs s ++ s.dev.spilled).flatMap fun c => (pathsOf c).filterMap fun p => (deadWait s lines c p).map fun e => (c.id, p.id, e.1, e.2)

/-- Their traps (R57): 0x0D with DETAIL 1. -/
def failWaits (s : State) (l : List (Nat × Nat × Nat × Nat)) : State :=
  l.foldl (fun s e => onPath s e.1 e.2.1 fun s => wordTrap (dropRemote s) (trapLane 0x0D 1 e.2.2.1 e.2.2.2)) s

/-- A copy leaves its channel, and its batch learns of it (R121, R122). -/
def closeCopy (s : State) (ch : Nat) (c : Copy) (fault : Option Trap) : State :=
  let s := mapChan s ch fun q => { q with queue := q.queue.drop 1, done := q.done + 1, fail := fault.isSome }
  let end_ (o : OpState) : OpState := { o with done := true, fault := fault, wct := later o.wct c.wct }
  mapTask s c.task fun t => { t with ops := updateFirst (fun o => o.id == c.op) end_ t.ops }

/-- The running copy of a channel that waits on such a line, with the offset it would read or write (R57, R121). -/
def deadCopy (s : State) (lines : List Nat) (ch : Nat) : Option (Nat × Copy × Nat) :=
  match (channel s.core ch).queue with
  | [] => none
  | c :: _ =>
    if c.task = s.task.tid ∧ c.since.isSome then
      (c.needs.find? fun e => lines.contains e.1 && s.task.empty.contains e.1).map fun e => (ch, c, e.2)
    else none

/-- The queued matrix operations that wait for such a line, with the offset they would read (R57, R138). -/
def deadOps (s : State) (lines : List Nat) : List (MatOp × Nat) :=
  (s.core.matq.filter fun o => o.task == s.task.tid).filterMap fun o =>
    ((matReads o).find? fun r => (linesOf r.1 r.2).any lines.contains).map fun r => (o, r.1)

/-- The waits on a failed copy's still-empty lines end (R57): those of paths with their trap, those of queued matrix operations and
copies with a fault of their batches; and a copy that fails so fails the waits on its own lines. At most `fuel` copies fail. -/
def failLines : Nat → List Nat → State → State
  | 0, _, s => s
  | fuel + 1, lines, s =>
    if lines.isEmpty then s
    else
      let s := failWaits s (deadPaths s lines)
      let s := (deadOps s lines).foldl (fun s e => closeMatOp s e.1 (some (copyFault 0x0D 1 e.2)) 0) s
      let found := (List.range 4).filterMap (deadCopy s lines)
      let s := found.foldl (fun s e => closeCopy s e.1 e.2.1 (some (copyFault 0x0D 1 e.2.2))) s
      failLines fuel (found.flatMap fun e => deadLines s e.2.1) s

/-- A copy ends (R121, R122): its channel goes on, its batch learns of it, and where it has failed the waits on lines it will not fill end. -/
def endCopy (s : State) (ch : Nat) (c : Copy) (fault : Option Trap) : State :=
  let dead := if fault.isSome then deadLines s c else []
  settle (failLines 5 dead (closeCopy s ch c fault)) c.task

/-- The result of a compare is written once its last element has been compared (R119, R425). -/
def landResult (s : State) (c : Copy) : Res (State × Copy) :=
  match c.kind with
  | .layout rec _ _ _ =>
    let l := layoutOf rec
    if l.dop = 5 ∧ c.sent = (copyOrder c).length then
      (copyFill s c 0 (l.fill % 2 ^ 21) (bytesLE 8 c.acc) true).bind fun s =>
        .ok (s, { c with sent := c.sent + 1, since := none, needs := [] })
    else .ok (s, c)
  | _ => .ok (s, c)

/-- A copy that has made its last write waits for the line of its barrier, if it names one (R55, R121). -/
def landWait (s : State) (c : Copy) : Res Unit :=
  match copyBarrier c with
  | none => .ok ()
  | some b => (copyPadWait s 0 b 16).bind fun _ => copyFillWait s c b 16

/-- A copy that has landed arrives at its barrier with count 1: nothing where the barrier is invalidated, trap 0x0E for its
batch where it is not active or full (R121). -/
def arriveCopy (s : State) (c : Copy) : State × Option Trap :=
  match copyBarrier c with
  | none => (s, none)
  | some b =>
    if barState (barAt s.task b) = 2 then (s, none)
    else match barArrive s b 1 with
      | some (t, _) => (t, none)
      | none => (s, some (copyFault 0x0E 0 b))

/-- A copy waits on an empty line from now on, or its wait has passed the limit (R57). -/
def waitCopy (s : State) (ch : Nat) (c : Copy) (w : Stall) : State :=
  match w with
  | .emptyLine l =>
    if waitedOut s c.since then endCopy (putCopy s ch c) ch c (some (copyFault 0x0D 2 ((l.headD (0, 0, 0)).2.1)))
    else putCopy s ch { c with
      since := match c.since with | none => some (myTime s) | some x => some x
      needs := l.map fun e => (e.1, e.2.1) }
  | .hostLine pa => sendBackInvalidate (putCopy s ch c) pa
  | _ => putCopy s ch c

/-- The state of a copy after some elements: failed, waiting, or going on. -/
def afterDelivery (ch : Nat) (d : Delivery) (go : State → Copy → State) : State :=
  match d.fault, d.stall with
  | some k, _ => endCopy (putCopy d.s ch d.c) ch d.c (some k)
  | none, some w => waitCopy d.s ch d.c w
  | none, none => go (putCopy d.s ch d.c) d.c

/-- The copy at the head of a channel, running, with its task under issue. -/
def copyAt (s : State) (core ch : Nat) : Option (State × Copy) :=
  match (channel (getCore s core) ch).queue with
  | [] => none
  | c :: _ =>
    let s := focusTask s c.task
    let c := { c with running := true }
    some (putCopy s ch c, c)

/-- COPY_START (R122): the copy at the head of a channel starts, or goes on, with `n` more elements. -/
def execCopyStart (core ch n : Nat) (s : State) : Host.Outcome State Fault Refusal :=
  .next (match copyAt s core ch with
  | none => s
  | some (t, c) => afterDelivery ch (deliver ((remaining c).take n) ⟨t, c, none, none⟩) fun s _ => s)

/-- A copy whose elements are all delivered: a compare writes its result, and then the copy arrives at its barrier (R121). -/
def landCopy (ch : Nat) (s : State) (c : Copy) : State :=
  match landResult s c with
  | .trap k => endCopy s ch c (some k)
  | .stall w => waitCopy s ch c w
  | .ok (s, c) =>
    match landWait s c with
    | .trap k => endCopy s ch c (some k)
    | .stall w => waitCopy s ch c w
    | .ok _ =>
      let q := arriveCopy s c
      endCopy q.1 ch c q.2

/-- COPY_COMPLETE (R121): the rest of the running copy is delivered, and it ends. -/
def execCopyComplete (core ch : Nat) (s : State) : Host.Outcome State Fault Refusal :=
  .next (match copyAt s core ch with
  | none => s
  | some (t, c) => afterDelivery ch (deliver (remaining c) ⟨t, c, none, none⟩) (landCopy ch))

end Sys2Proof.Machine
end

