-- ==== Sys2Proof/Machine/Events.lean ====
section
/-! DEFINITION. Events of contexts and tasks: parked tracts and pending pieces (R17, R21), the end of a wait at an RJOIN
(R32), commits of versioned tasks (R108), and stands that leave for a save area and come back (R41). -/

namespace Sys2Proof.Machine

/-! ## Parked tracts, pending pieces, pieces at an RJOIN -/

/-- A file and a slot are free for a context of a task on its core. -/
def hasRoom (s : State) (t : Task) : Bool :=
  t.phase == .running && !(freeFiles s t).isEmpty && !(freeSlots s t.core).isEmpty

/-- What a spilled stand wrote has been seen everywhere: its writes have returned, and time has reached its horizon + 4 ns (R183,
R191). -/
def fencedAway (s : State) (c : Context) (core : Nat) : Bool :=
  !(s.flight.any fun q => q.ctx == c.id && q.writes) && decide (c.horizon + 4 ≤ coreClock s core)

/-- A spilled stand of a core for which a file and a slot are free: the first that was spilled. -/
def roomForSpilled (s : State) (core : Nat) : Option Context :=
  s.dev.spilled.find? fun c => (getTask s c.task).any fun t => t.core == core && hasRoom s t

/-- A spilled stand of a core that can return now (R41, R191). -/
def returnable (s : State) (core : Nat) : Option Context := (roomForSpilled s core).filter fun c => fencedAway s c core

/-- A parked tract can make its next window into a stand: a file and a slot are both free (R21), the slot its own for the last
window (log entry 90). -/
def servable (s : State) (c : Context) : Bool :=
  c.kind == .parked && (getTask s c.task).any fun t =>
    hasRoom s t || (lastWindow c && t.phase == .running && !(freeFiles s t).isEmpty)

/-- The parked tracts of a core, the oldest of which satisfies a test (R21). -/
def oldestParked (s : State) (core : Nat) (p : Context → Bool) : Option Context :=
  leastBy (fun c => c.parkedAt) ((liveCtxs s).filter fun c => c.kind == .parked && coreOf s c == core && p c)

/-- PARKED_TRACT_SERVE (R21): the oldest parked tract of a core makes its next window into a stand; a spilled stand goes
first (R41). -/
def execParkedTractServe (core : Nat) (s : State) : Host.Outcome State Fault Refusal :=
  .next (if (roomForSpilled s core).isSome then s
  else match oldestParked s core (servable s) with
    | none => s
    | some c => serveParked s c.id)

/-- A pending piece is the lowest of its list (R17, R40). -/
def lowestPending (s : State) (c : Context) : Bool :=
  (leastBy pieceKey (pendingOf s c.holder)).any fun p => p.id == c.id

/-- PENDING_PIECE_START (R17): a pending piece, the lowest of its list, takes a free slot of its core. -/
def execPendingPieceStart (ctx : Nat) (s : State) : Host.Outcome State Fault Refusal :=
  .next (match getCtx s ctx with
  | none => s
  | some c =>
    if c.kind ≠ .pending ∨ lowestPending s c = false ∨ ((getTask s c.task).any fun t => t.phase == .running) = false then s
    else match (freeSlots s (coreOf s c)).head? with
      | none => s
      | some k => mapCtx s ctx fun c => { c with kind := .tract, slotNo := k })

/-- RJOIN_WAIT_EXPIRE (R32): after 256 core clocks a piece goes on after its RJOIN as it stands. -/
def execRjoinWaitExpire (ctx : Nat) (s : State) : Host.Outcome State Fault Refusal :=
  .next (match getCtx s ctx with
  | none => s
  | some c =>
    match c.path.wait with
    | .rejoin since =>
      if coreClock s (coreOf s c) < since + clocksNs s (coreOf s c) 256 then s
      else mapCtx s ctx fun c => { c with path := { c.path with wait := .none } }
    | _ => s)

/-! ## Commits (R108) -/

/-- The home of a line of version bytes, as it keeps it. -/
def versionHome (s : State) (pa : Nat) : Nat := (lineState s (placeOf s pa / 128) (homeOf (placeOf s pa) false)).home

/-- The latest expiry granted on the lines a commit writes. -/
def commitExpiry (s : State) (t : Task) : Nat :=
  (versionLines t.vlines).foldl (fun m l => later m (lineState s (placeOf s (128 * l) / 128) (versionHome s (128 * l))).expiry) 0

/-- The latest of all clocks. -/
def latestClock (s : State) : Nat := (List.range 5).foldl (fun m d => later m (clockOf s d)) 0

/-- The commit time (R108): later than every commit before it, every expiry, and every home's acceptance, which is now. -/
def commitTime (s : State) (t : Task) : Nat := later (later s.dev.lastCommit (latestClock s)) (commitExpiry s t) + 1

/-- VERSION_COMMIT (R35, R108): every home accepts its part of the commit, and the control die gives it its time. A line the host may
hold is asked for first (R419), and a home on a die in reset accepts nothing (R406). -/
def execVersionCommit (task : Nat) (s : State) : Host.Outcome State Fault Refusal :=
  .next (match getTask s task with
  | none => s
  | some t =>
    if t.phase ≠ .committing ∨ t.commitAt.isSome = true then s
    else match (versionLines t.vlines).find? fun l => hostHolds s (128 * l) with
      | some l => sendBackInvalidate s (128 * l)
      | none =>
        if (versionLines t.vlines).any fun l => dieShut s (128 * l) (versionHome s (128 * l)) then s
        else
          let w := commitTime s t
          putTask { s with dev := { s.dev with lastCommit := w } } { t with commitAt := some w })

/-- A run of version bytes put in place with the commit time as the WCT of its line. -/
def commitRun (part w : Nat) (s : State) (run : Nat × List Byte) : State :=
  let q := placeOf s run.1
  let home := versionHome s run.1
  let s := touchLine (writePhys s part run.1 run.2) part q home
  setLine s { lineState s (q / 128) home with wct := w, wcts := [], part := part, epoch := epochOf s part }

/-- The home of an address can place its part of a commit: its own time has reached `w` (R108), and its die is not in reset (R406). -/
def commitDueAt (s : State) (w pa : Nat) : Bool :=
  decide (w ≤ homeClock s (versionHome s pa)) && !dieShut s pa (versionHome s pa)

/-- A task's commit at its homes (R108): each serves the new bytes from its own time T_c onward, and takes no other write in that
nanosecond (R182). After it the task's part there is done, and with the last part the task leaves. -/
def commitTask (s : State) (t : Task) : State :=
  match t.commitAt with
  | none => s
  | some w =>
    let s := ((runsOf t.vlines).filter fun r => commitDueAt s w r.1).foldl (commitRun t.part w) s
    let t := { t with
      vlines := t.vlines.filter fun c => !(commitDueAt s w c.1 && decide (w < homeClock s (versionHome s c.1)))
      horizon := later t.horizon w }
    if t.vlines.isEmpty then finishTask s t else putTask s t

/-- Every commit whose time has come, in the order of the commit times (R182, R193). -/
def commitsDue (s : State) : State :=
  (sortBy (fun t => t.commitAt.getD 0) ((liveTasks s).filter fun t => t.commitAt.isSome)).foldl commitTask s

/-! ## Save areas (R401, R403) -/

/-- The save pool of a partition: base and size in bytes; none where EN is 0. -/
def savePool (s : State) (part : Nat) : Option (Nat × Nat) :=
  let r := (vget s.dev.pools part 0).toNat
  if bitAt r 0 then some (bitsOf r 16 36 * 2 ^ 16, bitsOf r 52 12 * 2 ^ 22) else none

/-- The length of an area in units of 64 KiB. -/
def areaSpan (n : Nat) : Nat := (n + 0xFFFF) / 0x1_0000 * 0x1_0000

/-- A place for an area of `n` bytes in a pool: the lowest (log entry 13). -/
def findArea (s : State) (part n : Nat) : Option Nat :=
  match savePool s part with
  | none => none
  | some (base, size) =>
    let fits (a : Nat) : Bool :=
      decide (base ≤ a) && decide (a + areaSpan n ≤ base + size)
        && s.dev.areas.all fun x => decide (x.2.1 + x.2.2 ≤ a) || decide (a + areaSpan n ≤ x.2.1)
    leastBy (fun a => a) ((base :: s.dev.areas.map fun x => x.2.1 + x.2.2).filter fits)

/-- An area taken for a task. -/
def takeArea (s : State) (tid a n : Nat) : State :=
  { s with dev := { s.dev with areas := (tid, a, areaSpan n) :: s.dev.areas } }

/-- An area given back. -/
def freeArea (s : State) (a : Nat) : State :=
  { s with dev := { s.dev with areas := s.dev.areas.filter fun x => x.2.1 != a } }

/-- What an access of an area waits for: a home that is down (R406), or, for a write, the host that may hold one of its lines (R419). -/
def areaWait (s : State) (a n : Nat) (write : Bool) : Option Stall :=
  let lines := (List.range (ceilDiv n 128)).map fun k => a + 128 * k
  match if write then lines.find? (hostHolds s) else none with
  | some pa => some (.hostLine pa)
  | none => if lines.any fun pa => homeDown s pa (homeOf pa false) then some .load else none

/-- A wait outside every word: the host is asked for its line. -/
def askFor (s : State) (w : Stall) : State := match w with | .hostLine pa => sendBackInvalidate s pa | _ => s

/-- Bytes written to an area, line by line, at their homes. -/
def storeArea (part : Nat) : Nat → Nat → List Byte → State → State
  | 0, _, _, s => s
  | fuel + 1, a, bytes, s =>
    if bytes.isEmpty then s
    else storeArea part fuel (a + 128) (bytes.drop 128) (storeAtHome s part a (homeOf a false) (bytes.take 128)).1

/-- Zero bytes up to a multiple of `k`. -/
def padTo (k : Nat) (l : List Byte) : List Byte := l ++ List.replicate ((k - l.length % k) % k) 0

/-- The bytes an area keeps for one context (log entry 13). -/
def contextSpan : Nat := 65536

/-- What a save area holds of contexts: bytes whose layout R403 leaves to the device (log entry 13). -/
def contextArea (s : State) (n : Nat) : List Byte :=
  (List.range n).flatMap fun k =>
    let l := (Free.contextBytes (s.freeCtr + k)).take contextSpan
    l ++ List.replicate (contextSpan - l.length) 0

/-! ## Spills (R41) -/

/-- A path still waits in BARWAIT or on an empty pad line, its own or a peer's (R41, R55, R129). -/
def pathBlocked (s : State) (t : Task) (c : Context) (p : Path) : Bool :=
  match p.wait with
  | .stall (.barrier off g) _ => barState (barAt t off) == 1 && barGen (barAt t off) == g
  | .stall (.emptyLine l) _ =>
    match remoteOf s c.id p.id with
    | none => l.any fun e => t.empty.contains e.1
    | some q => !(remoteEmpty s t.serial (typeBits q.type / 8) (remoteLanes t.core q)).isEmpty
  | _ => false

/-- A stand is blocked in BARWAIT or on an empty pad line in every path that does not wait at a join. -/
def spillBlocked (s : State) (c : Context) : Bool :=
  c.kind == .stand && c.test.isNone && (getTask s c.task).any fun t =>
    (pathsOf c).all fun p => waitsAtJoin p || pathBlocked s t c p

/-- Every REG file of a core is held, by stands that are all blocked (R41). -/
def filesBlocked (s : State) (core : Nat) : Bool :=
  ((liveTasks s).all fun t => t.core != core || (freeFiles s t).isEmpty)
    && (liveCtxs s).all fun c => c.file.isNone || coreOf s c != core || spillBlocked s c

/-- A context taken off its core. A remote atomic of it that waits at a peer goes on waiting there. -/
def removeCtx (s : State) (id : Nat) : State :=
  if s.me.kind ≠ .idle ∧ s.me.id = id then { s with me := Context.idle }
  else { s with ctxs := s.ctxs.filter fun c => c.id != id }

/-- The youngest blocked stand of a task. -/
def youngestBlocked (s : State) (tid : Nat) : Option Context :=
  ((ctxsOf s tid).filter (spillBlocked s)).foldl
    (fun b c => match b with | none => some c | some d => if d.id < c.id then some c else some d) none

/-- STAND_SPILL (R41, R401): the youngest blocked stand of the task whose tract waits parked goes to a save area, where its
partition's pool has room; its file and slot go to that tract. -/
def execStandSpill (core : Nat) (s : State) : Host.Outcome State Fault Refusal :=
  .next (match oldestParked s core (fun c => !servable s c) with
  | none => s
  | some p =>
    if !filesBlocked s core then s
    else match youngestBlocked s p.task, getTask s p.task with
      | some c, some t =>
        let bytes := contextArea s 1
        match findArea s t.part bytes.length with
        | none => s
        | some a =>
          match areaWait s a bytes.length true with
          | some w => askFor s w
          | none =>
          let s := takeArea (useFree (removeCtx s c.id) 1) t.tid a bytes.length
          let s := storeArea t.part (bytes.length / 128 + 1) a bytes s
          serveParked { s with dev := { s.dev with
            spilled := s.dev.spilled ++ [{ c with file := none, area := some a }] } } p.id
      | _, _ => s)

/-- SPILL_RETURN (R41, R191): a spilled stand takes a free file and slot of its core; its waits go on. -/
def execSpillReturn (core : Nat) (s : State) : Host.Outcome State Fault Refusal :=
  .next (match returnable s core with
  | none => s
  | some c =>
    match getTask s c.task with
    | none => s
    | some t =>
      match (freeFiles s t).head?, (freeSlots s core).head? with
      | some f, some k =>
        let s := match c.area with | some a => freeArea s a | none => s
        { s with
          ctxs := s.ctxs ++ [{ c with file := some f, slotNo := k, area := none }]
          dev := { s.dev with spilled := s.dev.spilled.filter fun d => d.id != c.id } }
      | _, _ => s)

end Sys2Proof.Machine
end

