-- ==== Sys2Proof/Machine/Save.lean ====
section
/-! DEFINITION. Pre-emption (R399, R400), context save and restore (R402 to R405), self-tests and mapping out (R397, R398),
and what makes a task leave its core. -/

namespace Sys2Proof.Machine

/-! ## Saves begin (R402) -/

/-- The global address of a copy's element lies in a far page. -/
def farAddr (s : State) (va : Nat) : Bool :=
  match translate s s.task.part va .read with
  | .ok (_, x) => entryFar x.entry || paKind x.pa == some .far
  | .error _ => false

/-- A far-tier copy with DOP write, compare or fingerprint, which a save cancels (R402). -/
def cancellable (s : State) (c : Copy) : Bool :=
  match c.kind with
  | .layout rec coords dense _ =>
    let l := layoutOf rec
    (l.dop == 0 || l.dop == 5 || l.dop == 6)
      && ((List.range l.count).any (fun n => match elemAddr l coords n with | some va => farAddr s va | none => false)
        || (l.dir == 2 && (List.range l.denseLen).any fun k => farAddr s ((dense + k) % 2 ^ 64)))
  | _ => false

/-- The copies of a task on a core's channels, with their channels, that satisfy a test. -/
def chanCopies (c : Core) (p : Copy → Bool) : List (Nat × Copy) :=
  (List.range 4).flatMap fun ch => ((channel c ch).queue.filter p).map fun k => (ch, k)

/-- Copies taken off a core's channels. -/
def dropCopies (c : Core) (p : Copy → Bool) : Core :=
  { c with chans := c.chans.map fun q => { q with queue := q.queue.filter fun k => !p k } }

/-- The far-tier copies of a task that a save beginning now would cancel, with their channels. -/
def farCopies (s : State) (t : Task) : List (Nat × Copy) :=
  chanCopies (getCore s t.core) fun c => c.task == t.tid && cancellable { s with task := t } c

/-- The contexts that a save of a task records: its spilled stands among them, pieces on pending lists within their holders (R39, R41;
log entry 13). -/
def savedContexts (s : State) (tid : Nat) : Nat := ((everyCtxOf s tid).filter fun c => c.kind != .pending).length

/-- A length rounded up to a multiple. -/
def upTo (k n : Nat) : Nat := (n + k - 1) / k * k

/-- The TILE banks that contexts hold bound, in m-register order. -/
def boundTiles (l : List Context) : List Nat := l.flatMap fun c => c.regs.m.toList.filterMap fun m => m.bank

/-- The length of a task's area (R403, R404) with a number of contexts and of cancelled copies. -/
def areaLength (s : State) (t : Task) (nctx ncopy : Nat) : Nat :=
  upTo 4096 (512 + 256 + 36864 + 128 * ncopy + contextSpan * nctx + upTo 64 (16400 * t.padSlots.length)
    + 16384 * (boundTiles (everyCtxOf s t.tid)).length)

/-- The place that a task's area would take in its partition's save pool now (R399, R401). -/
def saveRoom (s : State) (t : Task) : Option Nat :=
  findArea s t.part (areaLength s t (savedContexts s t.tid) (t.cancelled.length + (farCopies s t).length))

/-- A save begins (R402): issue stops in every context of the task, its far-tier copies are cancelled, and its area is kept. -/
def beginSave (s : State) (tid place : Nat) : State :=
  match getTask s tid with
  | none => s
  | some t =>
    let gone := farCopies s t
    let fresh (c : Copy) : Copy := { c with running := false, sent := 0, acc := 0, wct := 0, since := none, needs := [] }
    let n := areaLength s t (savedContexts s tid) (t.cancelled.length + gone.length)
    let core := dropCopies (getCore s t.core) fun c => gone.any fun k => k.2 == c
    putTask (takeArea (putCore s core) tid place n) { t with
      phase := .saving, preqAt := none, saveAt := some place, cancelled := t.cancelled ++ gone.map fun k => (k.1, fresh k.2) }

/-! ## The area (R403, R404) -/

/-- The bank counts of a task in the layout of R43. -/
def planNow (s : State) (t : Task) : Nat :=
  let n (r : Role) : Nat := (ownBanks (getCore s t.core) t.tid r).length
  n .reg + atBit (n .pad) 7 + atBit (n .cache) 14 + atBit (n .fifo) 21 + atBit (n .tile) 26 + atBit t.fsize 32
    + atBit (bitNat t.views) 34

/-- The full/empty bits of a pad slot as 16 bytes, 1 for full. -/
def fullBits (t : Task) (slot : Nat) : List Byte :=
  bytesLE 16 ((List.range 128).foldl (fun acc j => acc + bitNat (!t.empty.contains (128 * slot + j)) * 2 ^ j) 0)

/-- The PAD part: every bank in slot order, each followed by its bits. -/
def padPart (t : Task) : List Byte :=
  padTo 64 ((List.range t.padSlots.length).flatMap fun k => t.pad.getBytes (16384 * k) 16384 ++ fullBits t k)

/-- The TILE part. -/
def tilePart (t : Task) (l : List Context) : List Byte :=
  (boundTiles l).flatMap fun b => (tileOf t b).getBytes 0 16384

/-- The epilogue part. -/
def epiPart (t : Task) : List Byte := t.epi.toList.flatMap fun p => p.toList.flatMap fun w => bytesLE 4 w.toNat

/-- The part of the cancelled copies: the record, then what R403 names in a layout of the device's. -/
def copyPart (s : State) (l : List (Nat × Copy)) : List Byte :=
  l.flatMap fun c =>
    bytesLE 64 (match c.2.kind with | .layout rec _ _ _ => rec.toNat | _ => 0) ++ freeBytes s.freeCtr 64

/-- The parts after the header, and the offset of the PAD part. The merge unit's part and what follows a cancelled copy's record have no
layout in R403, so their bytes are free (log entry 13). -/
def areaParts (s : State) (t : Task) (l : List Context) : List Byte × Nat :=
  let front := epiPart t ++ freeBytes s.freeCtr 36864 ++ copyPart s t.cancelled ++ contextArea s (savedContexts s t.tid)
  (front ++ padPart t ++ tilePart t l, 512 + front.length)

/-- The fingerprint sums of 4 KiB blocks added up (R119, R404). -/
def checkSum : Nat → List Byte → Nat
  | 0, _ => 0
  | fuel + 1, l =>
    let words := (List.range 512).map fun k => (k, ofBytesLE ((l.drop (8 * k)).take 8))
    (words.foldl (fun f w => f + (1 + 3 * w.1) * w.2) 0 + checkSum fuel (l.drop 4096)) % 2 ^ 64

/-- The header with a CHECK (R404). -/
def headerBytes (s : State) (t : Task) (nctx bytes check : Nat) : List Byte :=
  bytesLE 512 (t.tid % 2 ^ 48 + atBit (t.region % 4096) 48 + atBit (t.part % 64) 64 + atBit (bitNat t.exposed) 70
    + atBit (bitNat t.vmode) 71 + atBit (t.aborts % 16) 72 + atBit (nctx % 128) 76 + atBit (t.cancelled.length % 256) 83
    + atBit (planNow s t) 128 + atBit (bytes % 2 ^ 64) 192 + atBit (check % 2 ^ 64) 256)

/-- The whole area, padded to a multiple of 4,096, with CHECK over it (R404). -/
def areaBytes (s : State) (t : Task) (l : List Context) : List Byte :=
  let body := (areaParts s t l).1
  let nctx := savedContexts s t.tid
  let bytes := upTo 4096 (512 + body.length)
  let check := checkSum (bytes / 4096) (padTo 4096 (headerBytes s t nctx bytes 0 ++ body))
  padTo 4096 (headerBytes s t nctx bytes check ++ body)

/-! ## CONTEXT_SAVE -/

/-- A path has no word under issue that goes on by itself: the lanes of a VTEST or FBW have all taken effect (R402), and a chain that has
begun has ended or waits in a word that a save may leave waiting (R262, R316). -/
def Path.atRest (p : Path) : Bool :=
  p.gone == 0 && (p.run.isNone || (match p.wait with | .none => false | _ => true))

/-- A remote atomic of a context has still to reach its peer, or to come back; one that waits there on an empty line has had no effect
(R316). -/
def remoteOpen (s : State) (q : Remote) : Bool :=
  match stallOf s q.ctx q.path with | some (.emptyLine _, _) => false | _ => true

/-- A save has nothing left to wait for (R262, R402): every issued word, clearing, matrix operation, copy, self-test and request of the
task is done. -/
def saveReady (s : State) (t : Task) : Bool :=
  let c := getCore s t.core
  let l := everyCtxOf s t.tid
  t.phase == .saving && !(c.clearing.any fun k => k.task == t.tid) && !(c.matq.any fun o => o.task == t.tid)
    && (chanCopies c fun k => k.task == t.tid).isEmpty && !inFlight s t.tid
    && (l.all fun c => c.test.isNone && (c.kind != .stand || (pathsOf c).all Path.atRest))
    && s.remote.all fun q => !(l.any fun c => c.id == q.ctx) || !remoteOpen s q

/-- A context as a save records it: stalled words issue again, ageing restarts (R39, R316). -/
def Context.toSave (c : Context) : Context :=
  let path (p : Path) : Path :=
    { p with age := 0, held := none, wait := match p.wait with | .stall _ _ => .none | w => w }
  let frame (f : Frame) : Frame := { f with path := path f.path, paths := f.paths.map path }
  { c with path := path c.path, paths := c.paths.map path, frame := c.frame.map frame, urgent := false }

/-- An uncorrectable error that a save of a task meets, with its bank: in a register, in its pad, or in a bound tile (R396, R398). The
registers of a spilled stand lie in no bank. -/
def saveError (t : Task) (l : List Context) : Option (Role × Nat) :=
  ((l.find? fun c => c.regs.errV.any fun e => e.2.2).map fun c => (Role.reg, match c.file with | some f => f.1 | none => 127)).or <|
    (t.badPad.head?.map fun b => (Role.pad, t.padSlots.getD (b / 16384) 127)).or <|
      ((boundTiles l).find? t.badTiles.contains).map fun b => (Role.tile, b)

/-- The record of a save error: kind 5 with the bank, DRST where the die is being reset (R396, R398, R406). -/
def saveReport (s : State) (t : Task) (bank : Nat) : Report :=
  ⟨5, 0, 0, false, false, vget s.dev.dieStop (t.core / 208) false, bank, 0⟩

/-- The contexts of a task recorded: banks and slots are released, and the task waits for its restore (R402). -/
def finishSave (s : State) (t : Task) (place : Nat) : State :=
  let l := everyCtxOf s t.tid
  let ids := l.map fun c => c.id
  let area := areaBytes s t l
  let saved : Saved := ⟨{ t with plan := BitVec.ofNat 64 (planNow s t), saveAt := none }, (ctxsOf s t.tid).map Context.toSave,
    (getCore s t.core).merge.filter fun g => g.task == t.tid, place, area.length, (areaParts s t l).2,
    coreClock s t.core⟩
  let s := takeArea (freeArea s place) t.tid place area.length
  let s := storeArea t.part (area.length / 128 + 1) place area (useFree s (36928 + l.length))
  let s := removeTask ((ids.foldl removeCtx (releaseTask s t))) t.tid
  { s with
    remote := s.remote.filter fun q => !ids.contains q.ctx
    dev := { s.dev with
      saved := s.dev.saved ++ [saved]
      spilled := s.dev.spilled.map fun c => if c.task = t.tid then c.toSave else c
      sems := s.dev.sems.map fun m => { m with waiters := m.waiters.filter fun w => !ids.contains w.1 } } }

/-- CONTEXT_SAVE (R402): the area is written and the task leaves its core. A task none of whose contexts is left retires instead; one
with an uncorrectable error in what is saved ends as fatal, with kind 5 (R398). -/
def execContextSave (task : Nat) (s : State) : Host.Outcome State Fault Refusal :=
  .next (match getTask s task with
  | none => s
  | some t =>
    match t.saveAt with
    | none => s
    | some place =>
      let l := everyCtxOf s task
      if !saveReady s t then s
      else if l.isEmpty then settle (putTask (freeArea s place) { t with phase := .retiring, saveAt := none }.dropCancelled) task
      else match saveError t l with
        | some e => fatalTask s task ⟨0x21, BitVec.ofNat 8 (roleCode e.1), 0, 0, 64⟩ (saveReport s t e.2)
        | none =>
          match areaWait s place (areaLength s t (savedContexts s task) t.cancelled.length) true with
          | some w => askFor s w
          | none => finishSave s t place)

/-! ## CONTEXT_RESTORE (R404, R405) -/

/-- The bytes of a saved area as memory holds them. -/
def savedBytes (s : State) (v : Saved) : List Byte :=
  (List.range (v.bytes / 128)).flatMap fun k => (readPhys s v.task.part (v.area + 128 * k) 128).2

/-- CHECK of an area holds (R404). -/
def checkHolds (l : List Byte) : Bool :=
  ofBytesLE ((l.drop 32).take 8) == checkSum (l.length / 4096) (l.take 32 ++ List.replicate 8 0 ++ l.drop 40)

/-- The pad a restore refills from an area: the bytes, and the empty lines. -/
def restorePad (t : Task) (pads : List Byte) : Task :=
  let bank (k : Nat) : List Byte := (pads.drop (16400 * k)).take 16400
  let slots := List.range t.padSlots.length
  { t with
    pad := slots.foldl (fun m k => Memory.setBytes m (16384 * k) ((bank k).take 16384)) []
    empty := slots.flatMap fun k =>
      (List.range 128).filterMap fun j => if bitAt (ofBytesLE ((bank k).drop 16384)) j then none else some (128 * k + j) }

/-- The epilogue slots of an area. -/
def restoreEpi (l : List Byte) : Vector (Vector Word32 16) 4 :=
  Vector.ofFn fun j => Vector.ofFn fun k => BitVec.ofNat 32 (ofBytesLE ((l.drop (512 + 64 * j.val + 4 * k.val)).take 4))

/-- The m registers of a context changed, in every set of registers it holds: its own, and those that a chain reads (R200). -/
def Context.mapM (c : Context) (f : MReg → MReg) : Context :=
  let regs (r : Regs) : Regs := { r with m := r.m.map f }
  let path (p : Path) : Path := { p with snap := p.snap.map regs }
  { c with
    regs := regs c.regs, path := path c.path, paths := c.paths.map path
    recs := c.recs.map fun r => { r with others := r.others.map path }
    frame := c.frame.map fun k => { k with path := path k.path, paths := k.paths.map path } }

/-- An m register bound to the bank that a list gives for its bank. -/
def MReg.rebind (tiles : List (Nat × Nat)) (m : MReg) : MReg := { m with bank := m.bank.bind fun b => lookupNat b tiles }

/-- Contexts put into slots, stands with files, m registers with their new TILE banks. -/
def rebuild (now : Nat) (tiles : List (Nat × Nat)) : List Context → List Nat → List (Nat × Nat) → List Context
  | [], _, _ => []
  | c :: cs, slots, files =>
    let path (p : Path) : Path := { p with wait := match p.wait with | .rejoin _ => .rejoin now | w => w }
    let held := c.kind == .pending
    { c.mapM (MReg.rebind tiles) with
      slotNo := if held then c.slotNo else slots.headD 0
      file := if c.kind = .stand then files.head? else none
      path := path (c.mapM (MReg.rebind tiles)).path }
      :: rebuild now tiles cs (if held then slots else slots.drop 1) (if c.kind = .stand then files.drop 1 else files)

/-- The end of a saved task whose area fails its check: fatal with code 0x21, kind 5 (R404). -/
def failRestore (s : State) (v : Saved) : State :=
  let s := faultRecord s v.task ⟨0x21, 0, 0, 0, 64⟩ ⟨5, 0, 0, v.task.vmode, false, false, 0, 0⟩
  dropSaved (setStatus s v.task.serial 4) v.task

/-- The copies a save cancelled go back to their channels in their saved order (R405). -/
def reissueCopies (c : Core) : List (Nat × Copy) → Core
  | [] => c
  | (ch, k) :: rest =>
    let q := channel c ch
    reissueCopies { c with chans := vset c.chans ch { q with queue := q.queue ++ [k] } } rest

/-- The spilled stands of a saved task (R41). -/
def spilledOf (s : State) (tid : Nat) : List Context := s.dev.spilled.filter fun c => c.task == tid

/-- A saved task put on a core (R405): its tiles are bound to new banks, in the stands that are still spilled too. -/
def putRestored (s : State) (v : Saved) (core : Nat) (l : List Byte) : State :=
  let t := { v.task with core := core }
  let s := { s with dev := { s.dev with
    saved := s.dev.saved.filter fun u => u.task.tid != t.tid
    areas := s.dev.areas.filter fun a => a.2.1 != v.area } }
  let s := takePlan s t t.plan.toNat
  let c := getCore s core
  let banks := List.zip (boundTiles (v.ctxs ++ spilledOf s t.tid)) (ownBanks c t.tid .tile)
  let tilesAt := v.padsAt + (16400 * t.padSlots.length + 63) / 64 * 64
  let tile (k : Nat) : Memory := Memory.setBytes [] 0 ((l.drop (tilesAt + 16384 * k)).take 16384)
  let t := restorePad { t with
    phase := .running, preqAt := none, asked := false, cancelled := [], placedAt := s.time
    epi := restoreEpi l
    tiles := (List.zip banks (List.range banks.length)).map fun b => (b.1.2, tile b.2) } (l.drop v.padsAt)
  let t := { t with padSlots := ownBanks c t.tid .pad }
  let files := (ownBanks c t.tid .reg).flatMap fun b => (List.range (filesPerBank t.fsize)).map fun k => (b, k)
  let ctxs := rebuild (coreClock s core) banks v.ctxs (freeSlots s core) files
  let s := putCore s (reissueCopies { c with merge := c.merge ++ v.regs } v.task.cancelled)
  { s with
    tasks := s.tasks ++ [t], ctxs := s.ctxs ++ ctxs
    dev := { s.dev with
      spilled := s.dev.spilled.map fun c => if c.task = t.tid then c.mapM (MReg.rebind banks) else c } }

/-- A piece of a higher priority than a saved task's can be placed on a die, or has waited 2 µs there: the saved task waits
ahead of pieces of its own priority alone (R370, R402). -/
def outranked (s : State) (v : Saved) (die : Nat) : Bool :=
  overdue s die (taskPrio s v.task)
    || (waitingPieces s die).any fun w => decide (taskPrio s v.task < w.1.prio) && (tryPiece s die w.1 w.2.1).isSome

/-- The merge unit of a core has room for a saved task's registrations and held writes (R166, R167). -/
def mergeFits (c : Core) (l : List Registration) : Bool :=
  decide (c.merge.length + l.length ≤ 4) && decide (heldCount { c with merge := c.merge ++ l } ≤ 1024)

/-- A core can take a saved task: of its placement set, with the banks, budgets, slots and merge unit (R405). -/
def restorable (s : State) (v : Saved) (core : Nat) : Bool :=
  !outranked s v (core / 208) && (placementSet s v.task.region).contains core && !dieIsDown s (core / 208)
    && (match getRegion s v.task.region with | some r => r.state == 0 | none => false)
    && qualifies s v.task.region v.task.part v.task.plan.toNat v.task.tid core
    && decide ((v.ctxs.filter fun c => c.kind != .pending).length ≤ (freeSlots s core).length) && mergeFits (getCore s core) v.regs

/-- Every context's FENCE of the restore ends by now (R183, R405), and the core shows no earlier time than the one the task has left, so
that no TIME of a context falls (R195). -/
def restoreFenced (s : State) (v : Saved) (core : Nat) : Bool :=
  decide (v.clock ≤ coreClock s core) && v.ctxs.all fun c => decide (c.horizon + 4 ≤ coreClock s core)

/-- CONTEXT_RESTORE (R404, R405): a saved task is rebuilt on a core, fenced, and its cancelled copies are issued again. -/
def execContextRestore (task core : Nat) (s : State) : Host.Outcome State Fault Refusal :=
  .next (match s.dev.saved.find? fun v => v.task.tid == task with
  | none => s
  | some v =>
    if !restorable s v core || !restoreFenced s v core || (areaWait s v.area v.bytes false).isSome then s
    else
      let l := savedBytes s v
      if checkHolds l then putRestored s v core l else failRestore s v)

/-! ## Pre-emption requests (R399, R400) -/

/-- A task holds FIFO banks or an open window. -/
def coupled (s : State) (t : Task) : Bool :=
  !(ownBanks (getCore s t.core) t.tid .fifo).isEmpty || t.windows.toList.any fun w => w.length != 0

/-- The time a task has run, and the clocks a save takes, in ns (R399). -/
def elapsed (s : State) (t : Task) : Nat := s.time - t.placedAt

/-- The cost of a save: the bytes of the task's non-CACHE banks at 256 per core clock. -/
def saveCost (s : State) (t : Task) : Nat :=
  let banks := (List.range 96).filter fun b =>
    (bankAt (getCore s t.core) b).owner == some t.tid && (bankAt (getCore s t.core) b).role != .cache
  clocksNs s t.core (64 * banks.length)

/-- The device's choice for a requested task (R399), with a budget in ns: drain, flush-and-restart, or save. -/
def chooseLeave (s : State) (t : Task) (budget : Nat) : State :=
  let left := boxItems t.box - t.retired
  if t.phase ≠ .running ∨ coupled s t = true then s
  else if 0 < t.retired ∧ elapsed s t * left ≤ budget * t.retired then s
  else if t.exposed = false ∧ t.idem = true ∧ elapsed s t ≤ saveCost s t then restartTask s t.tid false
  else match saveRoom s t with | some place => beginSave s t.tid place | none => s

/-- The budget of a request (R399). -/
def requestBudget : Nat := 10000

/-- A context of a task is in a handler. -/
def inHandler (s : State) (tid : Nat) : Bool := (ctxsOf s tid).any fun c => c.frame.isSome

/-- A piece in a die's shadow has waited 2 µs with no qualifying core (R370, R399). -/
def pieceStarved (s : State) (die : Nat) (w : Launch × Nat × Nat) : Bool :=
  overdueAt s w.2.2 && (tryPiece s die w.1 w.2.1).isNone

/-- The order in which tasks are asked: lowest priority, then youngest. -/
def victimKey (s : State) (t : Task) : Nat := taskPrio s t * 2 ^ 80 + (2 ^ 64 - t.placedAt % 2 ^ 64)

/-- The task that pre-emption is requested of for a launch (R399). -/
def victimFor (s : State) (g : Launch) : Option Task :=
  leastBy (victimKey s) ((liveTasks s).filter fun t =>
    t.phase == .running && !t.asked && decide (taskPrio s t < g.prio) && (placementSet s g.region).contains t.core)

/-- The starved pieces, the highest priority first. -/
def starvedPieces (s : State) : List Launch :=
  sortBy (fun g => 15 - g.prio) ((List.range 4).flatMap fun d => ((waitingPieces s d).filter (pieceStarved s d)).map fun w => w.1)

/-- The task of the next request: for the first starved piece that has one. -/
def nextVictim (s : State) : Option Task := (starvedPieces s).findSome? (victimFor s)

/-- PREEMPT_REQUEST (R399, R400): the choice for a task whose deferral has ended; or a request for the task that the control die picks,
deferred while it is in a handler. -/
def execPreemptRequest (task : Nat) (s : State) : Host.Outcome State Fault Refusal :=
  .next (match getTask s task with
  | none => s
  | some t =>
    if t.choice then
      let t := { t with choice := false }
      chooseLeave (putTask s t) t requestBudget
    else if t.preqAt.isNone && (nextVictim s).any fun v => v.tid == task then
      let t := { t with asked := true }
      if inHandler s task then putTask s { t with preqAt := some (coreClock s t.core) }
      else chooseLeave (putTask s t) t requestBudget
    else s)

/-- PREEMPT_DEFER_TIMEOUT (R400): a deferral of 20 µs raises 0x38 in the handler, which is masked, so that the region
faults. -/
def execPreemptDeferTimeout (task : Nat) (s : State) : Host.Outcome State Fault Refusal :=
  .next (match getTask s task with
  | none => s
  | some t =>
    match t.preqAt, (ctxsOf s task).find? fun c => c.frame.isSome with
    | some since, some c =>
      if coreClock s t.core < since + 20000 then s
      else
        let u := focus s c.id
        let k := trapHere u 0x38 0
        regionFault u t.region k ⟨6, slotOf u.me.path, wordAddr u, false, false, false, 0, 0⟩ task
    | _, _ => s)

/-! ## Leaving at once (R399, R406) -/

/-- A task that cannot be saved leaves its core: it restarts when it is not exposed, and else ends as fatal, kind 5. `r`
says what a record holds; a restart in a die reset writes one too. -/
def restartOrEnd (s : State) (t : Task) (k : Trap) (r : Report) : State :=
  let r : Report := { r with kind := 5, vdisc := t.vmode, restart := !t.exposed }
  if t.exposed then fatalTask s t.tid k r
  else restartTask (if r.drst then faultRecord s t k r else s) t.tid false

/-- A task leaves its core at once, with no drain (R399). -/
def leaveNow (s : State) (tid : Nat) (k : Trap) (r : Report) : State :=
  match getTask s tid with
  | none => s
  | some t =>
    if t.phase ≠ .running then s
    else match if coupled s t then none else saveRoom s t with
      | none => restartOrEnd s t k r
      | some place => beginSave s tid place

/-! ## Self-tests (R397, R398) -/

/-- A bank's place in a task taken by another: the role and the owner, the pad slot, the tile, files, inbox entries and the place of the
next (R397). The lines of a CACHE bank are dropped (R50); the model drops every line of the task (log entry 12). -/
def substitute (s : State) (core b n tid : Nat) (role : Role) : State :=
  let swap (k : Nat) : Nat := if k = b then n else k
  let move (c : Context) : Context :=
    if c.task ≠ tid then c
    else { c.mapM (fun m => { m with bank := m.bank.map swap }) with file := c.file.map fun f => (swap f.1, f.2) }
  let s := mapCore s core fun c =>
    let c := setBanks (setBanks c [b] .off none) [n] role (some tid)
    { c with
      cache := if role = .cache then c.cache.filter fun l => l.task != tid else c.cache
      matq := c.matq.map fun o => if o.task = tid then { o with bank := swap o.bank } else o }
  let s := { s with me := move s.me, ctxs := s.ctxs.map move, dev := { s.dev with spilled := s.dev.spilled.map move } }
  mapTask s tid fun t => { t with
    padSlots := t.padSlots.map swap
    tiles := t.tiles.map fun x => (swap x.1, x.2)
    inbox := t.inbox.map fun m => { m with bank := swap m.bank }
    ringAt := (swap t.ringAt.1, t.ringAt.2)
    badTiles := t.badTiles.map swap
    badInbox := t.badInbox.map fun x => (swap x.1, x.2) }

/-- A soft error of an unexposed task: a restart, on the same core after a transient error, counted as an abort (R393,
R398). -/
def softRestart (s : State) (t : Task) (k : Trap) (r : Report) (lasting : Bool) : State :=
  abortTask (putTask s { t with pinned := !lasting }) t.tid k r

/-- A core mapped out: every task on it leaves it (R397, R399). -/
def mapOut (s : State) (core pipe : Nat) (k : Trap) : State :=
  let s := mapCore s core fun c => { c with out := true }
  (((liveTasks s).filter fun t => t.core == core).map fun t => t.tid).foldl
    (fun s tid => leaveNow s tid k ⟨5, 0, 0, false, false, false, 127, pipe⟩) s

/-- What the record of a soft error says (R396): its kind, the place of its word, and the bank or pipe under test. -/
def testReport (x : Test) (lasting : Bool) (unit : Nat) : Report :=
  ⟨if lasting then 5 else 4, x.slot, x.pc, false, false, false, if unit < 96 then unit else 127, if unit < 96 then 0 else unit - 96⟩

/-- The soft error of the context under issue, after its self-test (R391, R398): a task that is not exposed restarts; in an exposed one
the trap goes on to the handler. -/
def afterError (x : Test) (r : Report) (lasting : Bool) (s : State) : State :=
  if s.task.exposed then
    let s := faultRecord { s with me := { setCause s.me x.trap x.slot with test := none } } s.task x.trap r
    takeMasked s x.trap x.slot x.pc x.redo
  else softRestart s s.task x.trap r lasting

/-- A write-back that has missed its prediction twice (R398): the core is mapped out, and the word issues again where the task goes on. -/
def afterMismatch (x : Test) (r : Report) (s : State) : State :=
  let s := faultRecord s s.task x.trap r
  let s := { s with me := { s.me with test := none, path := s.me.path.resumed x.redo } }
  mapOut s s.task.core r.pipe x.trap

/-- The test of a bank begins (R397): where a task owns the bank, another has taken its place; it waits until one is free. -/
def beginTest (s : State) (core : Nat) (x : BankTest) : State :=
  let start (s : State) : State :=
    mapCore s core fun c => { c with testing := updateFirst (fun y => y == x) (fun y => { y with begun := true }) c.testing }
  let bank := bankAt (getCore s core) x.bank
  match bank.owner.bind (getTask s) with
  | none => start s
  | some t =>
    match (offBanks s (getCore s core) t.part bank.role).head? with
    | none => s
    | some n => start (substitute s core x.bank n t.tid bank.role)

/-- The tests of a core begin that can. -/
def beginOn (s : State) (c : Core) : State := (c.testing.filter fun x => !x.begun).foldl (fun s x => beginTest s c.id x) s

/-- Every self-test that can begin does. -/
def beginTests (s : State) : State := (knownCores s).foldl beginOn s

/-- The context that waits for the self-test of a pipe, or of an array outside the banks (R391, R397). -/
def testWaiter (s : State) (core ctx : Nat) : Option Test :=
  (getCtx s ctx).bind fun c => c.test.filter fun x => x.unit.isNone && coreOf s c == core

/-- The contexts that wait for the self-test of a bank, with what they have met. -/
def bankWaiters (s : State) (core bank : Nat) : List (Nat × Test) :=
  (liveCtxs s).filterMap fun c => (c.test.filter fun x => x.unit == some (core, bank)).map fun x => (c.id, x)

/-- The outcome of a self-test for the context that met the error. -/
def endTest (s : State) (ctx unit : Nat) (x : Test) (lasting : Bool) : State :=
  match getCtx s ctx with
  | none => s
  | some c =>
    onPath s ctx c.path.id (if x.pipe then afterMismatch x (testReport x true unit) else afterError x (testReport x lasting unit) lasting)

/-- The event counted (R397). -/
def noteError (s : State) : State := { s with dev := { s.dev with softErrors := s.dev.softErrors + 1 } }

/-- The end of a pipe's test, or of an array's outside the banks. -/
def pipeTested (s : State) (core unit ctx : Nat) (lasting : Bool) : State :=
  match testWaiter s core ctx with
  | some x =>
    let s := endTest (noteError s) ctx unit x lasting
    if lasting && !x.pipe && x.trap.detail.toNat != roleCode .off then mapOut s core (unit - 96) x.trap else s
  | none =>
    let k : Trap := ⟨0x20, 0, 0, 0, 64⟩
    let s := match (getCtx s ctx).bind fun c => getTask s c.task with
      | none => noteError s
      | some t => faultRecord (noteError s) t k ⟨if lasting then 5 else 4, 0, 0, false, false, false, 127, unit - 96⟩
    if lasting then mapOut s core (unit - 96) k else s

/-- The bank of a test that has ended: OFF again, or mapped out (R397). -/
def endBank (s : State) (core bank : Nat) (lasting : Bool) : State :=
  mapCore s core fun c => { c with
    testing := c.testing.filter fun x => x.bank != bank
    banks := vset c.banks bank ⟨.off, none, (bankAt c bank).out || lasting⟩ }

/-- The end of a bank's test for every context that waits for it. With no consumer of the error, as in CACHE, the event is counted and
recorded alone (R70, R398). -/
def bankTested (s : State) (core : Nat) (x : BankTest) (lasting residue : Bool) : State :=
  let waiters := bankWaiters s core x.bank
  let s := noteError (endBank s core x.bank lasting)
  if waiters.isEmpty then
    match getTask s x.task with
    | none => s
    | some t =>
      faultRecord s t ⟨if residue then 0x20 else 0x21, BitVec.ofNat 8 (roleCode x.role), 0, 0, 64⟩
        ⟨if lasting then 5 else 4, 0, 0, false, false, false, x.bank, 0⟩
  else waiters.foldl (fun s w => endTest s w.1 x.bank w.2 lasting) s

/-- SELF_TEST_COMPLETE (R397, R398): the test of a pipe, or one of a bank that has begun, ends. A lasting error maps the bank out, or for a
pipe the core. -/
def execSelfTestComplete (core unit : Nat) (lasting residue : Bool) (ctx : Nat) (s : State) :
    Host.Outcome State Fault Refusal :=
  .next (if 96 ≤ unit then pipeTested s core unit ctx lasting
  else match (getCore s core).testing.find? fun x => x.bank == unit && x.begun with
    | none => s
    | some x => bankTested s core x lasting residue)

/-! ## Faults of the hardware (R69, R70, R113, R389; log entry 85) -/

/-- The eight bytes of a word of a pad, where the task has that word. -/
def strikePad (t : Task) (word : Nat) : Task :=
  if word < 2048 * t.padSlots.length then
    { t with badPad := t.badPad ++ ((List.range 8).map fun k => 8 * word + k).filter fun b => !t.badPad.contains b }
  else t

/-- A fault of the hardware: an error put where its next reader meets it. A single-bit error is corrected and counted, and a line of
CACHE is dropped, so that its next reader fetches it from its home, and the bank named is put down for its test (R70, R397). -/
def strikeAt (e : Strike) (s : State) : State :=
  match e with
  | .reg ctx reg lane ecc =>
    mapCtx s ctx fun c =>
      if c.kind = .stand ∧ reg < 64 ∧ lane < 64 then { c with regs := { c.regs with errV := (reg, lane, ecc) :: c.regs.errV } } else c
  | .form ctx reg => mapCtx s ctx fun c => if reg < 32 then { c with regs := { c.regs with errA := reg :: c.regs.errA } } else c
  | .pred ctx reg =>
    mapCtx s ctx fun c => if c.kind = .stand ∧ reg < 8 then { c with regs := { c.regs with errP := reg :: c.regs.errP } } else c
  | .writeback ctx => mapCtx s ctx fun c => { c with badWrites := c.badWrites + 1 }
  | .pad task word => mapTask s task fun t => strikePad t word
  | .cache core line bank =>
    let s := mapCore s core fun c => { c with cache := c.cache.filter fun l => l.line != line }
    if (bankAt (getCore s core) bank).role == .cache then askTest s (core, bank) else s
  | .fifo task bank line =>
    mapTask s task fun t => if t.inbox.any fun m => (m.bank, m.line) == (bank, line) then
      { t with badInbox := (bank, line) :: t.badInbox } else t
  | .tile task bank =>
    mapTask s task fun t => if (ownBanks (getCore s t.core) task .tile).contains bank then { t with badTiles := bank :: t.badTiles } else t
  | .memory line =>
    if inDevice (128 * line) then { s with dev := { s.dev with badLines := line :: s.dev.badLines } } else s
  | .network ctx lanes applied => mapCtx s ctx fun c => { c with netError := some (lanes, applied) }
  | .single => { s with dev := { s.dev with corrected := s.dev.corrected + 1 } }

end Sys2Proof.Machine
end

