-- ==== Sys2Proof/Machine/Tiers.lean ====
section
/-! DEFINITION. The hot-page tracker's epochs and the swap pairs (R385 to R389). -/

namespace Sys2Proof.Machine

/-! ## The tracker register (R385) -/

/-- EPOCH, as a time in ns. -/
def epochNs (r : Word64) : Nat := 1000 * 2 ^ bitsOf r.toNat 4 4
/-- MAXP. -/
def trackerMax (r : Word64) : Nat := bitsOf r.toNat 8 8
/-- THRESH. -/
def trackerThresh (r : Word64) : Nat := bitsOf r.toNat 16 16

/-- Bring-up has failed: the status register and firmware recovery alone answer (R420). -/
def failed (s : State) : Bool := s.dev.bringState == 15

/-- TRACKER_CONTROL_WRITE (R385): the register takes its fields; its reserved bits stay 0. Only partition 0 writes it. -/
def execTrackerControlWrite (part : Nat) (val : Word64) (s : State) : Host.Outcome State Fault Refusal :=
  .next (if part ≠ 0 ∨ failed s = true then s
  else
    let starts := val.getLsbD 0 && !s.dev.tracker.getLsbD 0
    { s with dev := { s.dev with
      tracker := val &&& 0xFFFF_FFF1
      epochAt := if starts then controlClock s else s.dev.epochAt } })

/-! ## Choosing pairs (R386) -/

/-- The leaf entry of a tracked page as read at its home, when a swap may take the page: V, LEAF at level 0, none of C64,
ILV, PIN, SWL and BUSY, and the page still where the tracker saw it. -/
def swapEntry (s : State) (h : HotPage) : Option Word64 :=
  match walk s h.part (4096 * h.vpn) with
  | .error _ => none
  | .ok w =>
    let e := w.entry
    if w.level = 0 ∧ w.addr = h.entry ∧ entryAddr e = h.pa ∧ (leafCheck h.part .look 0 e).isNone = true ∧ bitAt e.toNat 5 = false
        ∧ bitAt e.toNat 53 = false ∧ bitAt e.toNat 54 = false ∧ bitAt e.toNat 55 = false ∧ bitAt e.toNat 63 = false
        ∧ (swapOf s h.pa).isNone = true then
      some e
    else none

/-- A tracked page lies in far memory. -/
def HotPage.isFar (h : HotPage) : Bool := paKind h.pa == some .far

/-- The near page that a hot page is paired with: of its partition, the lowest count, at most a quarter of the hot one's. -/
def nearFor (s : State) (h : HotPage) : Option HotPage :=
  (leastBy (fun n => n.count) (s.dev.hot.filter fun n => !n.isFar && n.part == h.part && (swapEntry s n).isSome)).filter
    fun n => decide (4 * n.count ≤ h.count)

/-- BUSY of an entry set at its home (R387): one indivisible change, every other field as memory holds it. -/
def markBusy (s : State) (part addr : Nat) : State :=
  (rmwAtHome (noteMiss s part none addr) part addr (homeOf addr false) 8 fun old =>
    bytesLE 8 (BitVec.ofNat 64 (ofBytesLE old) ||| busyBit).toNat).1

/-- The entries of a tracked page read at their homes (R386). -/
def readPage (s : State) (h : HotPage) : State :=
  match walk s h.part (4096 * h.vpn) with | .error _ => s | .ok w => readEntries s h.part w.reads

/-- A pair starts (R387): both leaf entries read, BUSY set in both, an empty bitmap. -/
def startPair (s : State) (f n : HotPage) : State :=
  let s := markBusy (markBusy (readPage (readPage s f) n) f.part f.entry) n.part n.entry
  let w : Swap := ⟨f.part, 4096 * f.vpn, 4096 * n.vpn, f.entry, n.entry, f.pa, n.pa, 0⟩
  { s with dev := { s.dev with swaps := s.dev.swaps ++ [w] } }

/-- Pairs started for hot far pages in order, at most `left` of them and 16 at once. -/
def startPairs : Nat → List HotPage → State → State
  | _, [], s => s
  | 0, _, s => s
  | left + 1, f :: rest, s =>
    if 16 ≤ s.dev.swaps.length then s
    else match swapEntry s f, nearFor s f with
      | some _, some n => startPairs left rest (startPair s f n)
      | _, _ => startPairs (left + 1) rest s

/-- The far pages with THRESH samples in this epoch, the highest count first (R385, R386). -/
def hotFar (s : State) : List HotPage :=
  sortBy (fun h => 2 ^ 64 - h.count)
    (s.dev.hot.filter fun h => h.isFar && decide (trackerThresh s.dev.tracker ≤ h.fresh))

/-- What the choice of pairs waits for at the entry of a page (R406, R419): a home that is down, or the host, which may hold its line. -/
def pageWait (s : State) (h : HotPage) : Option XFail :=
  match walk s h.part (4096 * h.vpn) with
  | .error f => if f.code = 0 then some f else none
  | .ok w => accessWait s w.addr

/-- The pages the choice of pairs may look at: the hot far ones, and near ones of their partitions. -/
def pairPages (s : State) : List HotPage :=
  let far := hotFar s
  if trackerMax s.dev.tracker = 0 then [] else far ++ s.dev.hot.filter fun h => !h.isFar && far.any fun f => f.part == h.part

/-- The tracker's epoch has ended. -/
def epochEnded (s : State) : Bool :=
  s.dev.tracker.getLsbD 0 && decide (s.dev.epochAt + epochNs s.dev.tracker ≤ controlClock s)

/-- TRACKER_EPOCH_END (R385, R386): pairs start for hot far pages, and every count is halved. While an entry that the choice reads cannot be
reached, the end of the epoch waits (R406, R419). -/
def execTrackerEpochEnd (s : State) : Host.Outcome State Fault Refusal :=
  .next (if !epochEnded s then s
  else match (pairPages s).findSome? (pageWait s) with
  | some f => askHost s f
  | none =>
    let s := startPairs (trackerMax s.dev.tracker) (hotFar s) s
    { s with dev := { s.dev with
      hot := s.dev.hot.map fun h => { h with count := h.count / 2, fresh := 0 }
      epochAt := controlClock s } })

/-! ## Moving lines (R387 to R389) -/

/-- The next line of a pair to move: the lowest whose bit is clear. -/
def nextLine (w : Swap) : Option Nat := (List.range 32).find? fun i => !w.bitmap.getLsbD i

/-- An address in one page of a pair as it is in the other. -/
def swapPa (w : Swap) (pa : Nat) : Nat :=
  if pa / 4096 = w.far / 4096 then w.near + pa % 4096
  else if pa / 4096 = w.near / 4096 then w.far + pa % 4096
  else pa

/-- An overlay with the addresses of a pair's pages exchanged. -/
def swapCells (w : Swap) (l : List Host.Cell) : List Host.Cell :=
  l.foldl (fun m c => cellSet m (swapPa w c.1) c.2) []

/-- A task's version lines follow the bytes of a pair (R387). -/
def swapTask (w : Swap) (t : Task) : Task :=
  { t with
    vlines := swapCells w t.vlines
    vwct := t.vwct.map fun x => (swapPa w (128 * x.1) / 128, x.2) }

/-- CACHE lines of a pair's pages leave every core: their PAs now hold other bytes. -/
def swapCache (w : Swap) (c : Core) : Core := { c with cache := c.cache.filter fun l => swapPa w (128 * l.line) == 128 * l.line }

/-- Every task's version lines and every core's CACHE as the pair leaves them. -/
def swapHolders (s : State) (w : Swap) : State :=
  { s with
    core := swapCache w s.core
    cores := s.cores.map (swapCache w)
    task := swapTask w s.task
    tasks := s.tasks.map (swapTask w)
    dev := { s.dev with saved := s.dev.saved.map fun v => { v with task := swapTask w v.task } } }

/-- An entry with ADDR and TIER of another, and BUSY 0. -/
def movedEntry (e : Word64) (pa : Nat) (far : Bool) : Word64 :=
  let kept := e &&& ~~~0x801F_FFFF_FFFF_F000
  kept ||| BitVec.ofNat 64 (pa / 4096 * 4096 + bitNat far * 2 ^ 52)

/-- A pair ends (R387): both entries name the other's frame, both translations are dropped. -/
def endPair (s : State) (w : Swap) : State :=
  let s := { s with dev := { s.dev with swaps := s.dev.swaps.filter fun v => v != w } }
  let s := writeEntry s w.part w.entryFar (movedEntry (entryAt s w.part w.entryFar) w.near false)
  let s := writeEntry s w.part w.entryNear (movedEntry (entryAt s w.part w.entryNear) w.far true)
  dropPage (dropPage (swapHolders s w) w.part w.vaFar) w.part w.vaNear

/-- What a move, or the end of a pair, waits for (R406, R419): addresses at whose homes it reads or writes, and those it writes as an agent of
the device. -/
def swapWait (s : State) (touched written : List Nat) : Option Stall :=
  match written.find? (hostHolds s) with
  | some pa => some (.hostLine pa)
  | none => if touched.any fun a => homeDown s a (homeOf a false) then some .load else none

/-- An access to a pair's pages is on its way. -/
def pairInFlight (s : State) (w : Swap) : Bool := s.flight.any fun q => swapPa w q.pa != q.pa

/-- SWAP_LINE_MOVE (R387 to R389): the next line of a pair is exchanged; after the last one the pair ends, once the accesses
that used its translations have executed. `bad` marks an uncorrectable error on reading the line. With EN 0 the swap unit rests (R385). -/
def execSwapLineMove (pair : Nat) (bad : Bool) (s : State) : Host.Outcome State Fault Refusal :=
  .next (match s.dev.swaps[pair]? with
  | none => s
  | some w =>
    if s.dev.tracker.getLsbD 0 = false then s
    else match nextLine w with
    | none =>
      if pairInFlight s w then s
      else match swapWait s [w.entryFar, w.entryNear] [w.entryFar, w.entryNear] with
        | some k => askFor s k
        | none => endPair s w
    | some i =>
      match swapWait s (moveTouches s w i bad) (if (badOf s w i bad).isSome then [w.entryFar, w.entryNear] else []) with
      | some k => askFor s k
      | none => moveOrStop s w i bad)

end Sys2Proof.Machine
end

