-- ==== Sys2Proof/Machine/Dies.lean ====
section
/-! DEFINITION. Resets of a compute die (R4, R406) and the clock of a die under supply sag (R421, R422). -/

namespace Sys2Proof.Machine

/-! ## Die resets (R406) -/

/-- The home of the line that holds a byte lies on a die. -/
def homedOn (s : State) (die a : Nat) : Bool :=
  s.lines.any fun h => h.line == a / 128 && h.home / 64 == die && decide (h.home < 256)

/-- A task lies on a die. -/
def Task.onDie (t : Task) (die : Nat) : Bool := t.core / 208 == die

/-- The tasks on a die. -/
def dieTasks (s : State) (die : Nat) : List Task := (liveTasks s).filter fun t => t.onDie die

/-- The code of the record of a task that a die reset ends; R406 gives none. -/
def dieTrap (s : State) : Trap := ⟨Free.byte s.freeCtr, 0, 0, 0, 64⟩

/-- What that record says beside the code: DRST, and a BANK and PIPE that R406 does not give. -/
def dieReport (s : State) : Report :=
  ⟨5, 0, 0, false, false, true, (Free.byte (s.freeCtr + 1)).toNat % 128, (Free.byte (s.freeCtr + 2)).toNat % 8⟩

/-- The tasks of a die that run leave it, with no drain (R399, R406). -/
def leaveDie (s : State) (die : Nat) : State :=
  ((dieTasks s die).map fun t => t.tid).foldl (fun s tid => useFree (leaveNow s tid (dieTrap s) (dieReport s)) 3) s

/-- Every task has left a die, and what they have issued has ended. -/
def dieEmpty (s : State) (die : Nat) : Bool :=
  (dieTasks s die).isEmpty && (waitingTasks s).all fun t => !t.onDie die || (opsDone t && !inFlight s t.tid)

/-- The cores of a die as they come out of reset (R4): nothing of them survives; nor does the die's shared TLB. -/
def clearCores (s : State) (die : Nat) : State :=
  let fresh (c : Core) : Core := if c.id / 208 = die then Core.reset c.id else c
  { s with core := fresh s.core, cores := s.cores.map fresh, l2tlb := s.l2tlb.filter fun e => e.1 != die }

/-- The droop state of a die. -/
def sagOf (s : State) (die : Nat) : Sag := vget s.dev.sag die ⟨0, 0, 0, 0, 0, 0, 0⟩

/-- The droop state of a die replaced. -/
def setSag (s : State) (die : Nat) (g : Sag) : State := { s with dev := { s.dev with sag := vset s.dev.sag die g } }

/-- The time spent below 1.2 GHz counted up to now. -/
def Sag.upTo (g : Sag) (now : Nat) : Sag := { g with lowNs := if g.now = 0 then g.lowNs else g.lowNs + (now - g.since), since := now }

/-- The pieces in a die's shadow are lost with it and will be pushed again (R4, R361). -/
def loseShadow (die : Nat) (g : Launch) : Launch := if g.stopped then g else g.takeBack ((List.range 4).filter fun d => d != die)

/-- A die goes into reset: nothing of its cores, its shadow or its clock divider survives (R4, R421). The counters of its divider lie in the
management window and go on (log entry 84). -/
def dieGoesDown (s : State) (die : Nat) : State :=
  let s := clearCores s die
  let s := setSag s die { (sagOf s die).upTo (controlClock s) with now := 0, shown := 0 }
  { s with dev := { s.dev with
    launches := s.dev.launches.map (loseShadow die)
    dieDown := vset s.dev.dieDown die (some (clockOf s die)), dieStop := vset s.dev.dieStop die false } }

/-- Every modified line of a die's slices written back to memory (R406, step 3). -/
def writeBack (s : State) (die : Nat) : State := { s with backing := s.backing.filter fun c => !homedOn s die c.1 }

/-- DIE_RESET_ORDERLY (R406): first nothing more is placed on the die and its tasks leave it; once they have left, its L2
slices write back and the die goes into reset. -/
def execDieResetOrderly (die : Nat) (s : State) : Host.Outcome State Fault Refusal :=
  .next (if 4 ≤ die ∨ (vget s.dev.dieDown die none).isSome = true then s
  else if vget s.dev.dieStop die false = false then
    leaveDie { s with dev := { s.dev with dieStop := vset s.dev.dieStop die true } } die
  else if dieEmpty s die then dieGoesDown (writeBack s die) die
  else s)

/-- The partitions that hold modified or version lines in a die's slices (R406). -/
def dieMaskOf (s : State) (die part : Nat) : Bool :=
  (s.backing.any fun c => homedOn s die c.1 && s.lines.any fun h => h.line == c.1 / 128 && h.part == part)
    || (liveTasks s ++ s.dev.saved.map fun v => v.task).any fun t =>
      t.part == part && t.vlines.any fun c => homedOn s die (placeOf s c.1)

/-- What the engines of a die still had to do for a task, and its requests without an answer, are lost (R4). -/
def loseOps (s : State) (tid : Nat) : State :=
  mapTask { s with flight := s.flight.filter fun q => q.task != tid } tid fun t =>
    { t with cancelled := [], ops := t.ops.map fun o => { o with done := true } }

/-- A task on a die that resets unplanned ends or restarts; one that waits for its commit, or for its restart, has nothing left there. -/
def endOnDie (s : State) (tid : Nat) : State :=
  let s := loseOps s tid
  match getTask s tid with
  | none => s
  | some t =>
    if t.leaving || t.phase == .committing || t.phase == .waiting then settle s tid
    else useFree (restartOrEnd s t (dieTrap s) (dieReport s)) 3

/-- Every task on a die ends or restarts (R406). -/
def endDie (s : State) (die : Nat) : State :=
  ((dieTasks s die ++ (waitingTasks s).filter fun t => t.onDie die).map fun t => t.tid).foldl endOnDie s

/-- Modified bytes lost: memory keeps what it held before them (R406). -/
def loseModified (s : State) (die : Nat) : State :=
  { s with
    mem := s.backing.foldl (fun m c => if homedOn s die c.1 then Memory.set m c.1 c.2 else m) s.mem
    backing := s.backing.filter fun c => !homedOn s die c.1 }

/-- A commit of version bytes that a die's slices held takes place no more: they are lost, and the fault of their partition's regions ends
the task (R406). -/
def stopCommit (s : State) (die : Nat) (t : Task) : Task :=
  if t.vlines.any fun c => homedOn s die (placeOf s c.1) then { t with commitAt := none } else t

/-- Every such commit stopped. -/
def stopCommits (s : State) (die : Nat) : State :=
  { s with task := stopCommit s die s.task, tasks := s.tasks.map (stopCommit s die) }

/-- The regions of the partitions a mask names fault, each task with a record of DRST and kind 6 (R406). -/
def faultMasked (s : State) (mask : Nat → Bool) : State :=
  ((s.dev.regions.filter fun r => mask r.part).map fun r => r.num).foldl
    (fun s num => useFree (regionFault s num (dieTrap s) ⟨6, 0, 0, false, false, true, 0, 0⟩ (2 ^ 64)) 1) s

/-- DIE_RESET_UNPLANNED (R406): tasks of the die restart or end, what its L2 slices alone held is lost, and the regions of
the partitions it held lines of fault. -/
def execDieResetUnplanned (die : Nat) (s : State) : Host.Outcome State Fault Refusal :=
  .next (if 4 ≤ die ∨ (vget s.dev.dieDown die none).isSome = true then s
  else
    let mask := dieMaskOf s die
    dieGoesDown (faultMasked (stopCommits (loseModified (endDie s die) die) die) mask) die)

/-- The lines of a die's slices are in L2 no more; their slices' horizons stand past every lease granted (R104, R406). -/
def emptySlices (s : State) (die since : Nat) : State :=
  { s with
    lines := s.lines.map fun h => if h.home / 64 = die ∧ h.home < 256 then { h with resident := false } else h
    evictH := (List.range 64).foldl (fun l k => setNat (64 * die + k) (since + 65536) l) s.evictH }

/-- DIE_RESET_RETURN (R406, R420): the die is back with empty slices; placement on it goes on (R361). -/
def execDieResetReturn (die : Nat) (s : State) : Host.Outcome State Fault Refusal :=
  .next (match if die < 4 then vget s.dev.dieDown die none else none with
  | none => s
  | some since =>
    let s := emptySlices s die since
    { s with dev := { s.dev with dieDown := vset s.dev.dieDown die none } })

/-! ## Supply sag (R421, R422) -/

/-- The register of R422 as it reads. -/
def sagRegister (s : State) (die : Nat) : Word64 :=
  let g := (sagOf s die).upTo (controlClock s)
  BitVec.ofNat 64 (g.events + atBit g.shown 24 + atBit g.deep 28 + atBit (earlier (g.lowNs / 1000) (2 ^ 30 - 1)) 32)

/-- DROOP_REPORT (R421, R422): the core clock falls by steps of 75 MHz, to a floor of 8 steps. The supply is steady again after a time that
the rules do not give (log entry 60). -/
def execDroopReport (die steps : Nat) (s : State) : Host.Outcome State Fault Refusal :=
  let g := (sagOf s die).upTo (controlClock s)
  let now := earlier (g.now + steps) 8
  .next (useFree (setSag s die { g with
    events := earlier (g.events + 1) (2 ^ 24 - 1), now := now, shown := now, deep := later g.deep now
    steady := controlClock s + (Free.byte s.freeCtr).toNat }) 1)

/-- CLOCK_STEP_RISE (R421): after 1 µs of steady supply the core clock rises one step, and one more for each further 1 µs. -/
def execClockStepRise (die : Nat) (s : State) : Host.Outcome State Fault Refusal :=
  let g := sagOf s die
  .next (if g.now = 0 ∨ controlClock s < g.steady + 1000 then s
  else setSag s die { g.upTo (controlClock s) with now := g.now - 1, shown := g.now - 1, steady := g.steady + 1000 })

/-- SAG_COUNTER_CLEAR (R422): a 1 in bit 63 clears every field of the register. The reduction in force stays, and NOW shows it again from its
next change on (log entry 60). -/
def execSagCounterClear (die : Nat) (val : Word64) (s : State) : Host.Outcome State Fault Refusal :=
  .next (if val.getLsbD 63 ∧ failed s = false then
    setSag s die { sagOf s die with events := 0, shown := 0, deep := 0, lowNs := 0, since := controlClock s }
  else s)

end Sys2Proof.Machine
end

