-- ==== Sys2Proof/Machine/Sign.lean ====
section
/-! DEFINITION. SHAKE256 and XMSS-SHAKE256_20_256 (R414 to R416): the digest, the verification of a signature, and the signature of the
device's own key. R414 names the scheme and its sizes; the algorithms are those of FIPS 202, RFC 8391 and SP 800-208. PRESUMED (log
entry 15). -/

namespace Sys2Proof.Machine

/-! ## SHAKE256 -/

/-- A 64-bit lane rotated left. -/
def rotLane (x n : Nat) : Nat := (x <<< n % 2 ^ 64) ||| x >>> (64 - n)

/-- The lane of a Keccak state at x and y, each modulo 5. -/
def laneAt (a : List Nat) (x y : Nat) : Nat := a.getD (x % 5 + 5 * (y % 5)) 0

/-- A Keccak state by its lanes. -/
def lanesBy (f : Nat → Nat → Nat) : List Nat := (List.range 25).map fun i => f (i % 5) (i / 5)

/-- The rotation of each lane. -/
def laneTurns : List Nat := [0, 1, 62, 28, 27, 36, 44, 6, 55, 20, 3, 10, 43, 25, 39, 41, 45, 15, 21, 8, 18, 2, 61, 56, 14]

/-- The constants of the 24 rounds. -/
def roundWords : List Nat :=
  [0x0000000000000001, 0x0000000000008082, 0x800000000000808A, 0x8000000080008000, 0x000000000000808B, 0x0000000080000001,
   0x8000000080008081, 0x8000000000008009, 0x000000000000008A, 0x0000000000000088, 0x0000000080008009, 0x000000008000000A]
  ++ [0x000000008000808B, 0x800000000000008B, 0x8000000000008089, 0x8000000000008003, 0x8000000000008002, 0x8000000000000080,
   0x000000000000800A, 0x800000008000000A, 0x8000000080008081, 0x8000000000008080, 0x0000000080000001, 0x8000000080008008]

/-- One round: theta, rho with pi, chi, iota. -/
def keccakRound (a : List Nat) (k : Nat) : List Nat :=
  let c := (List.range 5).map fun x => (List.range 5).foldl (fun v y => v ^^^ laneAt a x y) 0
  let at_ (x : Nat) : Nat := c.getD (x % 5) 0
  let a := lanesBy fun x y => laneAt a x y ^^^ at_ (x + 4) ^^^ rotLane (at_ (x + 1)) 1
  let b := lanesBy fun x y => rotLane (laneAt a (x + 3 * y) x) (laneAt laneTurns (x + 3 * y) x)
  lanesBy fun x y =>
    laneAt b x y ^^^ ((2 ^ 64 - 1 - laneAt b (x + 1) y) &&& laneAt b (x + 2) y) ^^^ (if x + y = 0 then k else 0)

/-- Keccak-f[1600]. -/
def keccak (a : List Nat) : List Nat := roundWords.foldl keccakRound a

/-- A block of 136 bytes absorbed. -/
def absorb (a : List Nat) (block : List Byte) : List Nat :=
  keccak ((List.range 25).map fun i => a.getD i 0 ^^^ ofBytesLE ((block.drop (8 * i)).take 8))

/-- A message with its padding absorbed, block by block; `fuel` bounds the blocks. -/
def absorbAll : Nat → List Nat → List Byte → List Nat
  | 0, a, _ => a
  | fuel + 1, a, l => if l.isEmpty then a else absorbAll fuel (absorb a (l.take 136)) (l.drop 136)

/-- A message padded for SHAKE256. -/
def shakePad (m : List Byte) : List Byte :=
  let k := 136 - m.length % 136
  m ++ if k = 1 then [0x9F] else [0x1F] ++ List.replicate (k - 2) 0 ++ [0x80]

/-- SHAKE256 with an output of 32 bytes. -/
def shake256 (m : List Byte) : List Byte :=
  let p := shakePad m
  ((absorbAll (p.length / 136) (List.replicate 25 0) p).take 4).flatMap fun w => bytesLE 8 w

/-! ## The hash functions of XMSS -/

/-- The big-endian bytes of a number, `n` of them. -/
def bytesBE (n x : Nat) : List Byte := (bytesLE n x).reverse

/-- The number that big-endian bytes hold. -/
def ofBytesBE (l : List Byte) : Nat := ofBytesLE l.reverse

/-- Exclusive or of two strings of bytes. -/
def xorBytes (a b : List Byte) : List Byte := List.zipWith (fun x y => x ^^^ y) a b

/-- A keyed function: SHAKE256 of its number, a key and a message (SP 800-208). -/
def keyed (k : Nat) (key m : List Byte) : List Byte := shake256 (bytesBE 32 k ++ key ++ m)

/-- An address within the key (RFC 8391): the type, then four words. -/
structure HashPlace where
  kind : Nat
  a : Nat
  b : Nat
  c : Nat

/-- The bytes of a place, with its key-and-mask word. -/
def HashPlace.bytes (p : HashPlace) (mask : Nat) : List Byte :=
  bytesBE 12 0 ++ bytesBE 4 p.kind ++ bytesBE 4 p.a ++ bytesBE 4 p.b ++ bytesBE 4 p.c ++ bytesBE 4 mask

/-- The pseudorandom bytes of a place. -/
def placeBytes (seed : List Byte) (p : HashPlace) (mask : Nat) : List Byte := keyed 3 seed (p.bytes mask)

/-- Two nodes hashed to one. -/
def hashPair (seed : List Byte) (p : HashPlace) (l r : List Byte) : List Byte :=
  keyed 1 (placeBytes seed p 0) (xorBytes l (placeBytes seed p 1) ++ xorBytes r (placeBytes seed p 2))

/-! ## One-time signatures -/

/-- The chains of a one-time key. -/
def chainCount : Nat := 67

/-- A chain followed from step `i` on, for `n` steps. -/
def chainOn (seed : List Byte) (leaf chain i : Nat) (x : List Byte) : Nat → List Byte
  | 0 => x
  | n + 1 =>
    let y := chainOn seed leaf chain i x n
    let p : HashPlace := ⟨0, leaf, chain, i + n⟩
    keyed 0 (placeBytes seed p 0) (xorBytes y (placeBytes seed p 1))

/-- The hexadecimal digits of bytes, the high one of each first. -/
def hexDigits (l : List Byte) : List Nat := l.flatMap fun b => [b.toNat / 16, b.toNat % 16]

/-- The 67 digits that a digest stands for: its own, then its checksum's. -/
def chainDigits (digest : List Byte) : List Nat :=
  let d := hexDigits digest
  let sum := d.foldl (fun n x => n + (15 - x)) 0
  d ++ (hexDigits (bytesBE 2 (sum * 16))).take 3

/-- The string of 32 bytes at a place of a list of them. -/
def stringAt (l : List Byte) (k : Nat) : List Byte := (l.drop (32 * k)).take 32

/-- The ends of the chains of a leaf that a one-time signature leads to. -/
def endsOf (seed : List Byte) (leaf : Nat) (digest sig : List Byte) : List (List Byte) :=
  (List.zip (chainDigits digest) (List.range chainCount)).map fun d =>
    chainOn seed leaf d.2 d.1 (stringAt sig d.2) (15 - d.1)

/-! ## Trees -/

/-- Neighbours of one level of a leaf's own tree hashed together; one left over goes up as it is. -/
def levelUp (seed : List Byte) (leaf height : Nat) : Nat → List (List Byte) → List (List Byte)
  | i, l :: r :: rest => hashPair seed ⟨1, leaf, height, i⟩ l r :: levelUp seed leaf height (i + 1) rest
  | _, l => l

/-- The root of a leaf's own tree: 67 chains need seven levels. -/
def leafRoot (seed : List Byte) (leaf : Nat) (ends : List (List Byte)) : List Byte :=
  ((List.range 7).foldl (fun l h => levelUp seed leaf h 0 l) ends).headD []

/-- The height of the tree (R414). -/
def treeHeight : Nat := 20

/-- One level up the tree, with the neighbour that a signature gives. -/
def climb (seed : List Byte) (leaf : Nat) (path node : List Byte) (k : Nat) : List Byte :=
  let p : HashPlace := ⟨2, 0, k, leaf / 2 ^ (k + 1)⟩
  if leaf / 2 ^ k % 2 = 0 then hashPair seed p node (stringAt path k) else hashPair seed p (stringAt path k) node

/-- The digest of a message under a signature's random string, a root and a leaf. -/
def messageDigest (r root : List Byte) (leaf : Nat) (m : List Byte) : List Byte := keyed 2 (r ++ root ++ bytesBE 32 leaf) m

/-! ## Verification -/

/-- The length of a signature (R411, R414): a leaf's index, a random string, 67 chains, 20 neighbours. -/
def signatureLength : Nat := 4 + 32 + 32 * chainCount + 32 * treeHeight

/-- A signature of a message holds under a public key, a root and a seed (R414). -/
def signatureHolds (key : List Byte × List Byte) (m sig : List Byte) : Bool :=
  let leaf := ofBytesBE (sig.take 4)
  let digest := messageDigest ((sig.drop 4).take 32) key.1 leaf m
  let node := leafRoot key.2 leaf (endsOf key.2 leaf digest (sig.drop 36))
  let path := sig.drop (36 + 32 * chainCount)
  sig.length == signatureLength && decide (leaf < 2 ^ treeHeight)
    && (List.range treeHeight).foldl (climb key.2 leaf path) node == key.1

/-! ## Keys and signatures -/

/-- A number of 256 bits as its 32 bytes, the most significant first. -/
def string256 (x : BitVec 256) : List Byte := bytesBE 32 x.toNat

/-- A key: the secret of each chain of each leaf, and the public seed. -/
structure SignKey where
  secret : Nat → Nat → BitVec 256
  seed : BitVec 256

/-- The seed's bytes. -/
def SignKey.seedBytes (k : SignKey) : List Byte := string256 k.seed

/-- A chain of a leaf, `n` steps from its secret. -/
def SignKey.chain (k : SignKey) (leaf chain n : Nat) : List Byte :=
  chainOn k.seedBytes leaf chain 0 (string256 (k.secret leaf chain)) n

/-- The root of a leaf. -/
def SignKey.leaf (k : SignKey) (leaf : Nat) : List Byte :=
  leafRoot k.seedBytes leaf ((List.range chainCount).map fun c => k.chain leaf c 15)

/-- A node of the tree, by height and index. -/
def SignKey.node (k : SignKey) : Nat → Nat → List Byte
  | 0, i => k.leaf i
  | h + 1, i => hashPair k.seedBytes ⟨2, 0, h, i⟩ (k.node h (2 * i)) (k.node h (2 * i + 1))

/-- The public key: the root and the seed. -/
def SignKey.public (k : SignKey) : List Byte × List Byte := (k.node treeHeight 0, k.seedBytes)

/-- The signature of a message with a leaf of a key, under a random string of 32 bytes. -/
def SignKey.sign (k : SignKey) (leaf : Nat) (r m : List Byte) : List Byte :=
  let digest := messageDigest r k.public.1 leaf m
  bytesBE 4 leaf ++ r
    ++ ((List.zip (chainDigits digest) (List.range chainCount)).flatMap fun d => k.chain leaf d.2 d.1)
    ++ (List.range treeHeight).flatMap fun h => k.node h (natXor (leaf / 2 ^ h) 1)

/-- The device's own key (R414). -/
def deviceKey : SignKey := ⟨Free.chainSecret, Free.keySeed⟩

/-- The key whose public half is in the boot ROM (R414). -/
def romKey : SignKey := ⟨Free.romChain, Free.romSeed⟩

/-- The signature of a message with a leaf of the device's key (R414, R415). -/
def signatureOf (leaf : Nat) (m : List Byte) : List Byte :=
  deviceKey.sign leaf (keyed 3 (string256 Free.signSecret) (bytesBE 32 leaf)) m

end Sys2Proof.Machine
end

