-- ==== Sys2Proof/Machine/Module.lean ====
section
/-! DEFINITION. The module: reset and bring-up (R420), the configuration record and teardown (R408 to R413), the management
registers (R401, R412, R417), attestation (R414 to R416), and the loss of supply (R415). -/

namespace Sys2Proof.Machine

/-! ## Reset and bring-up (R420) -/

/-- A line after a module reset: in no slice, and of a key that no partition has, since nothing says what memory then holds. -/
def HomeLine.forgotten (h : HomeLine) : HomeLine := if h.home < 256 then { h with part := 65, resident := false } else h

/-- The module after a reset: as after power-on, but for what flash keeps (R411, R415), the epochs, the clocks, and what has
left the device. -/
def resetModule (s : State) : State :=
  { State.reset with
    time := s.time, skew := s.skew, pace := s.pace, agenda := s.agenda, freeCtr := s.freeCtr
    mem := s.mem
    lines := s.lines.map HomeLine.forgotten
    dev := { Device.reset with
      verCounter := s.dev.verCounter, leaf := s.dev.leaf, fwCounter := s.dev.fwCounter, lastGood := s.dev.lastGood, epochs := s.dev.epochs
      reports := s.dev.reports, hostReads := s.dev.hostReads, mmio := s.dev.mmio } }

/-- MODULE_RESET (R420): bring-up starts in state ROM, at power-on too. -/
def execModuleReset (s : State) : Host.Outcome State Fault Refusal := .next (resetModule s)

/-- Bring-up goes from a state to the next, or to FAIL with the state's detail. -/
def bringTo (s : State) (ok : Bool) (next detail : Nat) : State :=
  { s with dev := { s.dev with bringState := if ok then next else 15, bringDetail := if ok then s.dev.bringDetail else detail } }

/-- A bring-up step acts in its own state alone. -/
def inBringState (s : State) (n : Nat) (f : State → State) : Host.Outcome State Fault Refusal :=
  .next (if s.dev.bringState = n then f s else s)

/-- The status register as CXL.io reads it (R420). -/
def bringStatus (s : State) : Nat := s.dev.bringState % 16 + atBit (s.dev.bringDetail % 256) 8

/-- The public key in the boot ROM (R414). -/
def bootKey : List Byte × List Byte := romKey.public

/-- The firmware in flash is signed under the key in the boot ROM, and its version is not below the counter (R414, R420). -/
def firmwareVerified (s : State) : Bool :=
  signatureHolds bootKey Free.firmware Free.firmwareSig && decide (s.dev.fwCounter ≤ Free.firmwareVersion)

/-- BRINGUP_ROM (R414, R420): `ok` says that the PUF reconstruction passes its check. -/
def execBringupRom (ok : Bool) (s : State) : Host.Outcome State Fault Refusal :=
  inBringState s 0 fun s => bringTo s (ok && firmwareVerified s) 1 1

/-- BRINGUP_FW (R420). -/
def execBringupFw (ok : Bool) (s : State) : Host.Outcome State Fault Refusal := inBringState s 1 fun s => bringTo s ok 2 2

/-! ## The configuration record (R409 to R411) -/

/-- Bytes of a record as a number. -/
def imageNat (image : List Byte) (off n : Nat) : Nat := ofBytesLE ((image.drop off).take n)

/-- The descriptor of partition p in a record, p from 1 up (R411). -/
def descNat (image : List Byte) (p : Nat) : Nat := imageNat image (0x40 + 32 * (p - 1)) 32

/-- A partition descriptor (R409). -/
def parsePart (v : Nat) : PartDesc :=
  ⟨bitAt v 0, BitVec.ofNat 16 (bitsOf v 16 16), BitVec.ofNat 16 (bitsOf v 32 16), bitsOf v 64 12, bitsOf v 76 13,
    BitVec.ofNat 64 (bitsOf v 192 64)⟩

/-- Partition 0 always exists, and owns every way (R409). -/
def partZero : PartDesc := ⟨true, 0xFFFF, 0xFFFF, 0, 0, 0⟩

/-- An HDM range entry (R411): BASE and SIZE as bytes. -/
def parseHdm (v : Nat) : Hdm := ⟨bitAt v 0, bitsOf v 1 6, bitsOf v 64 22 * 2 ^ 30, bitsOf v 86 22 * 2 ^ 30⟩

/-- The entry of HDM range k in a record. -/
def hdmNat (image : List Byte) (k : Nat) : Nat := imageNat image (0x2220 + 16 * k) 16

/-- The partition map entry of a core in a record (R411). -/
def mapNat (image : List Byte) (c : Nat) : Nat := imageNat image (0x820 + 8 * c) 8

/-- A record as its bytes describe it (R411). -/
def parseConfig (image : List Byte) : Config where
  version := BitVec.ofNat 64 (imageNat image 0 8)
  capPa := bitsOf (imageNat image 0 64) 128 52
  pool0 := BitVec.ofNat 64 (bitsOf (imageNat image 0 64) 192 64)
  parts := Vector.ofFn fun p => if p.val = 0 then partZero else parsePart (descNat image p.val)
  maps := (List.range 832).filterMap fun c =>
    if mapNat image c % 2 ^ 36 = 0 then none else some (c, BitVec.ofNat 36 (mapNat image c))
  hdm := Vector.ofFn fun k => parseHdm (hdmNat image k.val)
  image := image

/-- No reserved bit of a record is set (R409, R411). -/
def reservedClear (image : List Byte) : Bool :=
  let h := imageNat image 0 64
  bitsOf h 96 32 == 0 && bitsOf h 180 12 == 0 && bitsOf h 256 256 == 0
    && (List.range 63).all (fun k => let v := descNat image (k + 1); bitsOf v 1 15 == 0 && bitsOf v 48 16 == 0 && bitsOf v 89 103 == 0)
    && (List.range 832).all (fun c => bitsOf (mapNat image c) 36 28 == 0)
    && (List.range 8).all fun k => bitsOf (hdmNat image k) 7 57 == 0 && bitsOf (hdmNat image k) 108 20 == 0

/-- A partition's descriptor. -/
def partDesc (c : Config) (p : Nat) : PartDesc := vget c.parts p ⟨false, 0, 0, 0, 0, 0⟩

/-- The ways of enabled partitions do not overlap, and semaphore counts are in range (R409). -/
def partsOk (c : Config) : Bool :=
  let on := ((List.range 63).map fun k => k + 1).filter fun p => (partDesc c p).en
  on.all fun p => decide ((partDesc c p).semCnt ≤ 4096) && on.all fun q => q ≤ p ||
    ((partDesc c p).l2ways &&& (partDesc c q).l2ways) == 0 && ((partDesc c p).mscways &&& (partDesc c q).mscways) == 0

/-- An enabled HDM range lies in near or far memory and names an enabled partition (R411). -/
def hdmInside (c : Config) (h : Hdm) : Bool :=
  h.size != 0 && (partDesc c h.part).en
    && (decide (h.base + h.size ≤ 0xC0_0000_0000) || (decide (0x100_0000_0000 ≤ h.base) && decide (h.base + h.size ≤ 0x280_0000_0000)))

/-- The enabled HDM ranges are as R411 asks, and none overlaps another. -/
def hdmOk (c : Config) : Bool :=
  let on := c.hdm.toList.filter fun h => h.en
  on.all (hdmInside c) && (List.range on.length).all fun i => (List.range on.length).all fun j =>
    j ≤ i || (match on[i]?, on[j]? with
      | some a, some b => decide (a.base + a.size ≤ b.base) || decide (b.base + b.size ≤ a.base)
      | _, _ => true)

/-- A record has its length, its VERSION is not below the counter, and it breaks no rule (R411). -/
def recordRules (s : State) (image : List Byte) : Bool :=
  image.length == 11684 && decide (s.dev.verCounter.toNat ≤ imageNat image 0 8) && imageNat image 8 4 == 0x22A0
    && reservedClear image && partsOk (parseConfig image) && hdmOk (parseConfig image)

/-- The signature of a record holds over its bytes 0x0000 to 0x229F, under the key in the boot ROM (R411, R414). -/
def recordSigned (image : List Byte) : Bool := signatureHolds bootKey (image.take 0x22A0) (image.drop 0x22A0)

/-- A record is accepted (R411). -/
def recordAccepted (s : State) (image : List Byte) : Bool := recordSigned image && recordRules s image

/-- A record put in force; the version counter in flash rises to it, and flash keeps it as the last good one (R411, R420). -/
def takeConfig (s : State) (image : List Byte) : State :=
  { s with dev := { s.dev with cfg := parseConfig image, verCounter := (parseConfig image).version, lastGood := image } }

/-- BRINGUP_CONFIG (R411, R420). An event that gives the record's verification another outcome than it has does not occur (log entry 15). -/
def execBringupConfig (image : List (BitVec 8)) (sigOk : Bool) (s : State) : Host.Outcome State Fault Refusal :=
  inBringState s 2 fun s =>
    if sigOk ≠ recordSigned image then s
    else if recordAccepted s image then bringTo (takeConfig s image) true 3 3 else bringTo s false 3 3

/-- The value a save-pool register takes: its reserved bits stay 0 (R401). -/
def poolValue (v : Word64) : Word64 := v &&& 0xFFFF_FFFF_FFFF_0001

/-- The save pool a record gives a partition (R409, R411). -/
def poolOf (c : Config) (p : Nat) : Word64 := poolValue (if p = 0 then c.pool0 else if (partDesc c p).en then (partDesc c p).pool else 0)

/-- BRINGUP_MEMORY (R412, R420): save pools are loaded, and every root register is cleared. -/
def execBringupMemory (ok : Bool) (s : State) : Host.Outcome State Fault Refusal :=
  inBringState s 3 fun s =>
    let s := if ok then { s with dev := { s.dev with
      roots := Vector.replicate 64 0, pools := Vector.ofFn fun p => poolOf s.dev.cfg p.val } } else s
    bringTo s ok 4 4

/-- BRINGUP_DIES (R420): the compute dies come up with every glade bank zeroed and OFF. -/
def execBringupDies (ok : Bool) (s : State) : Host.Outcome State Fault Refusal :=
  inBringState s 4 fun s => bringTo (if ok then { s with core := Core.reset s.core.id, cores := [] } else s) ok 5 5

/-- BRINGUP_HOST (R420): a failure stays in the state, to try again. -/
def execBringupHost (ok : Bool) (s : State) : Host.Outcome State Fault Refusal :=
  inBringState s 5 fun s => if ok then bringTo s true 6 0 else s

/-! ## Teardown and a later record (R411, R413) -/

/-- The bank groups that maps name and that satisfy a test of their partition: core and field (R410). -/
def groupsWhere (c : Config) (f : Nat → Bool) : List (Nat × Nat) :=
  c.maps.flatMap fun m => ((List.range 6).filter fun g => f (bitsOf m.2.toNat (6 * g) 6)).map fun g => (m.1, g)

/-- The bank groups of a partition; of partition 0 those that the maps claim for no other, as the list of what they claim (R409, R410). -/
def groupsOf (c : Config) (p : Nat) : List (Nat × Nat) :=
  if p = 0 then groupsWhere c fun q => q != 0 && (partDesc c q).en else groupsWhere c fun q => q == p

/-- A partition that a new record disables, or whose descriptor, ways or groups it changes (R413); partition 0 has groups alone that
can change. -/
def tornDown (old new : Config) (p : Nat) : Bool :=
  (p == 0 || (partDesc old p).en) && ((p != 0 && partDesc old p != partDesc new p) || groupsOf old p != groupsOf new p)

/-- The regions of a partition fault, and each of their tasks ends with a record; R413 names no trap. -/
def faultPart (s : State) (p : Nat) : State :=
  ((s.dev.regions.filter fun r => r.part == p).map fun r => r.num).foldl
    (fun s num => useFree (regionFault s num (dieTrap s) ⟨6, 0, 0, false, false, false, 0, 0⟩ (2 ^ 64)) 1) s

/-- The device's own writes at addresses of a partition that still wait are made (R413). -/
def finishPosted (s : State) (p : Nat) : State :=
  (s.dev.posted.filter fun w => w.1 == p).foldl
    (fun s w => match walkXlat s p w.2.1 .deviceWrite with
      | .ok (s, x) => (storeAtHome (noteMiss s p none x.pa) p x.pa (xlatHome x) w.2.2).1
      | .error _ => s)
    (setPosted s (s.dev.posted.filter fun w => w.1 != p))

/-- The accesses of a partition that are on their way complete (R413). -/
def completePart (s : State) (p : Nat) : State :=
  finishPosted (serveAll { s with flight := s.flight.filter fun q => q.part != p } (s.flight.filter fun q => q.part == p)) p

/-- The lines of a partition leave L2 and the memory-side caches; the horizons keep the leases granted on them (R104). -/
def dropLines (s : State) (p : Nat) : State :=
  let s := (s.lines.filter fun h => h.tag == p && h.resident && decide (h.home < 256)).foldl evictLine s
  { s with msc := s.msc.filter fun m => m.tag != p }

/-- A bank group of a core zeroed: OFF, with no owner. -/
def zeroGroup (s : State) (g : Nat × Nat) : State :=
  mapCore s g.1 fun c => setBanks c ((List.range 16).map fun k => 16 * g.2 + k) .off none

/-- The bank groups of a partition are zeroed. Those of partition 0 are the ones that no other claims, and a core that nothing has touched
has every bank OFF. -/
def zeroGroups (s : State) (p : Nat) : State :=
  let mine := if p = 0 then
      ((knownCores s).flatMap fun c => (List.range 6).map fun g => (c.id, g)).filter fun g => !(groupsOf s.dev.cfg 0).contains g
    else groupsOf s.dev.cfg p
  mine.foldl zeroGroup s

/-- A translation root or its absence written after every translation of the partition is dropped (R412). -/
def setRoot (s : State) (p : Nat) (v : Word64) : State :=
  let s := dropAll s p
  { s with dev := { s.dev with roots := vset s.dev.roots p v } }

/-- Teardown of a partition, in the order of R413. -/
def tearDown (s : State) (p : Nat) : State :=
  let s := zeroGroups (dropLines (completePart (faultPart s p) p) p) p
  let s := setRoot s p 0
  { s with dev := { s.dev with
    epochs := vset s.dev.epochs p (vget s.dev.epochs p 0 + 1)
    caps := vset s.dev.caps p 0
    pools := vset s.dev.pools p 0 } }

/-- The save pools a later record changes. -/
def loadPools (s : State) (old : Config) : State :=
  { s with dev := { s.dev with
    pools := Vector.ofFn fun p =>
      if poolOf old p.val = poolOf s.dev.cfg p.val ∧ tornDown old s.dev.cfg p.val = false then vget s.dev.pools p.val 0
      else poolOf s.dev.cfg p.val } }

/-- CONFIG_RECORD_LOAD (R411, R413): a later record tears down the partitions it changes and takes force; a refused one
leaves the record in force. -/
def execConfigRecordLoad (image : List (BitVec 8)) (sigOk : Bool) (s : State) : Host.Outcome State Fault Refusal :=
  inBringState s 6 fun s =>
    if sigOk ≠ recordSigned image ∨ recordAccepted s image = false then s
    else
      let old := s.dev.cfg
      let gone := (List.range 64).filter (tornDown old (parseConfig image))
      loadPools (takeConfig (gone.foldl tearDown s) image) old

/-! ## Management registers (R401, R412, R417) -/

/-- Firmware runs, and a record is loaded. -/
def firmwareUp (s : State) : Bool := decide (3 ≤ s.dev.bringState) && decide (s.dev.bringState ≤ 6)

/-- A partition is enabled by the loaded record (R409, R412). -/
def partEnabled (s : State) (p : Nat) : Bool := decide (p < 64) && (partDesc s.dev.cfg p).en

/-- ROOT of a root register lies in near memory (R412). -/
def rootNear (v : Word64) : Bool := paKind (entryAddr v) == some .near

/-- ROOT_REGISTER_SET (R375, R412): as TLBINV with k = 1, the write drops every translation of the partition and waits for the accesses that
used one, and for its swap pairs (R315, R384). -/
def execRootRegisterSet (part : Nat) (val : Word64) (s : State) : Host.Outcome State Fault Refusal :=
  .next (if !(firmwareUp s && partEnabled s part && rootNear val) then s
  else if s.flight.any (fun q => q.part == part) || swapCovers s part none then dropAll s part
  else setRoot s part (val &&& 0x000F_FFFF_FFFF_F001))

/-- CAPABILITY_REGISTER_SET (R417): special register 15 of the partition's tasks reads the VA. -/
def execCapabilityRegisterSet (part : Nat) (val : Word64) (s : State) : Host.Outcome State Fault Refusal :=
  .next (if firmwareUp s && partEnabled s part then { s with dev := { s.dev with caps := vset s.dev.caps part val } } else s)

/-- REGISTER_WRITE (R401): partition 0 writes the save-pool register of partition `reg`. -/
def execRegisterWrite (part reg : Nat) (val : Word64) (s : State) : Host.Outcome State Fault Refusal :=
  .next (if part = 0 ∧ failed s = false then { s with dev := { s.dev with pools := vset s.dev.pools reg (poolValue val) } } else s)

/-! ## Attestation (R414 to R416) -/

/-- The status of a report for a partition (R415, R416): busy while a signature is still to be released, since requests are served one at a
time. -/
def reportStatus (s : State) (part : Nat) : Nat :=
  if !partEnabled s part then 1 else if 2 ^ 20 ≤ s.dev.leaf then 3 else if s.dev.signing.isSome then 2 else 0

/-- The descriptor a report shows: of the record in force; partition 0 has none, so its bytes are free. -/
def reportDesc (s : State) (part : Nat) : Nat :=
  if part = 0 then ofBytesLE (freeBytes s.freeCtr 32) else descNat s.dev.cfg.image part

/-- The 160 bytes of a report's body (R416). With a status other than 0 no leaf is used, and LEAF is free. -/
def reportBody (s : State) (part : Nat) (nonce : BitVec 256) : List Byte :=
  let status := reportStatus s part
  let leaf := if status = 0 then s.dev.leaf else ofBytesLE (freeBytes (s.freeCtr + 32) 3)
  bytesLE 160 (status + atBit (part % 64) 8 + atBit (leaf % 2 ^ 20) 32 + atBit (epochOf s part % 2 ^ 64) 64
    + atBit nonce.toNat 128 + atBit (ofBytesLE (shake256 Free.firmware)) 384 + atBit (ofBytesLE (shake256 s.dev.cfg.image)) 640
    + atBit (reportDesc s part) 896)

/-- ATTESTATION_REQUEST (R415, R416): the leaf index rises in flash before the signed report leaves; one with another status leaves at
once. -/
def execAttestationRequest (part : Nat) (nonce : BitVec 256) (s : State) : Host.Outcome State Fault Refusal :=
  .next (if !firmwareUp s then s
  else
    let body := reportBody s part nonce
    let leaf := s.dev.leaf
    let s := useFree s 35
    if reportStatus s part = 0 then { s with dev := { s.dev with leaf := leaf + 1, signing := some (leaf, body) } }
    else { s with dev := { s.dev with reports := s.dev.reports ++ [body] } })

/-- The security block releases the signature of the report whose leaf it has written (R415). -/
def releaseReport (s : State) : State :=
  match s.dev.signing with
  | none => s
  | some (leaf, body) =>
    { s with dev := { s.dev with signing := none, reports := s.dev.reports ++ [body ++ signatureOf leaf body] } }

/-! ## Loss of supply -/

/-- POWER_LOSS (R415): device activity ends; flash keeps the leaf index, so that a leaf whose signature is not yet released is skipped. -/
def execPowerLoss (s : State) : Host.Outcome State Fault Refusal :=
  .next { s with power := false, dev := { s.dev with signing := none } }

end Sys2Proof.Machine
end

