-- ==== Sys2Proof/Machine/HostLink.lean ====
section
/-! DEFINITION. The host link (R345, R418, R419): host accesses to device memory at the home of a line, the host's answers to
back-invalidates, and its accesses to its own lines. -/

namespace Sys2Proof.Machine

/-- The host link is up: bring-up trains it in HOST (R420). -/
def linkUp (s : State) : Bool := s.dev.bringState == 5 || s.dev.bringState == 6

/-- The enabled HDM range that holds an address (R419). -/
def hdmAt (s : State) (pa : Nat) : Option Hdm :=
  s.dev.cfg.hdm.toList.find? fun h => h.en && decide (h.base ≤ pa) && decide (pa < h.base + h.size)

/-- The partition whose key and tag serve a host access: its range's, and partition 0 outside every range. -/
def hostPart (s : State) (pa : Nat) : Nat := match hdmAt s pa with | some h => h.part | none => 0

/-- The home of a line that a host reaches by physical address: where its record lies, else by the spread rule. -/
def homeByPa (s : State) (pa : Nat) : Nat :=
  match s.lines.find? fun h => h.line == lineOf pa with | some h => h.home | none => homeOf pa false

/-- Consecutive bytes cut at line boundaries. -/
def lineCuts : Nat → List Byte → List (Nat × List Byte)
  | _, [] => []
  | a, x :: xs =>
    match lineCuts (a + 1) xs with
    | (b, ys) :: more => if b % 128 = 0 then (a, [x]) :: (b, ys) :: more else (a, x :: ys) :: more
    | [] => [(a, [x])]

/-- Every byte of an access lies in device memory, and none of its homes is in reset. -/
def hostReaches (s : State) (pa n : Nat) : Bool :=
  n != 0 && inDevice pa && inDevice (pa + n - 1)
    && (List.range ((pa + n - 1) / 128 - pa / 128 + 1)).all fun k => !homeDown s (128 * (pa / 128 + k)) (homeByPa s (128 * (pa / 128 + k)))

/-- A host write of bytes of one line: a device store at the line's home (R419). -/
def hostStore (s : State) (run : Nat × List Byte) : State :=
  (storeAtHome (noteMiss s (hostPart s run.1) none run.1) (hostPart s run.1) run.1 (homeByPa s run.1) run.2).1

/-- HOST_MEM_WRITE (R419): one to a line whose home is in reset waits (R406). -/
def execHostMemWrite (pa : Nat) (data : List (BitVec 8)) (s : State) : Host.Outcome State Fault Refusal :=
  .next (if linkUp s && hostReaches s pa data.length then (lineCuts pa data).foldl hostStore s else s)

/-- The host may hold the lines of a range it has read (R419). -/
def noteHeld (s : State) (line : Nat) : State :=
  if (hdmAt s (128 * line)).isNone || s.dev.hostHeld.contains line then s
  else { s with dev := { s.dev with hostHeld := s.dev.hostHeld ++ [line] } }

/-- Bytes of an access read line by line at their homes. -/
def hostLoad : List (Nat × Nat) → State → State × List Byte
  | [], s => (s, [])
  | (pa, n) :: rest, s =>
    let (s, bytes, _) := readAtHome (noteMiss s (hostPart s pa) none pa) (hostPart s pa) pa (homeByPa s pa) n
    let (s, more) := hostLoad rest (noteHeld s (lineOf pa))
    (s, bytes ++ more)

/-- HOST_MEM_READ (R419): the read of a line on which a commit is pending waits, as a lease would (R108). -/
def execHostMemRead (pa size : Nat) (s : State) : Host.Outcome State Fault Refusal :=
  let cuts := (lineCuts pa (List.replicate size 0)).map fun c => (c.1, c.2.length)
  .next (if linkUp s && hostReaches s pa size && !cuts.any fun c => commitPending s (lineOf c.1) then
    let (s, bytes) := hostLoad cuts s
    { s with dev := { s.dev with hostReads := s.dev.hostReads ++ [bytes] } }
  else s)

/-- BACK_INVALIDATE_RESPONSE (R419): the host holds the line no more, so that the write that waits executes. -/
def execBackInvalidateResponse (n : Nat) (s : State) : Host.Outcome State Fault Refusal :=
  .next (match s.dev.backInv[n]? with
  | none => s
  | some line =>
    { s with dev := { s.dev with
      backInv := eraseAt s.dev.backInv n
      hostHeld := s.dev.hostHeld.filter fun l => l != line } })

/-- HOST_LINE_ACCESS (R345): an access of the host to its own memory, wholly before or after each atomic of the device. -/
def execHostLineAccess (pa : Nat) (data : List (BitVec 8)) (write : Bool) (s : State) : Host.Outcome State Fault Refusal :=
  .next (if paKind pa ≠ some .host ∨ paKind (pa + data.length - 1) ≠ some .host then s
  else if write then (lineCuts pa data).foldl (fun s run => (storeAtHome s 0 run.1 256 run.2).1) s
  else { s with dev := { s.dev with hostReads := s.dev.hostReads ++ [s.mem.getBytes pa data.length] } })

end Sys2Proof.Machine
end

