-- ==== Sys2Proof/Machine/Chain.lean ====
section
/-! DEFINITION. Packets and chains (R204 to R208, R217, R218): the fetch and the checks before a chain issues, and the word of
a path that executes next. -/

namespace Sys2Proof.Machine

/-! ## The words of a chain -/

/-- A word of a chain with its leading words: its slot, the leading words' slots, and the first of them that is bad. -/
structure ChainWord where
  slot : Nat
  before : List Nat
  lead : Lead
  badAt : Option Nat
  instr : Option Instr
  deriving DecidableEq, Repr

/-- The slots of a word with its leading words, in order. -/
def ChainWord.slots (u : ChainWord) : List Nat := u.before ++ [u.slot]

/-- The words of the chain from a slot on (R205, R212), `fuel` slots at most. -/
def chainWords (w : Word32 × Word32 × Word32) : Nat → Nat → List Nat → Lead → Option Nat → List ChainWord
  | 0, _, _, _, _ => []
  | fuel + 1, k, before, lead, badAt =>
    let x := packetWord w k
    let on := chainBit x && decide (k < 2)
    match decodeWord x with
    | .ok (.xpfx kind payload) =>
      if on then
        let l := addLead lead kind payload
        chainWords w fuel (k + 1) (before ++ [k]) l (if l.bad && badAt.isNone then some k else badAt)
      else [⟨k, before, lead, badAt, none⟩]
    | .ok i => ⟨k, before, lead, badAt, some i⟩ :: if on then chainWords w fuel (k + 1) [] Lead.none none else []
    | .error _ => ⟨k, before, lead, badAt, none⟩ :: if on then chainWords w fuel (k + 1) [] Lead.none none else []

/-- The chain from a slot on. -/
def chainFrom (w : Word32 × Word32 × Word32) (slot : Nat) : List ChainWord := chainWords w (3 - slot) slot [] Lead.none none

/-- The last slot of a chain. -/
def chainEnd (us : List ChainWord) : Nat := match us.getLast? with | some u => u.slot | none => 2

/-! ## Encoding and placement (R208, R217) -/

/-- The slot at which a word breaks the encoding checks: a bad leading word, the word itself, or chain bit in slot 2. -/
def encodingFault (s : State) (w : Word32 × Word32 × Word32) (u : ChainWord) : Option Nat :=
  if u.badAt.isSome then u.badAt
  else match u.instr with
    | none => some u.slot
    | some i =>
      if u.slot = 2 ∧ chainBit (packetWord w 2) = true then some 2
      else if operandsOk i && decide (0 < u.lead.count) && !leadOk i u.lead then u.before.head?
      else if encodingOk i u.lead s.task.fsize s.task.views (readRegs s).xc then none
      else some u.slot

/-- A word of a packet is an instruction that satisfies a test. -/
def slotHas (w : Word32 × Word32 × Word32) (k : Nat) (p : Instr → Bool) : Bool :=
  match decodeWord (packetWord w k) with | .ok i => p i | .error _ => false

/-- The slot of a breach of placement that a chain raises (R208): a JOIN or RJOIN that does not stand alone in slot 0, seen
by the first chain of the packet as it was fetched, or the first word after a transfer's chain that is not a NOP. -/
def placementFault (w : Word32 × Word32 × Word32) (slot : Nat) (us : List ChainWord) : Option Nat :=
  let joins := (List.range 3).filter fun k => decide (slot ≤ k) && slotHas w k isJoin && (k != 0 || chainBit (packetWord w 0))
  let after := if us.any fun u => match u.instr with | some i => transfers i | none => false then
      (List.range 3).filter fun k => decide (chainEnd us < k) && !slotHas w k fun i => i == .nop
    else []
  leastBy (fun k => k) (joins ++ after)

/-! ## Conflicts (R217) -/

/-- The instruction and leading words of each word of a chain. -/
def chainOps (us : List ChainWord) : List (Nat × Instr × Lead) :=
  us.filterMap fun u => u.instr.map fun i => (u.slot, i, u.lead)

/-- How often a chain may ask for a pipe (R207). -/
def pipeLimit (p : Pipe) : Nat := match p with | .none => 3 | .v => 2 | _ => 1

/-- The first word that conflicts with the words before it: a pipe too often, or a register written twice (R217).
DESIGN CHOICE (log entry 102): of the two words of a conflict it is the later one. -/
def conflict : List (Nat × Instr × Lead) → List (Nat × Instr × Lead) → Option Nat
  | _, [] => none
  | seen, u :: rest =>
    let pipe := pipeOf u.2.1
    let same := (seen.filter fun v => pipeOf v.2.1 == pipe).length
    let mine := writesOf u.2.1 u.2.2
    if pipeLimit pipe < same + 1 || seen.any (fun v => (writesOf v.2.1 v.2.2).any fun r => mine.contains r) then some u.1
    else conflict (seen ++ [u]) rest

/-! ## A chain of several words -/

/-- The trap of a word's operand tags and forms before issue (R218), with its lane: the first whose slot check fails, for a slot of
another serial, and then that lane's pad offset too (R318). -/
def operandTrap (s : State) (u : Nat × Instr × Lead) : Option (Nat × BitVec 8 × Nat × Option Nat) :=
  let r := readRegs s
  if !tagsOk u.2.1 u.2.2 s.me r then
    match tagLane u.2.1 u.2.2 s.me r with
    | some lane => some (u.1, 0x03, lane, tagOffset u.2.1 u.2.2 s.me r lane)
    | none => some (u.1, 0x03, electedLane s, none)
  else if !uniformOk u.2.1 u.2.2 r || (affineResult u.2.1 u.2.2 r).isNone then some (u.1, 0x04, electedLane s, none)
  else none

/-- The first trap of the tag and form checks over a chain. -/
def operandTraps (s : State) : List (Nat × Instr × Lead) → Option (Nat × BitVec 8 × Nat × Option Nat)
  | [] => none
  | u :: rest => match operandTrap s u with | some k => some k | none => operandTraps s rest

/-- The order in which the words of a chain take effect in the model (log entry 3): words that never wait, then the matrix
and geometry words, then the memory words, then a transfer. -/
def issueRank (u : ChainWord) : Nat :=
  match u.instr with
  | none => 0
  | some i =>
    if transfers i then 3
    else match pipeOf i with | .l => 2 | .m | .g => 1 | _ => 0

/-! ## What a path does next -/

/-- A word to execute, or a state in which the path has trapped, waited or changed. -/
inductive Prep where
  | word (i : Instr) (s : State)
  | done (s : State)
  deriving DecidableEq, Repr

/-- A fetch fault (R204): at the packet; one that meets a die in reset waits (R406). -/
def fetchFail (s : State) (f : XFail) (packet : BitVec 32) (redo : Option Redo) : State :=
  if f.code = 0 then wordStall s f.wait
  else
    let pa := slotAddr (codeBase s) packet 0
    takeTrap (mapPath s Path.settled)
      ⟨f.code, BitVec.ofNat 8 f.detail, BitVec.ofNat 2 f.level, BitVec.ofNat 64 pa, electedLane s⟩ 0 pa redo

/-- A trap of a chain before it issues, at a word (R218): no word has taken effect, and HRET issues the chain again with the trapping
word in it (R393). -/
def chainTrapAt (s : State) (packet : BitVec 32) (slot : Nat) (code : BitVec 8) (detail lane : Nat) (at_ : Option Nat) : State :=
  let va := slotAddr (codeBase s) packet slot
  takeTrap (mapPath s Path.settled) ⟨code, BitVec.ofNat 8 detail, 0, BitVec.ofNat 64 (at_.getD va), lane⟩ slot va none

/-- Such a trap whose address is the word's. -/
def chainTrap (s : State) (packet : BitVec 32) (slot : Nat) (code : BitVec 8) (detail lane : Nat) : State :=
  chainTrapAt s packet slot code detail lane none

/-- The path after a chain (R205). -/
def pastChain (p : Path) (packet : BitVec 32) (last : Nat) : Path :=
  if last < 2 then { p with pc := packet, slot := last + 1 } else { p with pc := packet + 1, slot := 0 }

/-- The words of a chain that do something; a chain of NOPs alone keeps its first. -/
def activeWords (us : List ChainWord) : List ChainWord :=
  match us.filter fun u => u.instr != some .nop with
  | [] => us.take 1
  | l => l

/-- A chain put under issue: its words in the model's order, its packet as it was fetched (R209), and the registers its words read where
it has several (R200). -/
def beginChain (s : State) (packet : BitVec 32) (w : Word32 × Word32 × Word32) (us : List ChainWord) : State :=
  let active := activeWords us
  mapPath s fun p => { pastChain p packet (chainEnd us) with
    run := some (packet, (sortBy issueRank active).flatMap ChainWord.slots), words := some w, lead := Lead.none, wait := .none
    snap := if 1 < active.length then some s.me.regs else none, first := none }

/-- A word of the chain under issue, from its packet as fetched (R209). -/
def chainWord (s : State) (packet : BitVec 32) (slot : Nat) : Except XFail (State × Word32) :=
  match s.me.path.words with
  | some w => .ok (s, packetWord w slot)
  | none =>
    match fetchPacket s packet with
    | .error f => .error f
    | .ok (s, w) => .ok (mapPath s fun p => { p with words := some w }, packetWord w slot)

/-- A path has a word that is issued and not over: it waits on an empty line or for a peer, or some of its lanes have their turn to come. -/
def wordOpen (p : Path) : Bool :=
  match p.wait with
  | .stall (.emptyLine _) _ | .stall .remote _ => true
  | _ => p.gone != 0

/-- The word of a path that is issued and not over. -/
def unfinishedWord (p : Path) : Option (Instr × Lead) :=
  match p.run, p.words with
  | some (_, k :: _), some w =>
    (match decodeWord (packetWord w k) with | .ok i => if wordOpen p then some (i, p.lead) else none | .error _ => none)
  | _, _ => none

/-- The registers that unfinished words of a context's other paths write. -/
def openWrites (c : Context) : List RegName :=
  c.paths.flatMap fun p => match unfinishedWord p with | some (i, l) => writesOf i l | none => []

/-- The registers a word reads or writes. -/
def touchedBy (i : Instr) (l : Lead) : List RegName :=
  writesOf i l ++ (vReads i l).map (fun u => .v u.1) ++ (aReads i l).map .a ++ (pReads i l).map .p

/-- A word waits while an unfinished word of the context writes a register that it reads or writes (R262), and for an access of its
context that has been sent and stands before it in an order that an observer could tell: an exact add still on its way, since it is an
atomic (R179, R187), before a word of pipes L, M and G other than another exact add; a remote atomic of a sibling path to the own core,
before a pad access (R184, R196). -/
def heldBack (s : State) (i : Instr) : Option Stall :=
  let pipe := pipeOf i
  if (touchedBy i s.me.path.lead).any (openWrites s.me).contains then some .load
  else if pipe ≠ .l ∧ pipe ≠ .m ∧ pipe ≠ .g then none
  else if ownRemote { s with remote := s.remote.filter fun q => q.path != s.me.path.id } then some .remote
  else match i with
    | .xsum _ _ _ _ _ => none
    | _ =>
      if s.flight.any fun q => q.ctx == s.me.id && (match q.kind with | .exactAdd _ => true | _ => false) then some .load else none

/-- A transfer that is issued again reads the registers it would have read at first (R200, R218). -/
def withKept (i : Instr) (s : State) : State :=
  if transfers i && s.me.path.first.isSome then mapPath s fun p => { p with snap := p.first } else s

/-- A trap of a chain is taken before a transfer that would end or divide its path: HRET issues the words that trapped again, in the
path as it stood, and then the transfer, with the registers it reads (R37, R218, R392; log entry 8). -/
def putOff (s : State) (rest : List Nat) : Option State :=
  let p := s.me.path
  p.pend.map fun q => takePend s q.1 q.2 (p.pendSlots ++ wordSlots p ++ rest) p.snap

/-- The word at the head of the chain under issue. -/
def issueHead (s : State) (packet : BitVec 32) (slot : Nat) (rest : List Nat) : Prep :=
  let p := s.me.path
  match chainWord s packet slot with
  | .error f => .done (fetchFail s f packet (some ⟨packet, wordSlots p ++ rest, none, p.first⟩))
  | .ok (s, x) =>
    match decodeWord x with
    | .error _ => .done (wordTrap s (trapHere s 0x01 0))
    | .ok i =>
      let s := withKept i s
      match if transfers i && divides i s then putOff s rest else none with
      | some t => .done t
      | none => match heldBack s i with | none => .word i s | some w => .done (wordStall s w)

/-- A chain of one word without leading words, NOPs apart: its meaning makes the checks of R218 itself. -/
def loneWord (w : Word32 × Word32 × Word32) (us : List ChainWord) : Bool :=
  (activeWords us).length == 1 && us.all (fun u => u.instr.isSome && u.before.isEmpty)
    && !(chainEnd us == 2 && chainBit (packetWord w 2))

/-- A chain issues: its first word is next. -/
def issueChain (s : State) (packet : BitVec 32) (w : Word32 × Word32 × Word32) (us : List ChainWord) : Prep :=
  let s := beginChain s packet w us
  match s.me.path.run with
  | some (_, k :: rest) => issueHead s packet k rest
  | _ => .done s

/-- The checks on a chain of several words that stand behind its encoding (R218), and its issue. A tract materialises first, for the
checks but the encoding's are then made in its stands (R206). -/
def issueMany (s : State) (packet : BitVec 32) (w : Word32 × Word32 × Word32) (us : List ChainWord) : Prep :=
  let ops := chainOps us
  match conflict [] ops with
  | some k => .done (chainTrap s packet k 0x02 0 (electedLane s))
  | none =>
    if !isStand s && ops.any fun u => wordStands s u.2.1 u.2.2 then
      .done (match materialise s with
        | .ok t => t
        | .trap k => chainTrap s packet (chainEnd us) k.code k.detail.toNat k.lane
        | .stall w => wordStall s w)
    else match ops.find? fun u => privileged u.2.1 && s.me.frame.isNone with
      | some u => .done (chainTrap s packet u.1 0x0A 17 (electedLane s))
      | none =>
        match operandTraps s ops with
        | some (k, code, lane, off) => .done (chainTrapAt s packet k code 0 lane off)
        | none => issueChain s packet w us

/-- A chain that breaks an encoding rule or a rule of placement traps at the lowest slot concerned (R208, R217). A breach of a lone
word's own encoding alone is left to its meaning. -/
def placeChain (s : State) (w : Word32 × Word32 × Word32) (packet : BitVec 32) (slot : Nat) (us : List ChainWord) : Option State :=
  let trap (k : Nat) : Option State := some (chainTrap s packet k 0x01 0 (electedLane s))
  match leastBy (fun k => k) (us.filterMap (encodingFault s w)), placementFault w slot us with
  | none, none => none
  | some k, none => if loneWord w us then none else trap k
  | none, some j => trap j
  | some k, some j => trap (earlier k j)

/-- The packet of a path's next chain: the one its last chain came from, as it was fetched, or the next one (R204, R209). -/
def packetNow (s : State) : Except XFail (State × Word32 × Word32 × Word32) :=
  match if s.me.path.slot = 0 then none else s.me.path.words with
  | some w => .ok (s, w)
  | none => fetchPacket s s.me.path.pc

/-- The next chain of a path: fetched, checked, and put under issue. -/
def startChain (s : State) : Prep :=
  let packet := s.me.path.pc
  let slot := s.me.path.slot
  match packetNow s with
  | .error f => .done (fetchFail s f packet none)
  | .ok (s, w) =>
    let us := chainFrom w slot
    match placeChain s w packet slot us with
    | some t => .done t
    | none => if loneWord w us || us.length == 1 then issueChain s packet w us else issueMany s packet w us

/-- What the path under issue does next. -/
def prepare (s : State) : Prep :=
  match s.me.path.run with
  | some (packet, slot :: rest) => issueHead s packet slot rest
  | _ => startChain s

end Sys2Proof.Machine
end

