-- ==== Sys2Proof/Machine/Sched.lean ====
section
/-! DEFINITION. Whose turn it is (R29, R238, R372; log entry 2): the path a context issues, the order of contexts, and the
steps of other agents that may be due. -/

namespace Sys2Proof.Machine

/-! ## Paths of a context (R29) -/

/-- A path waits in a word that stalls. -/
def Path.stalled (p : Path) : Bool := match p.wait with | .stall _ _ => true | _ => false

/-- A path may issue: it waits for nothing, or its word stalls and issues again (R316). -/
def Path.issuable (p : Path) : Bool := match p.wait with | .none => true | .stall _ _ => true | _ => false

/-- A context issues: a tract or a stand of a running task that waits for no self-test (R397), asks for no clearing under way (R47), and
whose file is not moving (R50). In a task that is being saved, stands end what they have begun (R262, R402). -/
def ctxIssues (s : State) (c : Context) : Bool :=
  (c.kind == .tract || c.kind == .stand) && c.test.isNone && (pathsOf c).any Path.issuable
    && match getTask s c.task with
      | none => false
      | some t =>
        (t.phase == .running || (t.phase == .saving && c.kind == .stand))
          && !((getCore s t.core).clearing.any fun k => k.ctx == c.id || k.moving.contains c.id)

/-- A hold of YIELD keeps a path back between chains (R238): to its end, or until the contexts that were ready have each issued. -/
def Path.kept (p : Path) (now : Nat) : Bool :=
  p.run.isNone && (match p.held with | some (t, others) => decide (now < t) && !others.isEmpty | none => false)

/-- A path has issued a POOLSET whose code is still to be written. -/
def Path.pools (p : Path) : Bool := match p.wait with | .stall .pool _ => true | _ => false

/-- A path of a context may take a turn; while another of its paths waits for the code of a POOLSET, none does but one that is between
two lanes of a word (R47, R341). -/
def pathIssues (s : State) (c : Context) (p : Path) : Bool :=
  ((pathsOf c).all fun q => q.id == p.id || !q.pools || p.gone != 0) && p.issuable && !p.kept (coreClock s (coreOf s c))
    && match getTask s c.task with | some t => t.phase == .running || !p.atRest | none => false

/-- The order in which a stand's ready paths are chosen (R29): a chain under issue first, then aged paths, the one made first, then the
lowest PC, and among equals the one made first. -/
def pathKey (p : Path) : Nat :=
  let rank := if p.run.isSome && !p.stalled then 0 else if 64 < p.age then 1 else 2
  rank * 2 ^ 80 + (if rank = 1 then 0 else (packetOf p).toNat * 2 ^ 40) + p.id

/-- The path a context issues, among those that are ready. -/
def choosePath (s : State) (ready : Context → Path → Bool) (c : Context) : Option Path :=
  leastBy pathKey ((pathsOf c).filter fun p => pathIssues s c p && ready c p)

/-- The ageing counters as the context's current path issues a chain (R29): its own starts again, those of ready paths go on. A word
that stalls again has not issued. -/
def agePaths (ready : Context → Path → Bool) (c : Context) : Context :=
  if c.path.run.isSome ∨ ready c c.path = false then c
  else { c with
    path := { c.path with age := 0, held := none }
    paths := c.paths.map fun p => if ready c p then { p with age := p.age + 1 } else p }

/-- A context has issued, so that the holds of others of its core wait for it no more (R238). -/
def releaseHolds (s : State) (ctx : Nat) : State :=
  let free (p : Path) : Path := { p with held := p.held.map fun h => (h.1, h.2.filter fun k => k != ctx) }
  { s with ctxs := s.ctxs.map fun c => { c with path := free c.path, paths := c.paths.map free } }

/-- A path of a context put under issue; `none` when it cannot issue. -/
def selectPath (s : State) (ready : Context → Path → Bool) (ctx path : Nat) : Option State :=
  match getCtx s ctx with
  | none => none
  | some c =>
    if !ctxIssues s c || !((pathsOf c).any fun p => p.id == path && pathIssues s c p) then none
    else
      let s := releaseHolds (focus s ctx) ctx
      some { s with me := agePaths ready { focusPath s.me path with urgent := false } }

/-! ## Contexts (R372) -/

/-- The contexts in the order of their last issue, the one under issue last. -/
def issueOrder (s : State) : List Context := s.ctxs ++ if s.me.kind = .idle then [] else [s.me]

/-- The chains a core issues while the results of a word are under way (R262): two ports, four clocks at the least. -/
def issueWindow : Nat := 8

/-- The age of a context (R372): the placement time of its task, then the order in which contexts were made. -/
def ageKey (s : State) (c : Context) : Nat := (match getTask s c.task with | some t => t.placedAt | none => 0) * 2 ^ 64 + c.id

/-- The context that issues next among ready ones in the order of their last issue: the oldest urgent one (R373), else the oldest of those
that have not issued in the last few turns, whose operands count as not ready (log entry 2); where all have, the one that issued first. -/
def nextContext (s : State) (l : List Context) : Option Context :=
  match leastBy (ageKey s) (l.filter fun c => c.urgent) with
  | some c => some c
  | none =>
    let late := (issueOrder s).drop ((issueOrder s).length - issueWindow) |>.map fun c => c.id
    match leastBy (ageKey s) (l.filter fun c => !late.contains c.id) with
    | some c => some c
    | none => l.head?

/-- The context and path that issue next in the default order. -/
def nextIssue (s : State) (ready : Context → Path → Bool) : Option (Nat × Nat) :=
  (nextContext s ((issueOrder s).filter fun c => ctxIssues s c && (choosePath s ready c).isSome)).bind fun c =>
    (choosePath s ready c).map fun p => (c.id, p.id)

/-! ## Steps of other agents -/

/-- The steps of a core's engines. -/
def coreEvents (c : Core) : List Instr :=
  [.clearingComplete c.id, .spillReturn c.id, .parkedTractServe c.id, .standSpill c.id]
    ++ (List.range 4).map (fun ch => .copyComplete c.id ch)
    ++ (List.range c.matq.length).flatMap fun n => [.matrixOpExecute c.id n, .drainExecute c.id n]

/-- The steps of requests on their way. -/
def flightEvents (s : State) : List Instr :=
  (List.range s.flight.length).flatMap (fun n => [.homeLoad n, .homeStore n, .homeAtomic n])
    ++ (List.range s.transit.length).map (fun n => .inboxMessageArrive n)
    ++ (List.range s.remote.length).map fun n => .atomrExecute n

/-- The ends of a context's waits. -/
def ctxEvents (c : Context) : List Instr :=
  [.pendingPieceStart c.id, .rjoinWaitExpire c.id]
    ++ (pathsOf c).flatMap fun p =>
      [.pendingHorizonGuardReached c.id p.id, .waitLimitExpire c.id p.id, .semwWaitLimit c.id p.id, .yieldHoldExpire c.id p.id]

/-- The steps of the control die for a task. -/
def taskEvents (t : Task) : List Instr :=
  [.versionCommit t.tid, .contextSave t.tid, .preemptRequest t.tid, .preemptDeferTimeout t.tid]

/-- The restore of a saved task on a core of its shadow's die (R402, R405). -/
def restoreEvent (s : State) (v : Saved) : Option Instr :=
  (chooseCore s v.task.region v.task.part v.task.plan.toNat v.task.tid (v.task.core / 208)).map fun k => .contextRestore v.task.tid k

/-- The steps of the control die for launches, swap pairs, the tracker, and dies. -/
def deviceEvents (s : State) : List Instr :=
  s.dev.launches.flatMap (fun g => [.launchSemaphoreWait g.serial, .completionRecordWrite g.serial])
    ++ s.dev.saved.filterMap (restoreEvent s)
    ++ (List.range 4).map (fun d => .piecePlacement d)
    ++ [.launchDequeue, .trackerEpochEnd]
    ++ (List.range s.dev.swaps.length).map (fun k => .swapLineMove k false)
    ++ (List.range 4).map (fun d => .clockStepRise d)
    ++ ((List.range 4).filter fun d => vget s.dev.dieStop d false).map fun d => .dieResetOrderly d

/-- Every step of another agent inside the device that may be due, in the default order. One that is not due changes nothing. -/
def dueEvents (s : State) : List Instr :=
  flightEvents s ++ (knownCores s).flatMap coreEvents ++ (liveCtxs s).flatMap ctxEvents ++ (liveTasks s).flatMap taskEvents
    ++ deviceEvents s

/-- A context with its paths in the order of their numbers, none of them under issue. -/
def Context.inOrder (c : Context) : Context :=
  { c with path := Path.start 0 0 0, paths := sortBy (fun p => p.id) (pathsOf c) }

/-- The state with its contexts, paths, tasks and cores in the order of their numbers, none of them under issue: what of a state does
not depend on whose turn was last. -/
def inOrder (s : State) : State :=
  let t := stash s
  { t with
    ctxs := sortBy (fun c => c.id) (t.ctxs.map Context.inOrder)
    tasks := sortBy (fun u => u.tid) t.tasks
    core := Core.reset 0
    cores := (sortBy (fun c => c.id) (knownCores t)).filter fun c => c != Core.reset c.id }

/-- A step changed nothing. -/
def unmoved (s t : State) : Bool := inOrder s == inOrder t

end Sys2Proof.Machine
end

