-- ==== Sys2Proof/Machine/Dispatch.lean ====
section
/-! DEFINITION. The meaning of each instruction: one arm per constructor. -/

namespace Sys2Proof.Machine

def exec (i : Instr) (s : State) : Host.Outcome State Fault Refusal :=
  match i with
  | .nop => Sys2Proof.Machine.execNop s
  | .ret => Sys2Proof.Machine.execRet s
  | .matl => Sys2Proof.Machine.execMatl s
  | .rjoin a b => Sys2Proof.Machine.execRjoin a b s
  | .join => Sys2Proof.Machine.execJoin s
  | .yield => Sys2Proof.Machine.execYield s
  | .exit => Sys2Proof.Machine.execExit s
  | .hret => Sys2Proof.Machine.execHret s
  | .time d => Sys2Proof.Machine.execTime d s
  | .laneid d => Sys2Proof.Machine.execLaneid d s
  | .idx d b => Sys2Proof.Machine.execIdx d b s
  | .locq d a => Sys2Proof.Machine.execLocq d a s
  | .trap b => Sys2Proof.Machine.execTrap b s
  | .launch d a b => Sys2Proof.Machine.execLaunch d a b s
  | .xset d b => Sys2Proof.Machine.execXset d b s
  | .bra disp => Sys2Proof.Machine.execBra disp s
  | .call disp => Sys2Proof.Machine.execCall disp s
  | .loop reg disp => Sys2Proof.Machine.execLoop reg disp s
  | .brc cond reg disp => Sys2Proof.Machine.execBrc cond reg disp s
  | .brv sense preg disp => Sys2Proof.Machine.execBrv sense preg disp s
  | .brx a => Sys2Proof.Machine.execBrx a s
  | .aadd d a b => Sys2Proof.Machine.execAadd d a b s
  | .asub d a b => Sys2Proof.Machine.execAsub d a b s
  | .amul d a b => Sys2Proof.Machine.execAmul d a b s
  | .ashl d a b => Sys2Proof.Machine.execAshl d a b s
  | .ashr d a b => Sys2Proof.Machine.execAshr d a b s
  | .aand d a b => Sys2Proof.Machine.execAand d a b s
  | .aor d a b => Sys2Proof.Machine.execAor d a b s
  | .axor d a b => Sys2Proof.Machine.execAxor d a b s
  | .amin d a b => Sys2Proof.Machine.execAmin d a b s
  | .amax d a b => Sys2Proof.Machine.execAmax d a b s
  | .acmpEq d a b => Sys2Proof.Machine.execAcmpEq d a b s
  | .acmpNe d a b => Sys2Proof.Machine.execAcmpNe d a b s
  | .acmpLt d a b => Sys2Proof.Machine.execAcmpLt d a b s
  | .acmpLe d a b => Sys2Proof.Machine.execAcmpLe d a b s
  | .acmpLtu d a b => Sys2Proof.Machine.execAcmpLtu d a b s
  | .acmpLeu d a b => Sys2Proof.Machine.execAcmpLeu d a b s
  | .aaddi d a imm => Sys2Proof.Machine.execAaddi d a imm s
  | .amuli d a imm => Sys2Proof.Machine.execAmuli d a imm s
  | .ashli d a imm => Sys2Proof.Machine.execAshli d a imm s
  | .ashri d a imm => Sys2Proof.Machine.execAshri d a imm s
  | .amovi d imm => Sys2Proof.Machine.execAmovi d imm s
  | .aandi d a imm => Sys2Proof.Machine.execAandi d a imm s
  | .ald data base disp6 => Sys2Proof.Machine.execAld data base disp6 s
  | .pand pd pa pb => Sys2Proof.Machine.execPand pd pa pb s
  | .por pd pa pb => Sys2Proof.Machine.execPor pd pa pb s
  | .pxor pd pa pb => Sys2Proof.Machine.execPxor pd pa pb s
  | .pnot pd pa => Sys2Proof.Machine.execPnot pd pa s
  | .pcnt d pa => Sys2Proof.Machine.execPcnt d pa s
  | .pfirstA d pa => Sys2Proof.Machine.execPfirstA d pa s
  | .pfirstP pd pa => Sys2Proof.Machine.execPfirstP pd pa s
  | .ballot d a => Sys2Proof.Machine.execBallot d a s
  | .gets d b => Sys2Proof.Machine.execGets d b s
  | .sets a b => Sys2Proof.Machine.execSets a b s
  | .lread d a b => Sys2Proof.Machine.execLread d a b s
  | .lwrite d a b => Sys2Proof.Machine.execLwrite d a b s
  | .iadd d a b f => Sys2Proof.Machine.execIadd d a b f s
  | .isub d a b f => Sys2Proof.Machine.execIsub d a b f s
  | .imul d a b f => Sys2Proof.Machine.execImul d a b f s
  | .imulh d a b f3 => Sys2Proof.Machine.execImulh d a b f3 s
  | .imad d a b f => Sys2Proof.Machine.execImad d a b f s
  | .imin d a b f3 => Sys2Proof.Machine.execImin d a b f3 s
  | .imax d a b f3 => Sys2Proof.Machine.execImax d a b f3 s
  | .iabs d a f => Sys2Proof.Machine.execIabs d a f s
  | .icmp d a b f3 => Sys2Proof.Machine.execIcmp d a b f3 s
  | .sel d a b f3 => Sys2Proof.Machine.execSel d a b f3 s
  | .and d a b => Sys2Proof.Machine.execAnd d a b s
  | .or d a b => Sys2Proof.Machine.execOr d a b s
  | .xor d a b => Sys2Proof.Machine.execXor d a b s
  | .andn d a b => Sys2Proof.Machine.execAndn d a b s
  | .shl d a b => Sys2Proof.Machine.execShl d a b s
  | .shr d a b => Sys2Proof.Machine.execShr d a b s
  | .sar d a b => Sys2Proof.Machine.execSar d a b s
  | .rotl d a b => Sys2Proof.Machine.execRotl d a b s
  | .popc d a => Sys2Proof.Machine.execPopc d a s
  | .clz d a => Sys2Proof.Machine.execClz d a s
  | .brev d a => Sys2Proof.Machine.execBrev d a s
  | .blut d a b => Sys2Proof.Machine.execBlut d a b s
  | .bshuf d a b => Sys2Proof.Machine.execBshuf d a b s
  | .bcmpEq d a b => Sys2Proof.Machine.execBcmpEq d a b s
  | .bcmpLt d a b => Sys2Proof.Machine.execBcmpLt d a b s
  | .bcmpLtu d a b => Sys2Proof.Machine.execBcmpLtu d a b s
  | .baddsI8 d a b => Sys2Proof.Machine.execBaddsI8 d a b s
  | .baddsN8 d a b => Sys2Proof.Machine.execBaddsN8 d a b s
  | .lshc d a b f => Sys2Proof.Machine.execLshc d a b f s
  | .xperm d a b => Sys2Proof.Machine.execXperm d a b s
  | .vscan d a f => Sys2Proof.Machine.execVscan d a f s
  | .vred d a f => Sys2Proof.Machine.execVred d a f s
  | .fadd d a b f => Sys2Proof.Machine.execFadd d a b f s
  | .fsub d a b f => Sys2Proof.Machine.execFsub d a b f s
  | .fmul d a b f => Sys2Proof.Machine.execFmul d a b f s
  | .fma d a b f => Sys2Proof.Machine.execFma d a b f s
  | .fmin d a b => Sys2Proof.Machine.execFmin d a b s
  | .fmax d a b => Sys2Proof.Machine.execFmax d a b s
  | .fcmp d a b => Sys2Proof.Machine.execFcmp d a b s
  | .fdiv d a b f => Sys2Proof.Machine.execFdiv d a b f s
  | .fsqrt d a f => Sys2Proof.Machine.execFsqrt d a f s
  | .frcp d a f => Sys2Proof.Machine.execFrcp d a f s
  | .frsq d a f => Sys2Proof.Machine.execFrsq d a f s
  | .fexp2 d a f => Sys2Proof.Machine.execFexp2 d a f s
  | .flog2 d a f => Sys2Proof.Machine.execFlog2 d a f s
  | .fsin d a f => Sys2Proof.Machine.execFsin d a f s
  | .fcos d a f => Sys2Proof.Machine.execFcos d a f s
  | .fclass d a => Sys2Proof.Machine.execFclass d a s
  | .cvt d a dt f => Sys2Proof.Machine.execCvt d a dt f s
  | .xsum data base index scale disp6 => Sys2Proof.Machine.execXsum data base index scale disp6 s
  | .sumrd data base index scale disp6 => Sys2Proof.Machine.execSumrd data base index scale disp6 s
  | .ldg data base index scale disp6 => Sys2Proof.Machine.execLdg data base index scale disp6 s
  | .ldgF data base index scale disp6 => Sys2Proof.Machine.execLdgF data base index scale disp6 s
  | .stg data base index scale disp6 => Sys2Proof.Machine.execStg data base index scale disp6 s
  | .ldk data base scale disp6 => Sys2Proof.Machine.execLdk data base scale disp6 s
  | .pref base index scale disp6 => Sys2Proof.Machine.execPref base index scale disp6 s
  | .ldp data base index scale disp6 => Sys2Proof.Machine.execLdp data base index scale disp6 s
  | .stp data base index scale disp6 => Sys2Proof.Machine.execStp data base index scale disp6 s
  | .atomg d areg b f => Sys2Proof.Machine.execAtomg d areg b f s
  | .atomp d areg b f => Sys2Proof.Machine.execAtomp d areg b f s
  | .atomr d areg b f => Sys2Proof.Machine.execAtomr d areg b f s
  | .cpy d a b ch => Sys2Proof.Machine.execCpy d a b ch s
  | .cpyi d a b ch => Sys2Proof.Machine.execCpyi d a b ch s
  | .cseal => Sys2Proof.Machine.execCseal s
  | .cwait b => Sys2Proof.Machine.execCwait b s
  | .pempty a b => Sys2Proof.Machine.execPempty a b s
  | .fence => Sys2Proof.Machine.execFence s
  | .barinit a b => Sys2Proof.Machine.execBarinit a b s
  | .bararr d a => Sys2Proof.Machine.execBararr d a s
  | .barwait a b => Sys2Proof.Machine.execBarwait a b s
  | .barinv a => Sys2Proof.Machine.execBarinv a s
  | .semw d a b => Sys2Proof.Machine.execSemw d a b s
  | .sems a b => Sys2Proof.Machine.execSems a b s
  | .tlbinv a b => Sys2Proof.Machine.execTlbinv a b s
  | .sendq d a b => Sys2Proof.Machine.execSendq d a b s
  | .recvq d a => Sys2Proof.Machine.execRecvq d a s
  | .padopen win rights a b => Sys2Proof.Machine.execPadopen win rights a b s
  | .poolset d src dst b f3 => Sys2Proof.Machine.execPoolset d src dst b f3 s
  | .poolq d src dst => Sys2Proof.Machine.execPoolq d src dst s
  | .mma tile ka kb fmt step => Sys2Proof.Machine.execMma tile ka kb fmt step s
  | .mmas tile ka kb fmt step => Sys2Proof.Machine.execMmas tile ka kb fmt step s
  | .mzero tile i32 => Sys2Proof.Machine.execMzero tile i32 s
  | .mload tile ka i32 => Sys2Proof.Machine.execMload tile ka i32 s
  | .mdrain tile ka flags => Sys2Proof.Machine.execMdrain tile ka flags s
  | .mseal => Sys2Proof.Machine.execMseal s
  | .mwait flags => Sys2Proof.Machine.execMwait flags s
  | .epload tile ka => Sys2Proof.Machine.execEpload tile ka s
  | .rset d a b ch => Sys2Proof.Machine.execRset d a b ch s
  | .rast d a bw bp => Sys2Proof.Machine.execRast d a bw bp s
  | .travset d bpair => Sys2Proof.Machine.execTravset d bpair s
  | .travRay d a bpair bp => Sys2Proof.Machine.execTravRay d a bpair bp s
  | .travBox d a bpair bp => Sys2Proof.Machine.execTravBox d a bpair bp s
  | .fbload dch a b => Sys2Proof.Machine.execFbload dch a b s
  | .fbstore dch a b => Sys2Proof.Machine.execFbstore dch a b s
  | .fbdone a b => Sys2Proof.Machine.execFbdone a b s
  | .vtest pd pa b f => Sys2Proof.Machine.execVtest pd pa b f s
  | .fbw d pa b f => Sys2Proof.Machine.execFbw d pa b f s
  | .vsplit wd wr pa => Sys2Proof.Machine.execVsplit wd wr pa s
  | .vends d pa => Sys2Proof.Machine.execVends d pa s
  | .vmask pd pa b => Sys2Proof.Machine.execVmask pd pa b s
  | .vagree gwd gws gt gva gvb => Sys2Proof.Machine.execVagree gwd gws gt gva gvb s
  | .vhalve wd wr pa => Sys2Proof.Machine.execVhalve wd wr pa s
  | .xpfx kind payload => Sys2Proof.Machine.execXpfx kind payload s
  | .parkedTractServe core => Sys2Proof.Machine.execParkedTractServe core s
  | .pendingPieceStart ctx => Sys2Proof.Machine.execPendingPieceStart ctx s
  | .rjoinWaitExpire ctx => Sys2Proof.Machine.execRjoinWaitExpire ctx s
  | .versionCommit task => Sys2Proof.Machine.execVersionCommit task s
  | .standSpill core => Sys2Proof.Machine.execStandSpill core s
  | .spillReturn core => Sys2Proof.Machine.execSpillReturn core s
  | .clearingComplete core => Sys2Proof.Machine.execClearingComplete core s
  | .waitLimitExpire ctx pathNo => Sys2Proof.Machine.execWaitLimitExpire ctx pathNo s
  | .semwWaitLimit ctx pathNo => Sys2Proof.Machine.execSemwWaitLimit ctx pathNo s
  | .yieldHoldExpire ctx pathNo => Sys2Proof.Machine.execYieldHoldExpire ctx pathNo s
  | .bankPortUrgent ctx => Sys2Proof.Machine.execBankPortUrgent ctx s
  | .homeLoad n => Sys2Proof.Machine.execHomeLoad n s
  | .homeStore n => Sys2Proof.Machine.execHomeStore n s
  | .homeAtomic n => Sys2Proof.Machine.execHomeAtomic n s
  | .copyStart core ch n => Sys2Proof.Machine.execCopyStart core ch n s
  | .copyComplete core ch => Sys2Proof.Machine.execCopyComplete core ch s
  | .matrixOpExecute core n => Sys2Proof.Machine.execMatrixOpExecute core n s
  | .drainExecute core n => Sys2Proof.Machine.execDrainExecute core n s
  | .inboxMessageArrive n => Sys2Proof.Machine.execInboxMessageArrive n s
  | .atomrExecute n => Sys2Proof.Machine.execAtomrExecute n s
  | .preemptRequest task => Sys2Proof.Machine.execPreemptRequest task s
  | .preemptDeferTimeout task => Sys2Proof.Machine.execPreemptDeferTimeout task s
  | .contextSave task => Sys2Proof.Machine.execContextSave task s
  | .contextRestore task core => Sys2Proof.Machine.execContextRestore task core s
  | .selfTestComplete core unit lasting residue ctx => Sys2Proof.Machine.execSelfTestComplete core unit lasting residue ctx s
  | .pageWalk core part va write => Sys2Proof.Machine.execPageWalk core part va write s
  | .trackerEpochEnd => Sys2Proof.Machine.execTrackerEpochEnd s
  | .swapLineMove pair bad => Sys2Proof.Machine.execSwapLineMove pair bad s
  | .regload resv arg0 arg1 seq => Sys2Proof.Machine.execRegload resv arg0 arg1 seq s
  | .regfree resv arg0 arg1 seq => Sys2Proof.Machine.execRegfree resv arg0 arg1 seq s
  | .qset resv arg0 arg1 seq => Sys2Proof.Machine.execQset resv arg0 arg1 seq s
  | .qstop resv arg0 arg1 seq => Sys2Proof.Machine.execQstop resv arg0 arg1 seq s
  | .semset resv arg0 arg1 seq => Sys2Proof.Machine.execSemset resv arg0 arg1 seq s
  | .hostSlotWrite q rec => Sys2Proof.Machine.execHostSlotWrite q rec s
  | .launchDequeue => Sys2Proof.Machine.execLaunchDequeue s
  | .launchSemaphoreWait serial => Sys2Proof.Machine.execLaunchSemaphoreWait serial s
  | .piecePlacement die => Sys2Proof.Machine.execPiecePlacement die s
  | .completionRecordWrite serial => Sys2Proof.Machine.execCompletionRecordWrite serial s
  | .dieResetOrderly die => Sys2Proof.Machine.execDieResetOrderly die s
  | .dieResetUnplanned die => Sys2Proof.Machine.execDieResetUnplanned die s
  | .dieResetReturn die => Sys2Proof.Machine.execDieResetReturn die s
  | .moduleReset => Sys2Proof.Machine.execModuleReset s
  | .bringupRom ok => Sys2Proof.Machine.execBringupRom ok s
  | .bringupFw ok => Sys2Proof.Machine.execBringupFw ok s
  | .bringupConfig image sigOk => Sys2Proof.Machine.execBringupConfig image sigOk s
  | .bringupMemory ok => Sys2Proof.Machine.execBringupMemory ok s
  | .bringupDies ok => Sys2Proof.Machine.execBringupDies ok s
  | .bringupHost ok => Sys2Proof.Machine.execBringupHost ok s
  | .configRecordLoad image sigOk => Sys2Proof.Machine.execConfigRecordLoad image sigOk s
  | .rootRegisterSet part val => Sys2Proof.Machine.execRootRegisterSet part val s
  | .capabilityRegisterSet part val => Sys2Proof.Machine.execCapabilityRegisterSet part val s
  | .attestationRequest part nonce => Sys2Proof.Machine.execAttestationRequest part nonce s
  | .hostMemWrite pa data => Sys2Proof.Machine.execHostMemWrite pa data s
  | .hostMemRead pa size => Sys2Proof.Machine.execHostMemRead pa size s
  | .backInvalidateResponse n => Sys2Proof.Machine.execBackInvalidateResponse n s
  | .droopReport die steps => Sys2Proof.Machine.execDroopReport die steps s
  | .clockStepRise die => Sys2Proof.Machine.execClockStepRise die s
  | .sagCounterClear die val => Sys2Proof.Machine.execSagCounterClear die val s
  | .trackerControlWrite part val => Sys2Proof.Machine.execTrackerControlWrite part val s
  | .registerWrite part reg val => Sys2Proof.Machine.execRegisterWrite part reg val s
  | .pendingHorizonGuardReached ctx pathNo => Sys2Proof.Machine.execPendingHorizonGuardReached ctx pathNo s
  | .powerLoss => Sys2Proof.Machine.execPowerLoss s
  | .hostLineAccess pa data write => Sys2Proof.Machine.execHostLineAccess pa data write s

end Sys2Proof.Machine
end

