-- ==== Sys2Proof/Machine/Turn.lean ====
section
/-! DEFINITION. A turn taken (R206, R341; log entries 2 and 3): the words of a chain, which path is ready, the default order, and the time
that goes on with its commits. -/

namespace Sys2Proof.Machine

/-! ## The words of a chain -/

/-- After a word the path under issue stands at a further word of the same chain, and waits for nothing. -/
def goesOn (s t : State) : Bool :=
  t.me.kind != .idle && t.me.id == s.me.id && t.me.path.id == s.me.path.id && t.me.path.wait == .none
    && match s.me.path.run, t.me.path.run with
      | some (j, _ :: a :: l), some (k, b :: m) => j == k && (a :: l) == (b :: m)
      | _, _ => false

/-- The words of a path's chain, one after the other in one step (R206), at most `n` of them: until one waits, or the chain is over. -/
def runWords : Nat → State → Host.Outcome State Fault Refusal
  | 0, s => .next s
  | n + 1, s =>
    match prepare s with
    | .done t => .next t
    | .word i u =>
      match exec i u with
      | .next t => if goesOn u t then runWords n t else .next t
      | o => o

/-! ## Ready paths (R29, R372) -/

/-- A path of a context stalls. -/
def stallsAt (s : State) (ctx path : Nat) : Bool := (stallOf s ctx path).isSome

/-- A path is ready: it waits for nothing, or its stalled word, tried now, would stall no more. -/
def readyPath (s : State) (c : Context) (p : Path) : Bool :=
  match p.wait with
  | .none => true
  | .stall _ _ =>
    let u := focus s c.id
    match runWords 1 { u with me := focusPath u.me p.id } with
    | .next t => !stallsAt t c.id p.id
    | _ => true
  | _ => false

/-! ## Turns -/

/-- The first step of a list that changes the state. -/
def firstMove : List Instr → State → Option (Host.Outcome State Fault Refusal)
  | [], _ => none
  | i :: rest, s =>
    match exec i s with
    | .next t => if unmoved s t then firstMove rest s else some (.next t)
    | o => some o

/-- A path's turn: its chain's words. One that cannot issue passes. -/
def runPath (s : State) (ctx path n : Nat) : Host.Outcome State Fault Refusal :=
  match selectPath s (readyPath s) ctx path with
  | none => .next s
  | some u => runWords n u

/-- The words a chain has at most (R205). -/
def chainMax : Nat := 3

/-- A turn taken: an event, the next chain of a path, its chain with at most so many lanes of a VTEST or FBW in it (R341), a fault of
the hardware, or the release of a signature. -/
def runTurn (t : Turn) (s : State) : Host.Outcome State Fault Refusal :=
  match t with
  | .event i => exec i s
  | .issue ctx path => runPath s ctx path chainMax
  | .lanes ctx path n =>
    match runPath { s with cut := some n } ctx path chainMax with
    | .next t => .next { t with cut := none }
    | o => o
  | .strike e => .next (strikeAt e s)
  | .sign => .next (releaseReport s)

/-- Canopy time goes on by one step; the commits whose times have come take place (R108), self-tests begin (R397), and the device's own
writes go on (log entry 96). -/
def tick (s : State) : State :=
  let s := beginTests (commitsDue { s with time := s.time + s.pace })
  drainPosted s.dev.posted s

/-- A step in the default order: a signature to release, else a due event, else the next path, else time alone. -/
def defaultTurn (s : State) : Host.Outcome State Fault Refusal :=
  if s.dev.signing.isSome then .next (releaseReport s)
  else match firstMove (dueEvents s) s with
  | some o => o
  | none => match nextIssue s (readyPath s) with | some q => runTurn (.issue q.1 q.2) s | none => .next s

end Sys2Proof.Machine
end

