-- ==== Sys2Proof/Machine/Step.lean ====
section
/-! DEFINITION. One step of the machine: a turn of the agenda, or of the default order of Machine/Sched.lean (log entries 1 to
3), and the state in which the next step runs a given word. -/

namespace Sys2Proof.Machine

/-- One step. Without supply a module reset alone acts (R415, R420). -/
def step (s : State) : Host.Outcome State Fault Refusal :=
  if s.power then
    match s.agenda with
    | t :: rest => runTurn t (tick { s with agenda := rest })
    | [] => defaultTurn (tick s)
  else match s.agenda with
    | .event .moduleReset :: rest => exec .moduleReset { s with agenda := rest }
    | _ => .fault .powerOff

/-- The code base that `State.withFetchWord` uses. -/
def fetchBase : Nat := 0x1000

/-- A readable and executable near page of a partition at its own address. -/
def fetchEntry (part : Nat) : TlbEntry := ⟨part, 1, 12, BitVec.ofNat 64 (0x10DF + part % 64 * 2 ^ 57)⟩

/-- The context that runs the word: the one under issue, or a new stand over one window. -/
def fetchContext (s : State) : Context :=
  let c := if s.me.kind = .idle then
      { Context.idle with
        id := s.nextCtx, kind := .stand, file := some (0, 0), box := ⟨0, 64, 0, 1, 0, 1⟩
        path := Path.start 0 0 0xFFFF_FFFF_FFFF_FFFF }
    else s.me
  { c with
    task := if s.me.kind = .idle then s.nextCtx else c.task
    kind := if c.kind = .stand then .stand else .tract
    frame := none
    test := none
    path := { c.path.settled with pc := 0, slot := 0, held := none } }

/-- Its task, with its code at `fetchBase`. -/
def fetchTask (s : State) : Task :=
  let t := if s.me.kind = .idle then
      { Task.none with tid := s.nextCtx, core := s.core.id, box := ⟨0, 64, 0, 1, 0, 1⟩, fsize := 2, views := true }
    else s.task
  { t with code := fetchBase, phase := .running, commitAt := none }

/-- The state whose next step fetches and runs a table word of `nbits` bits: a context with its code in memory, a translation
of the code's page, and its turn (log entry 6). -/
def State.withFetchWord (s : State) (nbits w : Nat) : State :=
  let c := fetchContext s
  let t := fetchTask s
  { s with
    power := true
    cut := none
    agenda := [.issue c.id c.path.id]
    nextCtx := if s.me.kind = .idle then s.nextCtx + 1 else s.nextCtx
    me := c
    task := t
    core := { s.core with tlb := fetchEntry t.part :: s.core.tlb, clearing := none }
    lines := s.lines.filter fun h => h.line != lineOf (placeOf s fetchBase)
    dev := { s.dev with
      cfg := { s.dev.cfg with capPa := if s.dev.cfg.capPa / 4096 = 1 then 0 else s.dev.cfg.capPa }
      badLines := s.dev.badLines.filter fun l => l != lineOf (placeOf s fetchBase) }
    mem := s.mem.setBytes (placeOf s fetchBase) (bytesLE 12 (w % 2 ^ nbits)) }

end Sys2Proof.Machine
end

