-- ==== Sys2Proof/Safety.lean ====
section
/-! DEFINITION. What counts as a safe run, in the terms of the claims: the form of every memory, and steps that stop only
for want of supply. -/

namespace Sys2Proof

open Machine

/-- An overlay lists its addresses rising. -/
def cellsFrom : Nat → List Host.Cell → Bool
  | _, [] => true
  | lo, (a, _) :: m => lo ≤ a && cellsFrom (a + 1) m

/-- The canonical form of a version overlay or of the backing bytes. -/
def cellsRise (m : List Host.Cell) : Bool := cellsFrom 0 m

/-- Global memory is in canonical form, and the bytes under modified lines are listed in order. -/
def memorySafe (s : State) : Bool := s.mem.wf && cellsRise s.backing

/-- Every task the state holds: on a core, waiting for a restart, or saved. -/
def everyTask (s : State) : List Task := s.task :: s.tasks ++ s.dev.waiting ++ s.dev.saved.map fun v => v.task

/-- Memory and the pad of every task are in canonical form. -/
def Formed (s : State) : Prop := s.mem.wf = true ∧ ∀ t ∈ everyTask s, t.pad.wf = true

/-- A step is safe when it answers a next state, or stops because the module has no supply. -/
def stepSafe (o : Host.Outcome State Fault Refusal) : Bool :=
  match o with
  | .next _ => true
  | .fault .powerOff => true
  | .refused _ => false

/-- A run of `k` steps whose states keep the form of memory. -/
def runSafe : Nat → State → Bool
  | 0, s => memorySafe s
  | k + 1, s => memorySafe s && match step s with | .next t => runSafe k t | _ => true

/-! ## The terms of the claims about words -/

/-- The path after a word that is not the last of its chain's words: the next one follows; after the last the chain has ended
(R205). -/
def stepPast (p : Path) : Path :=
  match p.run with
  | some (k, _ :: c :: rest) => { p with run := some (k, c :: rest), lead := Lead.none, wait := .none }
  | _ => p.settled

/-- A state whose word under issue is over, with nothing else changed. -/
def past (s : State) : State := { s with me := { s.me with path := stepPast s.me.path } }

/-- A state after a word that changes registers of its context alone: all else stands, memory, every other context, every task,
core and device among it. -/
def wrote (s : State) (r : Regs) : State := { s with me := { s.me with regs := r, path := stepPast s.me.path } }

/-- A state whose word under issue is over and whose path goes on at a packet after its chain (R230). -/
def moved (s : State) (target : BitVec 32) : State :=
  { s with me := { s.me with path := stepPast { s.me.path with pc := target, slot := 0 } } }

/-- A word issues: it passes the issue checks of R218, its context need not materialise for it (R14), no error of the hardware meets it
(R69, R70), and no word of its chain has raised a trap or written a new seed (R228). -/
def Issues (i : Instr) (s : State) : Prop :=
  issueTrap i s = none ∧ materialises s i = false ∧ unitError i s = none ∧ s.me.path.pend = none ∧ s.me.path.reseed = false

/-- Registers with lanes of a v register written under a mask, and its tag; their residues are made anew (R69). -/
def vInto (r : Regs) (mask : Word64) (d : Nat) (t : Tag) (val : Nat → Word32) : Regs :=
  { r with
    v := vset r.v d ⟨vmask (vget r.v d VReg.fresh).lanes mask val, t⟩
    errV := r.errV.filter fun e => !(e.1 == d && mask.getLsbD e.2.1) }

/-- The registers with the lanes of p0 of a v register written, and its tag. -/
def lanesInto (s : State) (d : Nat) (t : Tag) (val : Nat → Word32) : Regs := vInto s.me.regs s.me.path.mask d t val

/-- The registers with an a-register, named by its operand code, written with its parity (R69). -/
def formInto (s : State) (d : BitVec 7) (f : AReg) : Regs :=
  { s.me.regs with
    a := vset s.me.regs.a (d.toNat - 64) f
    errA := s.me.regs.errA.filter fun k => k != d.toNat - 64 }

/-- The registers with the bits of p0 of a p register written, with its parity (R69). -/
def predInto (s : State) (n : Nat) (m : Word64) : Regs :=
  { s.me.regs with
    p := vset s.me.regs.p n ((vget s.me.regs.p n 0 &&& ~~~s.me.path.mask) ||| (m &&& s.me.path.mask))
    errP := s.me.regs.errP.filter fun k => k != n }

/-- The form that lane results make over the stand, each extended by the result's type (R24). -/
def laneForm (s : State) (t : Tag) (signed : Bool) (val : Nat → Word32) : Option AReg :=
  formOfLanes s.me s.me.path.mask t fun l => if signed then (val l).signExtend 64 else (val l).setWidth 64

/-- A word delivers a 32-bit result per lane (R24, R64, R260): into the lanes of p0 of a v register; into an a-register as a
form, with trap 0x04 where the results are none. -/
def Delivers (i : Instr) (s : State) (d : BitVec 7) (t : Tag) (signed : Bool) (val : Nat → Word32) : Prop :=
  (isA d = false → exec i s = .next (wrote s (lanesInto s d.toNat t val)))
  ∧ (isA d = true → ∀ f, laneForm s t signed val = some f → exec i s = .next (wrote s (formInto s d f)))
  ∧ (isA d = true → laneForm s t signed val = none → exec i s = .next (wordTrap s (trapHere s 0x04 0)))

/-- The registers with a group of v registers written in the lanes of p0, each with the next 32 bits of a packed value (R59,
R282). -/
def groupInto (s : State) (t : Tag) : (Nat → Nat) → Nat → Nat → Regs → Regs
  | _, _, 0, r => r
  | val, reg, n + 1, r =>
    groupInto s t (fun l => val l / 2 ^ 32) (reg + 1) n
      (vInto r s.me.path.mask reg t fun l => BitVec.ofNat 32 (val l))

/-- The flags that the active lanes of a word raise, joined (R84). -/
def flagsOf (s : State) (flags : Nat → Nat) : Nat :=
  (lanesOf s.me.path.mask).foldl (fun acc l => orFlags acc (flags l)) 0

/-- Registers with flags joined into FLG, bits 12 to 16 of the mode register (R81, R84). -/
def flagged (r : Regs) (flags : Nat) : Regs := { r with mode := r.mode ||| BitVec.ofNat 64 (flags % 32 * 2 ^ 12) }

/-- No active lane of a word raises a flag whose trap is enabled (R84). -/
def NoneEnabled (s : State) (flags : Nat → Nat) : Prop :=
  ∀ l ∈ lanesOf s.me.path.mask, flags l &&& modeTen (readRegs s).mode = 0

/-- An active lane is the lowest to raise an enabled flag. -/
def FirstEnabled (s : State) (flags : Nat → Nat) (l : Nat) : Prop :=
  (lanesOf s.me.path.mask).find? (fun k => flags k &&& modeTen (readRegs s).mode != 0) = some l

/-- A word ends as a floating-point word does (R80, R84, R261): where no lane raises an enabled flag, the results are written, a
group of registers or a form, the LFSRs of the lanes of p0 are the results' and the flags enter FLG; where one does, trap 0x10 in the
lowest, the flags alone written; a destination form that the results do not make traps first, with 0x04. -/
def FloatEnds (i : Instr) (s : State) (res : Nat → LaneRes) (d : BitVec 7) (n : Nat) (t : Tag) (signed : Bool) : Prop :=
  (isA d = false → NoneEnabled s (fun l => (res l).flags) →
    exec i s = .next (wrote s (flagged { groupInto s t (fun l => (res l).val) d.toNat n s.me.regs with
      lfsr := vmask s.me.regs.lfsr s.me.path.mask fun l => (res l).lfsr } (flagsOf s fun l => (res l).flags))))
  ∧ (isA d = true → NoneEnabled s (fun l => (res l).flags) →
    ∀ f, laneForm s t signed (fun l => BitVec.ofNat 32 (res l).val) = some f →
    exec i s = .next (wrote s (flagged { formInto s d f with
      lfsr := vmask s.me.regs.lfsr s.me.path.mask fun l => (res l).lfsr } (flagsOf s fun l => (res l).flags))))
  ∧ (isA d = true → laneForm s t signed (fun l => BitVec.ofNat 32 (res l).val) = none →
    exec i s = .next (wordTrap s (trapHere s 0x04 0)))
  ∧ (∀ l, FirstEnabled s (fun l => (res l).flags) l →
    (isA d = true → (laneForm s t signed fun l => BitVec.ofNat 32 (res l).val).isSome = true) →
    exec i s = .next (wordTrap { s with me := { s.me with regs := flagged s.me.regs (flagsOf s fun l => (res l).flags) } }
      (trapLane 0x10 (res l).flags (wordAddr s) l)))

/-- No home is shut: no die is in reset, no commit is being placed, and no line of memory has an uncorrectable error (R182, R389,
R406). -/
def HomesOpen (s : State) : Prop :=
  s.dev.dieDown = Vector.replicate 4 none ∧ (∀ t ∈ s.task :: s.tasks, t.commitAt = none) ∧ s.dev.badLines = []

/-- No access waits for a request of its own on its way, for a home, or for a time (R185, R311). -/
def Quiet (s : State) : Prop := s.flight = [] ∧ HomesOpen s ∧ s.me.loadAfter ≤ myTime s

/-- What a word that reads memory leaves, beside what its translations and its homes keep: the registers given, the word over, and
every byte of memory, request, context, other task, handler frame, cause register and pad byte as it was. -/
structure ReadsOnly (s q t : State) (r : Regs) : Prop where
  regs : t.me.regs = r
  path : t.me.path = stepPast s.me.path
  mem : t.mem = q.mem
  flight : t.flight = s.flight
  ctxs : t.ctxs = s.ctxs
  tasks : t.tasks = s.tasks
  frame : t.me.frame = s.me.frame
  cause : t.me.cause = s.me.cause
  pad : t.task.pad = s.task.pad
  version : t.task.vlines = s.task.vlines

/-- A stand made of a tract for a window piece (R19, R20, R22): the window's items in their row, the piece's own lanes active, the forms
folded into the row, the value forms expanded over all 64 lanes, the other v registers 0 with tag 15, the p registers 0, no m register
bound, and one path, at the tract's word. -/
structure StandOf (c : Context) (b : Nat × Nat × Nat) (t : Context) : Prop where
  kind : t.kind = .stand
  box : t.box = ⟨b.2.2 / 64 * 64, b.2.2 / 64 * 64 + 64, b.2.1, b.2.1 + 1, b.1, b.1 + 1⟩
  mask : ∀ l, l < 64 → t.path.mask.getLsbD l =
    decide (b.2.2 ≤ b.2.2 / 64 * 64 + l ∧ b.2.2 / 64 * 64 + l < pieceEnd c.box c.seams b.2.2)
  path : t.path.pc = c.path.pc ∧ t.path.slot = c.path.slot ∧ t.path.run = c.path.run ∧ t.path.lead = c.path.lead ∧ t.path.ret = c.path.ret
  alone : t.paths = [] ∧ t.recs = []
  forms : ∀ k x y z, formAt (aReg t.regs k) x y z = formAt (aReg c.regs k) x b.2.1 b.1
  tags : ∀ k, (aReg t.regs k).tag = (aReg c.regs k).tag ∧ (aReg t.regs k).sx = (aReg c.regs k).sx
  values : ∀ f ∈ c.regs.vforms, (∀ g ∈ c.regs.vforms, g.reg = f.reg → g = f) → f.reg < 64 → vTag t.regs f.reg = f.tag
    ∧ ∀ l, l < 64 → vLane t.regs f.reg l = f.base + f.slope * BitVec.ofNat 32 (b.2.2 / 64 * 64 + l)
  others : ∀ r, r < 64 → (∀ f ∈ c.regs.vforms, f.reg ≠ r) → vget t.regs.v r VReg.fresh = VReg.fresh
  preds : t.regs.p = Vector.replicate 8 0
  tiles : ∀ m ∈ t.regs.m.toList, m.bank = none
  keeps : t.regs.mode = c.regs.mode ∧ t.regs.xc = c.regs.xc ∧ t.regs.budget = c.regs.budget ∧ t.horizon = c.horizon ∧ t.task = c.task

/-- A part of an access is of device or host memory, of a line under the task's own key (R294, R407), outside the capability page
(R417). -/
def Plain (q : State) (p : Part) : Prop :=
  paKind p.pa ≠ some .mmio ∧ sealed q q.task.part (placeOf q p.pa) = false ∧ inCapPage q p.pa = false

/-- The value that bytes hold for the task under issue: its version bytes over those of memory (R107). -/
def heldAt (q : State) (pa n : Nat) : Nat := ofBytesLE (overlay q.task.vlines pa (q.mem.getBytes (placeOf q pa) n))

/-- The registers after a load of values of a type: a pair for 8 bytes, each value extended to its register else (R289). -/
def loadedInto (s : State) (reg t size : Nat) (val : Nat → Nat) : Regs :=
  if size = 8 then groupInto s (typeTag t) val reg 2 s.me.regs
  else groupInto s (if size < 4 then .int32 else typeTag t) (fun l => extended t size (val l)) reg 1 s.me.regs

/-- Memory after bytes are written at an address: those bytes there, and every other byte as before. -/
def WritesAt (m n : Memory) (a : Nat) (bytes : List Byte) : Prop :=
  ∀ b, n.get b = if a ≤ b ∧ b < a + bytes.length then bytes.getD (b - a) 0 else m.get b

/-- The registers with a run of v registers written, each with one word in every lane of p0 and tag 0 (R309). -/
def wordsInto (s : State) : Nat → List Word32 → Regs → Regs
  | _, [], r => r
  | reg, w :: ws, r =>
    wordsInto s (reg + 1) ws (vInto r s.me.path.mask reg .raw fun _ => w)

/-- Bytes of the pad that the elected lane may read and write now: aligned and within it, no line empty, none moving, none
that a matrix operation is still to read, none that a waiter is to be served first, and no uncorrectable error (R45, R52, R55, R56, R70,
R139). -/
def PadReady (s : State) (off n : Nat) : Prop :=
  padTrap s.task off n (electedLane s) = none ∧ emptyIn s.task off n (electedLane s) = [] ∧ s.core.clearing = none ∧ s.core.matq = []
    ∧ s.task.badPad = [] ∧ ∀ k, servedFirst s s.task k = false

/-- A view interval settled (R158): the mask given, and a header whose V0 and V1 are the mask's lowest and highest views, whose ANCHOR
is V0 up to rate 3 and else between the two, all 0 for an empty mask, and whose other bits are those given. -/
structure Settled (m h : Word64) (y : Word64 × Word64) : Prop where
  mask : y.1 = m
  rest : ∀ k, 18 ≤ k → k < 64 → y.2.getLsbD k = h.getLsbD k
  empty : m = 0 → headFirst y.2 = 0 ∧ headLast y.2 = 0 ∧ headAnchor y.2 = 0
  first : m ≠ 0 → m.getLsbD (headFirst y.2) = true ∧ ∀ v, v < headFirst y.2 → m.getLsbD v = false
  last : m ≠ 0 → m.getLsbD (headLast y.2) = true ∧ ∀ v, headLast y.2 < v → m.getLsbD v = false
  anchor : m ≠ 0 → headAnchor y.2 = if headRate h ≤ 3 then headFirst y.2 else (headFirst y.2 + headLast y.2) / 2

/-- A state whose context has other registers. -/
def onRegs (s : State) (r : Regs) : State := { s with me := { s.me with regs := r } }

/-- The registers with a w register written in the lanes of p0: its masks, of tag 14, in two v registers, and its headers
(R330). -/
def viewsInto (s : State) (w : Nat) (val : Nat → Word64 × Word64) (r : Regs) : Regs :=
  { groupInto s .view (fun l => (val l).1.toNat) (48 + 2 * w) 2 r with
    w := vset r.w w (vmask (vget r.w w (Vector.replicate 64 0)) s.me.path.mask fun l => (val l).2) }

end Sys2Proof
end

