-- ==== Sys2Proof/WellFormed.lean ====
section
/-! DEFINITION. Which instructions the encoding can hold: the operand rules of R211 and R217 that a word carries in
itself. The rules that depend on the leading words of the chain, the register-file size or the values of operands are
the machine's (trap 0x01 in its steps). -/

namespace Sys2Proof

/-- An instruction whose operand fields name what their positions accept (R217, R225). -/
def Instr.WellFormed (i : Instr) : Prop := operandsOk i = true

/-- An instruction that is a word of code, not a step of another agent. -/
def Instr.isWord (i : Instr) : Bool := (encode 1#1 i).isSome

end Sys2Proof
end

