-- ==== Sys2Proof/Certificates/Slice0/Obligations.lean ====
section
/-! DEFINITION. The statements about this model, for the provers. The terms they share stand in Sys2Proof/Safety.lean. -/

set_option autoImplicit false

open Sys2Proof Sys2Proof.Machine

/-! ## Encoding, the step, reset -/

/-- Every word of a well-formed instruction decodes to that instruction, with every operand at every value its encoding admits and
either chain bit (R204, R205, R210 to R215). -/
def Obligations.DecodeOfEncode : Prop :=
  ∀ (i : Instr) (c : BitVec 1) (w : Word32), i.WellFormed → encode c i = some w → decodeWord w = .ok i

/-- Words that the spec writes out (worked encodings, R245 to R341) decode to the instructions it gives them; a reserved major
opcode decodes to none (R217). -/
def Obligations.WordsDecode : Prop :=
  decodeWord 0x0D0A1040#32 = .ok (.aaddi 66#7 66#7 64#11)
  ∧ decodeWord 0x0104000A#32 = .ok (.idx 65#7 0#7)
  ∧ decodeWord 0x0247FFFD#32 = .ok (.loop 7#5 0xFFFD#16)
  ∧ decodeWord 0x46104090#32 = .ok (.fma 4#7 8#7 9#7 0#4)
  ∧ decodeWord 0x34301D40#32 = .ok (.blut 12#7 3#7 84#7)
  ∧ decodeWord 0x64103057#32 = .ok (.atomg 4#7 6#5 5#7 7#4)
  ∧ decodeWord 0x6D52C040#32 = .ok (.poolset 84#7 5#3 4#3 4#7 0#3)
  ∧ decodeWord 0x742C0021#32 = .ok (.mdrain 0#3 88#7 1#4)
  ∧ decodeWord 0x78521814#32 = .ok (.rast 20#7 67#7 0#3 1#3)
  ∧ decodeWord 0x1E000000#32 = .error .majorUnassigned

/-- A step whose turn is a path's runs the words of the path's chain: each word is the one at its slot of the chain's packet, and it
has the effect of the instruction it decodes to; the next word of the chain runs on in the same step where the word before it has gone on
to it (R204, R205, R206). A transfer that divides its path lets a trap of its chain go first, and one issued again reads the registers it
would have read at first (R200, R218), and a word that waits for another of its context sent before it has no effect yet (R184, R196, R262).
The packet of a chain is the one its path's last chain came from, as it was fetched, or the next one, fetched at the PC (R204, R209). Where
the path is between chains and the next one is a single word, the path moves past the chain, and the step is the instruction's own meaning
with the chain under issue. Before the words canopy time goes on by the step's pace, and the commits then due take place (R108). The pace,
the order within a chain and what divides a path are the model's (log entries 1, 3 and 8). -/
def Obligations.StepRunsFetchedWord : Prop :=
  (∀ (s u : State) (ctx path : Nat) (rest : List Turn), s.power = true → s.agenda = .issue ctx path :: rest →
    selectPath (tick { s with agenda := rest }) (readyPath (tick { s with agenda := rest })) ctx path = some u →
    step s = runWords 3 u)
  ∧ (∀ (s v u t : State) (n : Nat) (packet : BitVec 32) (slot : Nat) (more : List Nat) (w : Word32) (i : Instr),
    s.me.path.run = some (packet, slot :: more) → chainWord s packet slot = .ok (v, w) → decodeWord w = .ok i →
    u = (match s.me.path.first with
      | some r => if transfers i then { v with me := { v.me with path := { v.me.path with snap := some r } } } else v
      | none => v) →
    (transfers i = true → divides i u = true → s.me.path.pend = none) → heldBack u i = none → exec i u = .next t →
    (goesOn u t = false → runWords (n + 1) s = .next t) ∧ (goesOn u t = true → runWords (n + 1) s = runWords n t))
  ∧ (∀ (s u : State) (packet : BitVec 32) (slot : Nat) (w : Word32 × Word32 × Word32), s.me.path.words = none →
    fetchPacket s packet = .ok (u, w) →
    chainWord s packet slot = .ok ({ u with me := { u.me with path := { u.me.path with words := some w } } },
      if slot = 0 then w.1 else if slot = 1 then w.2.1 else w.2.2))
  ∧ (∀ (s : State) (packet : BitVec 32) (slot : Nat) (w : Word32 × Word32 × Word32), s.me.path.words = some w →
    chainWord s packet slot = .ok (s, if slot = 0 then w.1 else if slot = 1 then w.2.1 else w.2.2)
    ∧ (s.me.path.slot ≠ 0 → packetNow s = .ok (s, w))
    ∧ (s.me.path.slot = 0 → packetNow s = fetchPacket s s.me.path.pc))
  ∧ (∀ (s u v : State) (ctx path : Nat) (rest : List Turn) (w : Word32 × Word32 × Word32) (i : Instr),
    s.power = true → s.agenda = .issue ctx path :: rest →
    selectPath (tick { s with agenda := rest }) (readyPath (tick { s with agenda := rest })) ctx path = some u →
    u.me.path.run = none → u.me.path.slot < 3 → u.me.path.pend = none →
    packetNow u = .ok (v, w) → v.me = u.me →
    decodeWord (packetWord w u.me.path.slot) = .ok i → (∀ k p, i ≠ .xpfx k p) → chainBit (packetWord w u.me.path.slot) = false →
    placementFault w u.me.path.slot [⟨u.me.path.slot, [], Lead.none, none, some i⟩] = none →
    heldBack (beginChain v u.me.path.pc w [⟨u.me.path.slot, [], Lead.none, none, some i⟩]) i = none →
    step s = exec i (beginChain v u.me.path.pc w [⟨u.me.path.slot, [], Lead.none, none, some i⟩])
    ∧ (beginChain v u.me.path.pc w [⟨u.me.path.slot, [], Lead.none, none, some i⟩]).me.path.run = some (u.me.path.pc, [u.me.path.slot])
    ∧ (u.me.path.slot < 2 → (beginChain v u.me.path.pc w [⟨u.me.path.slot, [], Lead.none, none, some i⟩]).me.path.slot = u.me.path.slot + 1
        ∧ (beginChain v u.me.path.pc w [⟨u.me.path.slot, [], Lead.none, none, some i⟩]).me.path.pc = u.me.path.pc)
    ∧ (u.me.path.slot = 2 → (beginChain v u.me.path.pc w [⟨u.me.path.slot, [], Lead.none, none, some i⟩]).me.path.slot = 0
        ∧ (beginChain v u.me.path.pc w [⟨u.me.path.slot, [], Lead.none, none, some i⟩]).me.path.pc = u.me.path.pc + 1))

/-- With supply every step answers a next state: no instruction, and no turn, ends in a fault or a refusal. Without supply a step
stops as power-off, but for a module reset, which starts bring-up (R415, R420). That the step
then stops, by this name, is the model's way to say that activity has ended (log entry 67). -/
def Obligations.StepOutcome : Prop :=
  (∀ s : State, s.power = true → ∃ t, step s = .next t)
  ∧ (∀ s : State, s.power = false →
      ((∀ rest, s.agenda ≠ .event .moduleReset :: rest) → step s = .fault .powerOff)
      ∧ (∀ rest, s.agenda = .event .moduleReset :: rest →
          ∃ t, step s = .next t ∧ t.power = true ∧ t.dev.bringState = 0 ∧ t.dev.regions = [] ∧ t.dev.queues = []))

/-- The state after power-on: bring-up in state ROM with detail 0 (R420), the tracker register at 0x0040_10A0 (R385), the version
counter and the leaf index at 0 (the model's choice, log entry 5), every bank OFF, no region, queue, launch, task or context; memory and every pad are in canonical
form. -/
def Obligations.ResetState : Prop :=
  State.reset.dev.bringState = 0 ∧ State.reset.dev.bringDetail = 0 ∧ State.reset.dev.tracker = 0x4010A0
  ∧ State.reset.dev.regions = [] ∧ State.reset.dev.queues = [] ∧ State.reset.dev.launches = []
  ∧ State.reset.dev.verCounter = 0 ∧ State.reset.dev.leaf = 0
  ∧ State.reset.tasks = [] ∧ State.reset.task.phase = .done ∧ State.reset.ctxs = [] ∧ State.reset.me.kind = .idle
  ∧ (∀ b, b < 96 → (bankAt State.reset.core b).role = .off) ∧ Regs.reset.mode = 1 ∧ Regs.reset.budget = 64
  ∧ Formed State.reset

/-- Every step keeps the canonical form of memory and of every pad: addresses rise and no listed byte reads as an unlisted one
does. -/
def Obligations.StepKeepsMemoryForm : Prop :=
  ∀ s t : State, Formed s → step s = .next t → Formed t

/-! ## The checks before a chain issues (R217, R218) -/

/-- The checks before a word issues, in their order (R217, R218): one that fails an encoding check traps with 0x01; a tract whose word
needs lanes materialises first, and the word issues in its stands (R14, R206); then TLBINV,
LREAD, LWRITE, HRET and SETS to special registers 9, 10 and 11 outside a handler trap with 0x0A, detail 17, at the word's own address; then
one whose operand tags are not accepted with 0x03, in the lane whose check fails and, for a slot or serial check, at that lane's pad offset, and
one that has a non-uniform operand where it needs a uniform one with 0x04 (R64, R227, R318). Which offset of a lane it is, is log entry 80. Such a word has no other effect. XPFX is the leading word itself. -/
def Obligations.IssueChecks : Prop :=
  (∀ (i : Instr) (c : BitVec 1) (w : Word32) (s : State), encode c i = some w → (∀ k p, i ≠ .xpfx k p) →
      (encodingOk i s.me.path.lead s.task.fsize s.task.views (readRegs s).xc = false →
        exec i s = .next (wordTrap s (trapHere s 0x01 0)))
      ∧ (encodingOk i s.me.path.lead s.task.fsize s.task.views (readRegs s).xc = true → materialises s i = true →
        (∀ t, materialise s = .ok t → exec i s = .next t)
        ∧ (∀ w, materialise s = .stall w → exec i s = .next (wordStall s w))))
  ∧ (∀ (i : Instr) (s : State),
      ((∃ a b, i = .tlbinv a b) ∨ (∃ d a b, i = .lread d a b) ∨ (∃ d a b, i = .lwrite d a b) ∨ i = .hret
        ∨ (∃ a b, i = .sets a b ∧ (b = 9#7 ∨ b = 10#7 ∨ b = 11#7))) →
      encodingOk i s.me.path.lead s.task.fsize s.task.views (readRegs s).xc = true → materialises s i = false → s.me.frame = none →
      exec i s = .next (wordTrap s (trapHere s 0x0A 17)))
  ∧ (∀ (i : Instr) (c : BitVec 1) (w : Word32) (s : State), encode c i = some w → (∀ k p, i ≠ .xpfx k p) →
      encodingOk i s.me.path.lead s.task.fsize s.task.views (readRegs s).xc = true →
      (privileged i = true → s.me.frame.isSome = true) → materialises s i = false →
      (tagsOk i s.me.path.lead s.me (readRegs s) = false →
        (tagLane i s.me.path.lead s.me (readRegs s) = none → exec i s = .next (wordTrap s (trapHere s 0x03 0)))
        ∧ (∀ lane, tagLane i s.me.path.lead s.me (readRegs s) = some lane →
          exec i s = .next (wordTrap s (trapLane 0x03 0 ((tagOffset i s.me.path.lead s.me (readRegs s) lane).getD (wordAddr s)) lane))))
      ∧ (tagsOk i s.me.path.lead s.me (readRegs s) = true → uniformOk i s.me.path.lead (readRegs s) = false →
          exec i s = .next (wordTrap s (trapHere s 0x04 0))))

/-! ## Traps and handlers (R390 to R393) -/

/-- A trap with a handler: the cause registers take the trap's code, detail, level and slot, its address and its lane; the frame
keeps the path and the words to issue again; and the handler runs from its entry packet, in a stand in the elected lane alone
(R390, R391, R392). Which words stand there again, and that its return stack is empty, are log entries 8 and 92. -/
def Obligations.TrapEntersHandler : Prop :=
  ∀ (s : State) (k : Trap) (slot pc : Nat) (redo : Option Redo) (d : Region),
    k.code ≠ 0x18 → k.code ≠ 0x20 → k.code ≠ 0x21 → s.me.frame = none → effective s s.task.region 5 = some d → d.hcode ≠ 0 →
    ∃ t, takeTrap s k slot pc redo = t
      ∧ t.me.cause = BitVec.ofNat 64 (k.code.toNat + atBit k.detail.toNat 8 + atBit k.level.toNat 16 + atBit slot 21)
      ∧ t.me.causeAddr = k.addr ∧ t.me.causeLane = BitVec.ofNat 64 (k.lane % 128)
      ∧ t.me.frame = some ⟨s.me.path.resumed redo, s.me.paths, s.me.recs, slot, pc, k, d.hcode⟩
      ∧ t.me.path.pc = BitVec.ofNat 32 d.hentry ∧ t.me.path.slot = 0 ∧ t.me.path.ret = []
      ∧ (s.me.kind = .stand → t.me.path.mask = BitVec.ofNat 64 (2 ^ k.lane))
      ∧ t.me.paths = [] ∧ t.me.recs = [] ∧ t.me.regs = s.me.regs ∧ codeBase t = d.hcode
      ∧ t.mem = s.mem ∧ t.ctxs = s.ctxs ∧ t.task = s.task ∧ t.tasks = s.tasks ∧ t.core = s.core ∧ t.dev = s.dev

/-- A trap that no handler takes (no fault domain, a handler address of 0, or a trap in a handler) ends the task as fatal; 0x18
restarts an unexposed task in direct mode and ends an exposed one; 0x20 and 0x21 leave their context waiting for the self-test of what they
concern, a bank of which is put down for its test, with no other effect (R391, R397). Which unit that is, and the wait, are log entry 48. -/
def Obligations.UnhandledTrapsEnd : Prop :=
  ∀ (s : State) (k : Trap) (slot pc : Nat) (redo : Option Redo),
    (k.code ≠ 0x18 → k.code ≠ 0x20 → k.code ≠ 0x21 → s.me.frame.isSome = true →
      takeTrap s k slot pc redo =
        fatalTask { s with me := setCause s.me k slot } s.task.tid k ⟨2, slot, pc, false, false, false, 0, 0⟩)
    ∧ (k.code ≠ 0x18 → k.code ≠ 0x20 → k.code ≠ 0x21 → s.me.frame = none → (∀ d, effective s s.task.region 5 = some d → d.hcode = 0) →
      takeTrap s k slot pc redo =
        fatalTask { s with me := setCause s.me k slot } s.task.tid k ⟨1, slot, pc, false, false, false, 0, 0⟩)
    ∧ (k.code = 0x18 → s.task.exposed = true →
      takeTrap s k slot pc redo =
        fatalTask { s with me := setCause s.me k slot } s.task.tid k ⟨3, slot, pc, false, false, false, 0, 0⟩)
    ∧ (k.code = 0x18 → s.task.exposed = false →
      takeTrap s k slot pc redo = restartTask { s with me := setCause s.me k slot } s.task.tid true)
    ∧ (k.code = 0x20 ∨ k.code = 0x21 →
      ∀ u : State, u = { s with me := { s.me with
        test := some ⟨k, slot, pc, redo, decide (2 ≤ s.me.badWrites), faultUnit s k⟩, badWrites := 0 } } →
      (faultUnit s k = none → takeTrap s k slot pc redo = u)
      ∧ (∀ x, faultUnit s k = some x → takeTrap s k slot pc redo = mapCore u x.1 fun c =>
          if c.testing.any (fun y => y.bank == x.2) then c
          else { c with testing := c.testing ++ [⟨x.2, (bankAt c x.2).owner.getD 0, (bankAt c x.2).role, false⟩] }))

/-- TRAP as the last word of its chain raises trap 0x28 with its number as detail, and the handler is entered; nothing is issued
again after it (R254, R391, R392). -/
def Obligations.TrapWord : Prop :=
  ∀ (s : State) (b : BitVec 7) (packet : BitVec 32) (slot : Nat) (d : Region),
    Issues (.trap b) s → s.me.path.run = some (packet, [slot]) → s.me.path.pendSlots = [] → s.me.frame = none →
    effective s s.task.region 5 = some d → d.hcode ≠ 0 →
    ∃ t, exec (.trap b) s = .next t
      ∧ t.me.cause = BitVec.ofNat 64 (0x28 + atBit b.toNat 8 + atBit slot 21)
      ∧ t.me.causeAddr = BitVec.ofNat 64 (slotAddr (codeBase s) packet slot)
      ∧ t.me.frame = some ⟨s.me.path.settled, s.me.paths, s.me.recs, slot, slotAddr (codeBase s) packet slot,
          ⟨0x28, BitVec.ofNat 8 b.toNat, 0, BitVec.ofNat 64 (slotAddr (codeBase s) packet slot), electedLane s⟩, d.hcode⟩
      ∧ t.me.path.pc = BitVec.ofNat 32 d.hentry ∧ t.me.path.slot = 0 ∧ t.me.regs = s.me.regs ∧ t.mem = s.mem

/-- HRET in a handler clears the frame, and the trapped path goes on with the words to issue again, the other paths and the records
as they were; all else stands, but that a deferral of pre-emption ends with the last handler of the task, and the choice is due (R255,
R393, R400). EXIT in a handler aborts the task with the frame's trap (R239, R393); elsewhere in a tract
its items retire and the tract ends, and in a stand the path's lanes retire and the path is gone (R35). -/
def Obligations.HandlerReturns : Prop :=
  (∀ (s : State) (f : Frame), Issues .hret s → s.me.frame = some f →
      ∃ k : Task, exec .hret s = .next { s with
          me := { s.me with path := f.path, paths := f.paths, recs := f.recs, frame := none }, task := k }
        ∧ (s.task.preqAt = none ∨ (∃ c ∈ ctxsOf s s.task.tid, c.id ≠ s.me.id ∧ c.frame.isSome = true) → k = s.task)
        ∧ (s.task.preqAt ≠ none → (∀ c ∈ ctxsOf s s.task.tid, c.id ≠ s.me.id → c.frame = none) →
            k = { s.task with preqAt := none, choice := true }))
  ∧ (∀ s : State, Issues .exit s →
      (∀ f, s.me.frame = some f →
        exec .exit s = .next (abortTask s s.task.tid f.trap ⟨0, f.slot, f.pc, false, false, false, 0, 0⟩))
      ∧ (s.me.frame = none → isStand s = false →
        exec .exit s = .next (endContext { s with task := { s.task with retired := s.task.retired + boxItems s.me.box } }))
      ∧ (s.me.frame = none → isStand s = true →
        exec .exit s = .next (endPath s)))

/-- LREAD gives lane [ab] of a v register, through its lane pattern if it has one (R68), zero-extended, with the register's tag; LWRITE
writes one lane and keeps the register's tag and other lanes. Both run in a handler, in a stand, for a lane below 64; outside, they trap with 0x01 (R256). -/
def Obligations.LaneAccess : Prop :=
  (∀ (s : State) (d a b : BitVec 7), Issues (.lread d a b) s → isStand s = true → (aCode (readRegs s) b).base.toNat < 64 →
    exec (.lread d a b) s = .next (wrote s (formInto s d
      (uniform ((src32 s.me (readRegs s) 32 (srcOf (readRegs s) s.me.path.lead 0 a.toNat) (aCode (readRegs s) b).base.toNat).setWidth 64)
        ((srcTags (readRegs s) (srcOf (readRegs s) s.me.path.lead 0 a.toNat) 1).headD .raw)))))
  ∧ (∀ (s : State) (d a b : BitVec 7), Issues (.lwrite d a b) s → isStand s = true → (aCode (readRegs s) a).base.toNat < 64 →
    exec (.lwrite d a b) s = .next (wrote s (vInto s.me.regs (BitVec.ofNat 64 (2 ^ (aCode (readRegs s) a).base.toNat)) d.toNat
      (vTag s.me.regs d.toNat) fun _ => (aCode (readRegs s) b).base.setWidth 32)))
  ∧ (∀ (s : State) (d a b : BitVec 7), Issues (.lread d a b) s →
    (isStand s = false ∨ 64 ≤ (aCode (readRegs s) b).base.toNat) →
    exec (.lread d a b) s = .next (wordTrap s (trapHere s 0x01 0)))
  ∧ (∀ (s : State) (d a b : BitVec 7), Issues (.lwrite d a b) s →
    (isStand s = false ∨ 64 ≤ (aCode (readRegs s) a).base.toNat) →
    exec (.lwrite d a b) s = .next (wordTrap s (trapHere s 0x01 0)))

/-! ## Control words (R230 to R257) -/

/-- NOP changes nothing else (R257), nor does MATL in a stand or a path; in a tract MATL materialises it and does nothing more (R237): its copies are sealed once; each window
from the first on gets a stand with a free file and a free slot, the first one the tract's own slot where every window has them; else
the tract parks with its cursor at the next window (R19 to R22, R350); YIELD holds its path for 64 core clocks, or until the other contexts that are ready have each issued (R238); JOIN changes nothing where no
record of its path names a join, or where the innermost that does names another packet (R27, R235); a leading word joins the words
before it, and the next word of the chain follows (R212). -/
def Obligations.PlainWords : Prop :=
  (∀ s : State, Issues .nop s → exec .nop s = .next (past s))
  ∧ (∀ s : State, Issues .matl s → exec .matl s = .next (past s))
  ∧ (∀ s : State, issueTrap .matl s = none → isStand s = false →
      (∀ t, materialise s = .ok t → exec .matl s = .next t) ∧ (∀ w, materialise s = .stall w → exec .matl s = .next (wordStall s w)))
  ∧ (∀ (s q : State) (pieces : List (Nat × Nat × Nat)) (files : List (Nat × Nat)) (slots : List Nat), issueTrap .matl s = none →
      isStand s = false → ((s.me.sealedOnce = true ∧ q = s) ∨ (s.me.sealedOnce = false ∧ sealTract s = .ok q)) →
      pieces = piecesFrom s.me.box s.me.seams 49 (firstCursor s.me.box) → files = freeFiles q q.task → slots = freeSlots q q.task.core →
      ∃ (t : State) (new : List Context), exec .matl s = .next t ∧ t.ctxs = q.ctxs ++ new ∧ t.task = q.task ∧ t.mem = s.mem
        ∧ (pieces.length ≤ files.length → pieces.length ≤ slots.length →
          new.length + 1 = pieces.length ∧ t.me.id = s.me.id ∧ t.me.slotNo = s.me.slotNo
          ∧ (∀ (k : Nat) (b : Nat × Nat × Nat) (c : Context), pieces[k]? = some b → (t.me :: new)[k]? = some c → StandOf q.me b c ∧ c.file = files[k]?)
          ∧ (∀ (k : Nat) (c : Context), new[k]? = some c → slots[k]? = some c.slotNo))
        ∧ (files.length < pieces.length ∨ slots.length < pieces.length →
          new.length = min files.length slots.length
          ∧ (∀ (k : Nat) (b : Nat × Nat × Nat) (c : Context), pieces[k]? = some b → new[k]? = some c → StandOf q.me b c ∧ c.file = files[k]? ∧ slots[k]? = some c.slotNo)
          ∧ t.me.kind = .parked ∧ t.me.box = s.me.box ∧ t.me.seams = s.me.seams ∧ pieces[new.length]? = some t.me.cursor
          ∧ t.me.parkedAt = myTime s ∧ t.me.slotNo = s.me.slotNo ∧ t.me.regs = s.me.regs))
  ∧ (∀ s : State, Issues .yield s →
      exec .yield s = .next (past { s with me := { s.me with path := { s.me.path with
        held := some (myTime s + clocksNs s s.task.core 64, readyOthers s) } } }))
  ∧ (∀ s : State, Issues .join s → innerJoin s.me = none → exec .join s = .next (past s))
  ∧ (∀ (s : State) (r : Record), Issues .join s → innerJoin s.me = some r → r.join ≠ some (packetOf s.me.path) →
      exec .join s = .next (past s))
  ∧ (∀ (s : State) (kind : BitVec 3) (payload : BitVec 22) (packet : BitVec 32) (slot next : Nat) (more : List Nat),
      s.me.path.run = some (packet, slot :: next :: more) →
      exec (.xpfx kind payload) s = .next { s with me := { s.me with path := { s.me.path with
        run := some (packet, next :: more), lead := addLead s.me.path.lead kind payload } } })

/-- IDX writes the form whose value at every item is that item's index in the dimension b (R245); in a stand, whose rows are folded
(R22), its value at a lane is the index of that lane's item. TIME writes canopy time, uniform with tag 1 (R247); LANEID writes its own
number into each lane of p0, with tag 1, and keeps the other lanes, and in a tract it materialises first (R246). LOCQ makes a translation, and no access, and writes its
report, uniform with tag 1; beside it the walk's own reads of entries and the page-walk caches alone leave a trace; an address the
parameter window does not hold, and a translation that fails, trap (R248, R364). That it fills no TLB is log entry 24. -/
def Obligations.PlaceWords : Prop :=
  (∀ (s : State) (d b : BitVec 7), Issues (.idx d b) s →
      exec (.idx d b) s = .next (wrote s (formInto s d (indexForm s.me b.toNat)))
      ∧ (indexForm s.me b.toNat).tag = .int32
      ∧ (isStand s = false → ∀ x y z, formAt (indexForm s.me b.toNat) x y z =
          BitVec.ofNat 64 (if b = 0#7 then x else if b = 1#7 then y else z))
      ∧ (isStand s = true → ∀ lane, formLane s.me (indexForm s.me b.toNat) lane =
          BitVec.ofNat 64 (if b = 0#7 then s.me.box.x0 + lane else if b = 1#7 then s.me.box.y0 else s.me.box.z0)))
  ∧ ((∀ (s : State) (d : BitVec 7), Issues (.time d) s →
      exec (.time d) s = .next (wrote s (formInto s d (uniform (BitVec.ofNat 64 (myTime s)) .int32))))
    ∧ (∀ (s : State) (d : BitVec 7), Issues (.laneid d) s →
      exec (.laneid d) s = .next (wrote s (lanesInto s d.toNat .int32 fun l => BitVec.ofNat 32 l)))
    ∧ (∀ (s t : State) (d : BitVec 7), issueTrap (.laneid d) s = none → isStand s = false → materialise s = .ok t →
      exec (.laneid d) s = .next t))
  ∧ (∀ (s : State) (d a : BitVec 7) (va : Nat), Issues (.locq d a) s → va = (aCode (readRegs s) a).base.toNat →
      (va < 4096 → s.task.epblen ≤ va → exec (.locq d a) s = .next (wordTrap s (trapAt s 0x0A 19 va)))
      ∧ ((va < 4096 → va < s.task.epblen) →
        (∀ t x, translate s s.task.part (if va < 4096 then s.task.epb + va else va) .look = .ok (t, x) →
          exec (.locq d a) s = .next (wrote t (formInto s d (uniform (locqWord x) .int32)))
          ∧ t.me = s.me ∧ t.mem = s.mem ∧ t.core = s.core ∧ t.cores = s.cores ∧ t.l2tlb = s.l2tlb ∧ t.task = s.task ∧ t.ctxs = s.ctxs
          ∧ t.flight = s.flight)
        ∧ (∀ f, translate s s.task.part (if va < 4096 then s.task.epb + va else va) .look = .error f → f.code ≠ 0 →
          exec (.locq d a) s = .next (wordTrap s (trapXlat f va (electedLane s))))))

/-- GETS writes a special register, uniform with tag 1 (R249): the mode register, XC, the pending horizon, canopy time, the active
lanes of a stand, the task, the cause registers, the rounding budget and the partition's capability word. SETS writes the mode
register, and reseeds every lane's LFSR from it (R82), while the words of a chain of several still round with the old state (R228), XC, the rounding budget and, in a handler, the cause registers, whose reserved bits stay 0 (R7, R390); a value against
a register's own rule traps with 0x01 (R250). XSET writes one field of XC (R251). -/
def Obligations.SpecialRegisters : Prop :=
  (∀ (s : State) (d b : BitVec 7), Issues (.gets d b) s →
      exec (.gets d b) s = .next (wrote s (formInto s d (uniform (specialReg s b.toNat) .int32)))
      ∧ (b = 0#7 → specialReg s b.toNat = (readRegs s).mode) ∧ (b = 1#7 → specialReg s b.toNat = (readRegs s).xc)
      ∧ (b = 2#7 → specialReg s b.toNat = BitVec.ofNat 64 s.me.horizon)
      ∧ (b = 3#7 → specialReg s b.toNat = BitVec.ofNat 64 (myTime s))
      ∧ (b = 5#7 → specialReg s b.toNat = if isStand s then s.me.path.mask else 0)
      ∧ (b = 6#7 → specialReg s b.toNat = BitVec.ofNat 64 s.task.tid)
      ∧ (b = 9#7 → (∀ k, k ≠ 23 → (specialReg s b.toNat).getLsbD k = s.me.cause.getLsbD k)
          ∧ ((specialReg s b.toNat).getLsbD 23 = true ↔ s.task.preqAt.isSome = true ∧ s.me.frame.isSome = true))
      ∧ (b = 10#7 → specialReg s b.toNat = s.me.causeAddr) ∧ (b = 11#7 → specialReg s b.toNat = s.me.causeLane)
      ∧ (b = 12#7 → specialReg s b.toNat = (readRegs s).budget) ∧ (b = 15#7 → specialReg s b.toNat = vget s.dev.caps s.task.part 0))
  ∧ ((∀ (s : State) (a b : BitVec 7) (x : Word64), Issues (.sets a b) s → x = (aCode (readRegs s) a).base →
      (b = 0#7 → 1 ≤ x.toNat % 8 → x.toNat % 8 ≤ 6 → x.toNat < 2 ^ 32 →
        (s.me.path.snap = none ∨ stepPast s.me.path = s.me.path.settled →
          exec (.sets a b) s = .next (wrote s { s.me.regs with mode := x, lfsr := Vector.ofFn fun l => lfsrSeed (x >>> 17) l.val }))
        ∧ (∀ r, s.me.path.snap = some r → stepPast s.me.path ≠ s.me.path.settled →
          exec (.sets a b) s = .next { s with me := { s.me with
            regs := { s.me.regs with mode := x, lfsr := Vector.ofFn fun l => lfsrSeed (x >>> 17) l.val }
            path := { stepPast s.me.path with reseed := true, snap := some { r with lfsr := s.me.regs.lfsr } } } }))
      ∧ (b = 1#7 → x.toNat < 2 ^ 21 → exec (.sets a b) s = .next (wrote s { s.me.regs with xc := x }))
      ∧ (b = 12#7 → 1 ≤ x.toNat → x.toNat < 2 ^ 16 → exec (.sets a b) s = .next (wrote s { s.me.regs with budget := x }))
      ∧ (b = 9#7 → exec (.sets a b) s = .next (past { s with me := { s.me with cause := x &&& 0x63FFFF } }))
      ∧ (b = 10#7 → exec (.sets a b) s = .next (past { s with me := { s.me with causeAddr := x } }))
      ∧ (b = 11#7 → exec (.sets a b) s = .next (past { s with me := { s.me with causeLane := x &&& 0x7F } }))
      ∧ (setsOk b.toNat x = false → exec (.sets a b) s = .next (wordTrap s (trapHere s 0x01 0))))
    ∧ (∀ (s : State) (d b : BitVec 7), Issues (.xset d b) s → s.me.regs.xc.toNat < 2 ^ 21 →
      ∃ x : Word64, exec (.xset d b) s = .next (wrote s { s.me.regs with xc := x })
        ∧ x.toNat < 2 ^ 21
        ∧ (∀ k, k < 4 → bitsOf x.toNat (6 * k) (if k = 3 then 3 else 6) =
            if k = d.toNat then b.toNat % 2 ^ (if k = 3 then 3 else 6) else bitsOf s.me.regs.xc.toNat (6 * k) (if k = 3 then 3 else 6))))

/-- BRA and a uniform BRX go to their targets; CALL pushes the packet after its own and goes, and RET pops it; the 17th CALL and a RET
of an empty return stack trap with 0x01, and so does a BRX with a target of 2^32 or more in an active lane (R230, R231, R233, R234). LOOP subtracts 1 from its a-register, and goes back unless that makes 0
(R231). BRC of a tract on a uniform form goes to its target where the condition holds, else falls through (R15, R216, R231). -/
def Obligations.Transfers : Prop :=
  ((∀ (s : State) (disp : BitVec 16), Issues (.bra disp) s →
      exec (.bra disp) s = .next (moved s (packetOf s.me.path + disp.signExtend 32)))
    ∧ (∀ (s : State) (disp : BitVec 16), Issues (.call disp) s →
      (s.me.path.ret.length < 16 → exec (.call disp) s = .next (moved { s with me := { s.me with path := { s.me.path with
          ret := (packetOf s.me.path + 1) :: s.me.path.ret } } } (packetOf s.me.path + disp.signExtend 32)))
      ∧ (16 ≤ s.me.path.ret.length → exec (.call disp) s = .next (wordTrap s (trapHere s 0x01 0))))
    ∧ (∀ s : State, Issues .ret s →
      (∀ t rest, s.me.path.ret = t :: rest →
        exec .ret s = .next (moved { s with me := { s.me with path := { s.me.path with ret := rest } } } t))
      ∧ (s.me.path.ret = [] → exec .ret s = .next (wordTrap s (trapHere s 0x01 0))))
    ∧ (∀ (s : State) (reg : BitVec 5) (disp : BitVec 16) (n : Word64), Issues (.loop reg disp) s →
      n = (aReg (readRegs s) reg.toNat).base - 1 →
      exec (.loop reg disp) s = .next (moved { s with me := { s.me with
        regs := formInto s (BitVec.ofNat 7 (64 + reg.toNat)) (uniform n .int32) } }
        (if n = 0 then packetOf s.me.path + 1 else packetOf s.me.path + disp.signExtend 32)))
    ∧ (∀ (s : State) (a : BitVec 7) (t : BitVec 32), Issues (.brx a) s → isA a = true →
      (aCode (readRegs s) a).isUniform = true → (aCode (readRegs s) a).base = t.setWidth 64 →
      exec (.brx a) s = .next (moved (if isStand s then { s with me := { s.me with path := { s.me.path with serial := none } } } else s) t))
    ∧ (∀ (s : State) (a : BitVec 7) (t : BitVec 32), Issues (.brx a) s → isA a = false → isStand s = true → s.me.path.mask ≠ 0 →
      (∀ l, s.me.path.mask.getLsbD l = true → laneA s a 32 l = t) →
      exec (.brx a) s = .next (moved { s with me := { s.me with path := { s.me.path with serial := none } } } t))
    ∧ (∀ (s : State) (a : BitVec 7), Issues (.brx a) s → isA a = true →
      (isStand s = false → (aCode (readRegs s) a).isUniform = true → 2 ^ 32 ≤ (aCode (readRegs s) a).base.toNat →
        exec (.brx a) s = .next (wordTrap s (trapHere s 0x01 0)))
      ∧ (∀ l, isStand s = true → s.me.path.mask.getLsbD l = true → 2 ^ 32 ≤ (formLane s.me (aCode (readRegs s) a) l).toNat →
        exec (.brx a) s = .next (wordTrap s (trapHere s 0x01 0)))))
  ∧ (∀ (s : State) (cond : BitVec 4) (reg : BitVec 5) (disp : BitVec 16) (x : Word64) (taken : Bool), Issues (.brc cond reg disp) s →
      isStand s = false → (aReg (readRegs s) reg.toNat).isUniform = true → x = (aReg (readRegs s) reg.toNat).base →
      ((cond = 0#4 ∧ taken = decide (x = 0)) ∨ (cond = 1#4 ∧ taken = decide (x ≠ 0)) ∨ (cond = 2#4 ∧ taken = decide (x.toInt < 0))
        ∨ (cond = 3#4 ∧ taken = decide (x.toInt ≤ 0)) ∨ (cond = 4#4 ∧ taken = decide (0 < x.toInt))
        ∨ (cond = 5#4 ∧ taken = decide (0 ≤ x.toInt)) ∨ (cond = 6#4 ∧ taken = x.getLsbD 0) ∨ (cond = 7#4 ∧ taken = !x.getLsbD 0)) →
      exec (.brc cond reg disp) s =
        .next (moved s (if taken then packetOf s.me.path + disp.signExtend 32 else packetOf s.me.path + 1)))

/-- BRC and BRV in a stand: with no active lane taken the path falls through, with all it goes to its target; else it diverges (R26,
R231, R232): the path keeps the lanes not taken, and a new path at the target takes the others and joins every enclosing record; a record
of both is kept where a kind 1 leading word names a join (R27). Where the stand has 8 paths, or within serialised execution, the record is
a serial one and holds the taken lanes and their target (R28). A join named at a packet that holds none, and a push onto a full stack,
trap with 0x01 (R28, R232). A packet that cannot be fetched now holds no join: log entry 93.

BRX with targets that differ over the active lanes (R233): each time the lanes with the target of the lowest go there in a path of their
own, until one group is left, so that every path that the word leaves stands at one target with exactly the lanes whose target it is, the
lowest lane's first; the record of a named join has every one of them as a member. Within serialised execution the lowest lane's group goes
first, and the rest is held to issue the BRX again, in a serial record, or in the one for which the path issues it again already; that it
then keeps its packet and the registers of its issue is log entry 8. -/
def Obligations.StandBranches : Prop :=
  (∀ (i : Instr) (s : State) (disp : BitVec 16) (taken : Word64) (stay far : Path) (join : Option (BitVec 32)), Issues i s → isStand s = true →
    ((∃ cond reg, i = .brc cond reg disp
        ∧ taken = s.me.path.mask &&& maskWhere fun l => brcHolds cond.toNat (formLane s.me (aReg (readRegs s) reg.toNat) l))
      ∨ (∃ preg, i = .brv 0#1 preg disp ∧ taken = s.me.path.mask &&& pReg s.me (readRegs s) preg.toNat)
      ∨ (∃ preg, i = .brv 1#1 preg disp ∧ taken = s.me.path.mask &&& ~~~pReg s.me (readRegs s) preg.toNat)) →
    stay = { s.me.path.settled with pc := packetOf s.me.path + 1, slot := 0, mask := s.me.path.mask &&& ~~~taken } →
    far = { s.me.path.settled with pc := packetOf s.me.path + disp.signExtend 32, slot := 0, mask := taken } →
    join = s.me.path.lead.join.map (fun j => packetOf s.me.path + j.signExtend 32) →
    (taken = 0 → exec i s = .next (moved s (packetOf s.me.path + 1)))
    ∧ (taken ≠ 0 → taken = s.me.path.mask → exec i s = .next (moved s (packetOf s.me.path + disp.signExtend 32)))
    ∧ (taken ≠ 0 → taken ≠ s.me.path.mask →
      ((∃ k, join = some k ∧ packetJoins s k = false) ∨ (32 ≤ s.me.recs.length ∧ (join ≠ none ∨ serialises s.me = true)) →
        exec i s = .next (wordTrap s (trapHere s 0x01 0)))
      ∧ (join = none → serialises s.me = false →
        exec i s = .next { s with me := { s.me with
          path := stay, paths := s.me.paths ++ [{ far with id := s.me.nextPath, age := 0 }], nextPath := s.me.nextPath + 1
          recs := s.me.recs.map fun r =>
            if r.members.contains s.me.path.id then { r with members := r.members ++ [s.me.nextPath] } else r } })
      ∧ (∀ k, join = some k → packetJoins s k = true → serialises s.me = false → s.me.recs.length < 32 →
        exec i s = .next { s with me := { s.me with
          path := stay, paths := s.me.paths ++ [{ far with id := s.me.nextPath, age := 0 }], nextPath := s.me.nextPath + 1
          nextRec := s.me.nextRec + 1
          recs := (s.me.recs.map fun r =>
              if r.members.contains s.me.path.id then { r with members := r.members ++ [s.me.nextPath] } else r)
            ++ [⟨s.me.nextRec, some k, false, [s.me.path.id, s.me.nextPath],
                (recordsOf s.me s.me.path.id).map (fun r => r.id), none, 0, none⟩] } })
      ∧ ((∀ k, join = some k → packetJoins s k = true) → serialises s.me = true → s.me.recs.length < 32 →
        exec i s = .next { s with me := { s.me with
          path := stay, nextRec := s.me.nextRec + 1
          recs := s.me.recs ++ [⟨s.me.nextRec, join, true, [s.me.path.id],
                (recordsOf s.me s.me.path.id).map (fun r => r.id), some far, 0, none⟩] } })))
  ∧ (∀ (s : State) (a : BitVec 7) (target : Nat → BitVec 32) (lowest : Nat) (group : Word64) (join : Option (BitVec 32)) (here rest : Path),
    Issues (.brx a) s → isStand s = true →
    (∀ l, s.me.path.mask.getLsbD l = true →
      (if isA a then formLane s.me (aCode (readRegs s) a) l else (laneA s a 32 l).setWidth 64) = (target l).setWidth 64) →
    s.me.path.mask.getLsbD lowest = true → (∀ l, l < lowest → s.me.path.mask.getLsbD l = false) →
    (∀ l, l < 64 → group.getLsbD l = (s.me.path.mask.getLsbD l && decide (target l = target lowest))) → group ≠ s.me.path.mask →
    join = (if s.me.path.serial.isSome then none
      else s.me.path.lead.join.map (fun j => packetOf s.me.path + j.signExtend 32)) →
    here = { s.me.path.settled with pc := target lowest, slot := 0, mask := group, serial := none } →
    rest = { s.me.path.settled with
      mask := s.me.path.mask &&& ~~~group, run := some (packetOf s.me.path, wordSlots s.me.path), words := s.me.path.words
      first := s.me.path.snap } →
    ((∃ k, join = some k ∧ packetJoins s k = false)
        ∨ (32 ≤ s.me.recs.length ∧ brxRecord s.me = none ∧ (join ≠ none ∨ serialises s.me = true)) →
      exec (.brx a) s = .next (wordTrap s (trapHere s 0x01 0)))
    ∧ (∀ targets : List (BitVec 32), (∀ k, join = some k → packetJoins s k = true) → serialises s.me = false →
      (join ≠ none → s.me.recs.length < 32) →
      (∀ l, s.me.path.mask.getLsbD l = true → target l ∈ targets) → targets.length + s.me.paths.length ≤ 8 →
      ∃ (t : Context) (new : List Path), exec (.brx a) s = .next { s with me := t }
        ∧ t.paths = s.me.paths ++ new ∧ (new.head?.map fun p => (p.pc, p.mask)) = some (target lowest, group)
        ∧ t.path.id = s.me.path.id ∧ t.regs = s.me.regs ∧ t.kind = s.me.kind
        ∧ (∀ p ∈ t.path :: new, p.slot = 0 ∧ p.run = none ∧ p.ret = s.me.path.ret
          ∧ ∀ l, l < 64 → p.mask.getLsbD l = (s.me.path.mask.getLsbD l && decide (target l = p.pc)))
        ∧ (∀ l, s.me.path.mask.getLsbD l = true → ∃ p ∈ t.path :: new, p.pc = target l)
        ∧ List.Pairwise (fun p q => p.pc ≠ q.pc) (t.path :: new)
        ∧ t.recs = (s.me.recs.map fun r =>
              if r.members.contains s.me.path.id then { r with members := r.members ++ new.map (fun p => p.id) } else r)
            ++ (match join with
              | some k => [⟨s.me.nextRec, some k, false, s.me.path.id :: new.map (fun p => p.id),
                  (recordsOf s.me s.me.path.id).map (fun r => r.id), none, 0, none⟩]
              | none => []))
    ∧ ((∀ k, join = some k → packetJoins s k = true) → serialises s.me = true → brxRecord s.me = none → s.me.recs.length < 32 →
      exec (.brx a) s = .next { s with me := { s.me with
        path := here, nextRec := s.me.nextRec + 1
        recs := s.me.recs ++ [⟨s.me.nextRec, join, true, [s.me.path.id], (recordsOf s.me s.me.path.id).map (fun r => r.id),
          some { rest with serial := some s.me.nextRec }, 0, none⟩] } })
    ∧ (∀ r, serialises s.me = true → brxRecord s.me = some r →
      exec (.brx a) s = .next { s with me := { s.me with
        path := here
        recs := updateFirst (fun q => q.id == r.id) (fun q => { q with others := some { rest with serial := some r.id } }) s.me.recs } }))

/-- The cut of a tract at a BRC (R15, R16): the runs, none of them empty, follow one another from the box's first index to its last in the
one dimension the form varies in, each is decided as the branch condition of the form's value at every item of it is, and neighbours
differ. The BRC of a form that varies: with one run the tract goes its way; with more it splits, its copies sealed, into a piece for each
run, at the target or at the next packet, with its own part of the box and of the seams; the first piece keeps the slot, and the others
take free slots, lowest first, or go onto the pending list (R16, R17). A seal that would make a ninth pending batch waits (R16). -/
def Obligations.TractSplitsByCondition : Prop :=
  (∀ (b : Box) (cond k : Nat) (f : AReg) (runs : List (Nat × Nat × Bool)), splitRuns b cond f = some (k, runs) →
    (extentIn b k).1 < (extentIn b k).2 → (extentIn b k).2 ≤ 2 ^ 32 →
    (∀ x y z, (if k = 0 then x else if k = 1 then y else z) ≥ (extentIn b k).1 →
      (if k = 0 then x else if k = 1 then y else z) < (extentIn b k).2 →
      ∃ q ∈ runs, q.1 ≤ (if k = 0 then x else if k = 1 then y else z) ∧ (if k = 0 then x else if k = 1 then y else z) < q.2.1
        ∧ q.2.2 = brcHolds cond (formAt f x y z))
    ∧ (runs.head?.map fun q => q.1) = some (extentIn b k).1
    ∧ (runs.getLast?.map fun q => q.2.1) = some (extentIn b k).2
    ∧ List.Pairwise (fun q r => q.2.1 ≤ r.1) runs
    ∧ (∀ q ∈ runs, q.1 < q.2.1)
    ∧ (∀ (j : Nat) (q r : Nat × Nat × Bool), runs[j]? = some q → runs[j + 1]? = some r → q.2.1 = r.1 ∧ q.2.2 ≠ r.2.2))
  ∧ (∀ (s : State) (cond : BitVec 4) (reg : BitVec 5) (disp : BitVec 16) (k : Nat) (runs : List (Nat × Nat × Bool)) (packet : BitVec 32)
      (slot : Nat) (target : Nat × Nat × Bool → BitVec 32), Issues (.brc cond reg disp) s → isStand s = false →
    (aReg (readRegs s) reg.toNat).isUniform = false →
    splitRuns s.me.box cond.toNat (aReg (readRegs s) reg.toNat) = some (k, runs) → s.me.path.run = some (packet, [slot]) →
    (∀ q, target q = if q.2.2 then packet + disp.signExtend 32 else packet + 1) →
    (∀ q, runs = [q] → exec (.brc cond reg disp) s = .next (moved s (target q)))
    ∧ (1 < runs.length → 8 ≤ pendingCount s.task s.me.copyBat →
      (∃ o ∈ s.task.ops, o.ctx = s.me.id ∧ o.matrix = false ∧ o.batch = none ∧ o.done = false) →
      exec (.brc cond reg disp) s = .next (wordStall s .batch))
    ∧ (1 < runs.length → pendingCount s.task s.me.copyBat < 8 →
      ∃ (t : State) (new : List Context), exec (.brc cond reg disp) s = .next t ∧ t.ctxs = s.ctxs ++ new ∧ t.mem = s.mem
        ∧ new.length + 1 = runs.length ∧ t.me.id = s.me.id ∧ t.me.kind = s.me.kind ∧ t.me.slotNo = s.me.slotNo
        ∧ (∀ o ∈ t.task.ops, o.ctx = s.me.id → o.matrix = false → o.batch ≠ none)
        ∧ (∀ (j : Nat) (q : Nat × Nat × Bool) (c : Context), runs[j]? = some q → (t.me :: new)[j]? = some c →
          c.box = boxWith s.me.box k q.1 q.2.1 ∧ c.path.pc = target q ∧ c.path.slot = 0 ∧ c.path.run = none ∧ c.path.wait = .none
          ∧ c.regs = s.me.regs ∧ c.task = s.me.task ∧ c.copyBat = batchNext s.me.copyBat s.nextOp ∧ c.matBat = s.me.matBat
          ∧ c.horizon = s.me.horizon
          ∧ c.seams = s.me.seams.filter fun m => decide (c.box.x0 < m) && decide (m < c.box.x1))
        ∧ (∀ (j : Nat) (c : Context), new[j]? = some c → c.id = s.nextCtx + j
          ∧ (∀ n, (freeSlots s s.task.core)[j]? = some n → c.kind = s.me.kind ∧ c.slotNo = n)
          ∧ ((freeSlots s s.task.core)[j]? = none → c.kind = .pending ∧ c.holder = s.me.id))))

/-- Reconvergence (R27): where the one other path of a record waits at its join, a path that arrives there goes on after the JOIN
with the lanes of both, as one path, and the record is gone. A stand that passes the checks of RJOIN becomes a tract piece over its run
of active lanes, with its forms, a value form for each live register, and without its file (R31); one that fails a check, and RJOIN in a
handler, change nothing (R31; the handler is log entry 29). A tract, and a piece just made, waits at the RJOIN for its neighbours, with all
it holds (R32, R236). Two pieces there that agree as R32 asks, with boxes that meet in one dimension, become one tract over both, with the
seams of both, and a new one where they meet within a window; it keeps the lower piece's slot, and both pending lists are its own (R32).
What becomes of value forms that the RJOIN does not name is log entry 91. -/
def Obligations.PathsRejoin : Prop :=
  (∀ (s : State) (r : Record) (p : Path), Issues .join s → isStand s = true → s.me.recs = [r] → s.me.paths = [p] →
    r.join = some (packetOf s.me.path) → r.members = [s.me.path.id, p.id] → r.others = none → r.serial = false → r.parked = 0 →
    r.ret = some s.me.path.ret → p.wait = .join r.id → s.me.path.id ≠ p.id → s.me.path.mask ||| p.mask ≠ 0 →
    ∃ t, exec .join s = .next { s with me := t }
      ∧ t.path.mask = s.me.path.mask ||| p.mask ∧ t.path.pc = packetOf s.me.path ∧ t.path.slot = 1 ∧ t.path.wait = .none
      ∧ t.path.ret = s.me.path.ret ∧ t.paths = [] ∧ t.recs = [] ∧ t.regs = s.me.regs)
  ∧ (∀ (s : State) (a b : BitVec 7), Issues (.rjoin a b) s → s.me.frame.isSome = true → exec (.rjoin a b) s = .next (past s))
  ∧ (∀ (s : State) (a b : BitVec 7), Issues (.rjoin a b) s → s.me.frame = none → isStand s = true →
    rejoinForms s a.toNat b.toNat = none → exec (.rjoin a b) s = .next (past s))
  ∧ (∀ (s : State) (a b : BitVec 7) (lowest n : Nat) (forms : List VForm), Issues (.rjoin a b) s → s.me.frame = none → isStand s = true →
    s.me.paths = [] → s.me.recs = [] → 0 < n → lowest + n ≤ 64 →
    (∀ l, l < 64 → s.me.path.mask.getLsbD l = decide (lowest ≤ l ∧ l < lowest + n)) →
    allSealed s.task s.me.id = true → (∀ m ∈ s.me.regs.m.toList, m.bank = none) →
    liveForms s.me ((List.range b.toNat).map fun k => a.toNat + k) = some forms →
    (∀ q ∈ s.flight, q.ctx = s.me.id → q.writes = false) → (∀ c ∈ s.ctxs, atRejoin c = false) →
    (forms.map fun f => f.reg) = (List.range b.toNat).map (fun k => a.toNat + k)
    ∧ (∀ f ∈ forms, f.tag = vTag s.me.regs f.reg ∧ f.tag ≠ .invalid ∧ ∀ l, lowest ≤ l → l < lowest + n →
        vLane s.me.regs f.reg l = f.base + f.slope * BitVec.ofNat 32 (s.me.box.x0 + l))
    ∧ ∃ t : Context, exec (.rjoin a b) s = .next { s with me := t } ∧ t.id = s.me.id ∧ t.slotNo = s.me.slotNo ∧ t.kind = .tract
      ∧ t.file = none ∧ t.box = { s.me.box with x0 := s.me.box.x0 + lowest, x1 := s.me.box.x0 + lowest + n } ∧ t.seams = []
      ∧ t.regs.a = s.me.regs.a ∧ t.regs.vforms = forms ∧ t.regs.mode = s.me.regs.mode ∧ t.regs.xc = s.me.regs.xc
      ∧ t.regs.budget = s.me.regs.budget ∧ t.path = { stepPast s.me.path with mask := 0, wait := .rejoin (myTime s) }
      ∧ t.horizon = s.me.horizon ∧ t.copyBat = s.me.copyBat ∧ t.matBat = s.me.matBat)
  ∧ (∀ (s : State) (a b : BitVec 7), Issues (.rjoin a b) s → s.me.frame = none → isStand s = false →
    (∀ c ∈ s.ctxs, atRejoin c = false) →
    exec (.rjoin a b) s = .next { s with me := { s.me with path := { stepPast s.me.path with wait := .rejoin (myTime s) } } })
  ∧ (∀ (s : State) (a b : BitVec 7) (c me lo hi : Context) (since : Nat) (seams : List Nat), Issues (.rjoin a b) s → s.me.frame = none →
    isStand s = false → s.ctxs.filter atRejoin = [c] → c.id ≠ s.me.id → c.path.wait = .rejoin since →
    me = { s.me with path := { stepPast s.me.path with wait := .rejoin (myTime s) } } → ((lo = me ∧ hi = c) ∨ (lo = c ∧ hi = me)) →
    (∀ q, q = lo ∨ q = hi → q.box.x0 < q.box.x1 ∧ q.box.y0 < q.box.y1 ∧ q.box.z0 < q.box.z1) →
    ((lo.box.x1 = hi.box.x0 ∧ (lo.box.y0, lo.box.y1, lo.box.z0, lo.box.z1) = (hi.box.y0, hi.box.y1, hi.box.z0, hi.box.z1)
        ∧ seams = lo.seams ++ hi.seams.filter (fun m => !lo.seams.contains m)
          ++ (if lo.box.x1 % 64 = 0 ∨ lo.box.x1 ∈ lo.seams ∨ lo.box.x1 ∈ hi.seams then [] else [lo.box.x1]) ∧ seams.length ≤ 8)
      ∨ (lo.box.y1 = hi.box.y0 ∧ (lo.box.x0, lo.box.x1, lo.box.z0, lo.box.z1) = (hi.box.x0, hi.box.x1, hi.box.z0, hi.box.z1)
        ∧ seams = lo.seams ∧ hi.seams = seams)
      ∨ (lo.box.z1 = hi.box.z0 ∧ (lo.box.x0, lo.box.x1, lo.box.y0, lo.box.y1) = (hi.box.x0, hi.box.x1, hi.box.y0, hi.box.y1)
        ∧ seams = lo.seams ∧ hi.seams = seams)) →
    lo.task = hi.task → lo.path.pc = hi.path.pc → lo.path.slot = hi.path.slot → lo.frame = none → hi.frame = none →
    lo.regs.a = hi.regs.a → namedForms lo.regs.vforms a.toNat b.toNat = namedForms hi.regs.vforms a.toNat b.toNat →
    lo.regs.mode = hi.regs.mode → lo.regs.xc = hi.regs.xc → lo.regs.budget = hi.regs.budget → lo.path.ret = hi.path.ret →
    batchWord s.task lo.copyBat = batchWord s.task hi.copyBat → batchWord s.task lo.matBat = batchWord s.task hi.matBat →
    allSealed s.task lo.id = true → allSealed s.task hi.id = true →
    (pendingOf { s with me := me } lo.id).length + (pendingOf { s with me := me } hi.id).length ≤ 8 →
    ∃ t : Context, exec (.rjoin a b) s = .next { s with
          me := t
          ctxs := (s.ctxs.filter fun d => d.id != c.id).map fun d =>
            if d.kind = .pending ∧ d.holder = hi.id then { d with holder := lo.id } else d }
      ∧ t.id = lo.id ∧ t.slotNo = lo.slotNo ∧ t.kind = lo.kind
      ∧ t.box = { lo.box with x1 := hi.box.x1, y1 := hi.box.y1, z1 := hi.box.z1 } ∧ (∀ m, m ∈ t.seams ↔ m ∈ seams)
      ∧ t.regs = { lo.regs with vforms := lo.regs.vforms.filter fun f => hi.regs.vforms.contains f }
      ∧ t.horizon = max lo.horizon hi.horizon ∧ t.path = { lo.path with wait := .rejoin (max (myTime s) since) })

/-! ## Predicates (R244) -/

/-- The predicate words write a p register in the lanes of p0 and keep its other bits, or a count or a lane number, uniform with tag 1,
in an a-register: PFIRST's is 64 when no lane is in the set (R60, R244). -/
def Obligations.PredicateWords : Prop :=
  (∀ (s : State) (pd pa pb : BitVec 3), Issues (.pand pd pa pb) s →
    exec (.pand pd pa pb) s = .next (wrote s (predInto s pd.toNat (pReg s.me (readRegs s) pa.toNat &&& pReg s.me (readRegs s) pb.toNat))))
  ∧ (∀ (s : State) (pd pa pb : BitVec 3), Issues (.por pd pa pb) s →
    exec (.por pd pa pb) s = .next (wrote s (predInto s pd.toNat (pReg s.me (readRegs s) pa.toNat ||| pReg s.me (readRegs s) pb.toNat))))
  ∧ (∀ (s : State) (pd pa pb : BitVec 3), Issues (.pxor pd pa pb) s →
    exec (.pxor pd pa pb) s = .next (wrote s (predInto s pd.toNat (pReg s.me (readRegs s) pa.toNat ^^^ pReg s.me (readRegs s) pb.toNat))))
  ∧ (∀ (s : State) (pd pa : BitVec 3), Issues (.pnot pd pa) s →
    exec (.pnot pd pa) s = .next (wrote s (predInto s pd.toNat (~~~pReg s.me (readRegs s) pa.toNat))))
  ∧ (∀ (s : State) (d : BitVec 7) (pa : BitVec 3), Issues (.pcnt d pa) s →
    exec (.pcnt d pa) s = .next (wrote s (formInto s d (uniform (BitVec.ofNat 64
      ((List.range 64).filter fun l => (pReg s.me (readRegs s) pa.toNat &&& s.me.path.mask).getLsbD l).length) .int32))))
  ∧ (∀ (s : State) (d : BitVec 7) (pa : BitVec 3), Issues (.pfirstA d pa) s →
    exec (.pfirstA d pa) s = .next (wrote s (formInto s d (uniform (BitVec.ofNat 64
      (((List.range 64).find? fun l => (pReg s.me (readRegs s) pa.toNat &&& s.me.path.mask).getLsbD l).getD 64)) .int32))))
  ∧ (∀ (s : State) (pd pa : BitVec 3), Issues (.pfirstP pd pa) s →
    exec (.pfirstP pd pa) s = .next (wrote s (predInto s pd.toNat
      (match (List.range 64).find? fun l => (pReg s.me (readRegs s) pa.toNat &&& s.me.path.mask).getLsbD l with
        | some l => BitVec.ofNat 64 (2 ^ l) | none => 0))))
  ∧ (∀ (s : State) (d a : BitVec 7), Issues (.ballot d a) s →
    ∃ m : Word64, (∀ l, l < 64 → (m.getLsbD l = true ↔ s.me.path.mask.getLsbD l = true ∧ laneA s a 32 l ≠ 0))
      ∧ (isA d = true → exec (.ballot d a) s = .next (wrote s (formInto s d (uniform m .int32))))
      ∧ (isA d = false → exec (.ballot d a) s = .next (wrote s (predInto s d.toNat m))))

/-! ## Affine words (R240 to R243) -/

/-- AADD, ASUB and AADDI: where every stride of the result fits 32 signed bits, the form written has at every item the sum or the
difference of its sources' values there, and tag 13 when exactly one source carries it, else 1; AADDI with .cell has tag 13; AADDI of 0
without a leading word is AMOV, with tag 0 (R11, R240, R241, R243). In a stand, a result with a stride that does not fit traps with 0x04
(R23, R240). -/
def Obligations.AffineSums : Prop :=
  ∀ (i : Instr) (s : State) (d a : BitVec 7) (g : AReg) (k : Int) (u : Tag), Issues i s →
    ((∃ b, i = .aadd d a b ∧ g = affineB s.me.path.lead (readRegs s) b ∧ k = 1 ∧ u = addTag (aCode (readRegs s) a).tag g.tag)
      ∨ (∃ b, i = .asub d a b ∧ g = affineB s.me.path.lead (readRegs s) b ∧ k = -1 ∧ u = addTag (aCode (readRegs s) a).tag g.tag)
      ∨ (∃ imm, i = .aaddi d a imm ∧ g = immForm (immI s.me.path.lead imm) ∧ k = 1
          ∧ ((cellType s.me.path.lead = true ∧ u = .cell)
            ∨ (cellType s.me.path.lead = false ∧ (imm ≠ 0 ∨ s.me.path.lead.imm ≠ none ∨ s.me.path.lead.extra ≠ none)
              ∧ u = addTag (aCode (readRegs s) a).tag .int32)))) →
    (fitsSigned 32 ((aCode (readRegs s) a).sx.toInt + k * g.sx.toInt) = true →
      fitsSigned 32 ((aCode (readRegs s) a).sy.toInt + k * g.sy.toInt) = true →
      fitsSigned 32 ((aCode (readRegs s) a).sz.toInt + k * g.sz.toInt) = true →
      ∃ f, exec i s = .next (wrote s (formInto s d f)) ∧ f.tag = u
        ∧ ∀ x y z, formAt f x y z =
            if k = 1 then formAt (aCode (readRegs s) a) x y z + formAt g x y z else formAt (aCode (readRegs s) a) x y z - formAt g x y z)
    ∧ (isStand s = true → fitsSigned 32 ((aCode (readRegs s) a).sx.toInt + k * g.sx.toInt) = false
          ∨ fitsSigned 32 ((aCode (readRegs s) a).sy.toInt + k * g.sy.toInt) = false
          ∨ fitsSigned 32 ((aCode (readRegs s) a).sz.toInt + k * g.sz.toInt) = false →
      exec i s = .next (wordTrap s (trapHere s 0x04 0)))

/-- AMUL of a form and a uniform value, in either order, AMULI, and ASHL and ASHLI by a uniform amount below 64: where every stride of
the result fits 32 signed bits, the form written has at every item the product of the values there, with tag 1 (R11, R240). In a stand a
result with a stride that does not fit, a product of two affine forms, and a shift by an amount that is not uniform or above 63 trap with
0x04 (R23, R240). -/
def Obligations.AffineProducts : Prop :=
  (∀ (i : Instr) (s : State) (d a : BitVec 7) (h : AReg) (x : Word64) (m : Int), Issues i s →
    ((∃ b, i = .amul d a b ∧ m = x.toInt
        ∧ (((affineB s.me.path.lead (readRegs s) b).isUniform = true ∧ x = (affineB s.me.path.lead (readRegs s) b).base
            ∧ h = aCode (readRegs s) a)
          ∨ ((aCode (readRegs s) a).isUniform = true ∧ x = (aCode (readRegs s) a).base
            ∧ h = affineB s.me.path.lead (readRegs s) b)))
      ∨ (∃ imm, i = .amuli d a imm ∧ m = immI s.me.path.lead imm ∧ x = BitVec.ofInt 64 m ∧ h = aCode (readRegs s) a)
      ∨ (∃ b n, i = .ashl d a b ∧ (affineB s.me.path.lead (readRegs s) b).isUniform = true
        ∧ (affineB s.me.path.lead (readRegs s) b).base = BitVec.ofNat 64 n ∧ n < 64 ∧ m = Int.ofNat (2 ^ n) ∧ x = BitVec.ofNat 64 (2 ^ n)
        ∧ h = aCode (readRegs s) a)
      ∨ (∃ imm n, i = .ashli d a imm ∧ immI s.me.path.lead imm = Int.ofNat n ∧ n < 64 ∧ m = Int.ofNat (2 ^ n)
        ∧ x = BitVec.ofNat 64 (2 ^ n) ∧ h = aCode (readRegs s) a)) →
    (fitsSigned 32 (h.sx.toInt * m) = true → fitsSigned 32 (h.sy.toInt * m) = true → fitsSigned 32 (h.sz.toInt * m) = true →
      ∃ f, exec i s = .next (wrote s (formInto s d f)) ∧ f.tag = .int32
        ∧ ∀ ix iy iz, formAt f ix iy iz = formAt h ix iy iz * x)
    ∧ (isStand s = true → fitsSigned 32 (h.sx.toInt * m) = false ∨ fitsSigned 32 (h.sy.toInt * m) = false
          ∨ fitsSigned 32 (h.sz.toInt * m) = false →
      exec i s = .next (wordTrap s (trapHere s 0x04 0))))
  ∧ (∀ (s : State) (d a b : BitVec 7) (f g : AReg), f = aCode (readRegs s) a → g = affineB s.me.path.lead (readRegs s) b →
    isStand s = true →
    (Issues (.amul d a b) s → f.isUniform = false → g.isUniform = false →
      exec (.amul d a b) s = .next (wordTrap s (trapHere s 0x04 0)))
    ∧ (Issues (.ashl d a b) s → g.isUniform = false ∨ 64 ≤ g.base.toNat →
      exec (.ashl d a b) s = .next (wordTrap s (trapHere s 0x04 0))))

/-- The affine words of two uniform sources write a uniform result of 64 bits (R240); their immediate forms take the immediate as the
second source, AMOVI alone; AADDI of 0 without a leading word, AMOV, copies a form with tag 0 (R241, R243). In a stand, an affine source
makes their result a non-form, which traps with 0x04 (R23, R240). -/
def Obligations.UniformWords : Prop :=
  (∀ (i : Instr) (s : State) (d a b : BitVec 7) (f g : AReg), Issues i s →
    f = aCode (readRegs s) a → g = affineB s.me.path.lead (readRegs s) b → f.isUniform = true → g.isUniform = true →
    (i = .aand d a b → exec i s = .next (wrote s (formInto s d (uniform (f.base &&& g.base) .raw))))
    ∧ (i = .aor d a b → exec i s = .next (wrote s (formInto s d (uniform (f.base ||| g.base) .raw))))
    ∧ (i = .axor d a b → exec i s = .next (wrote s (formInto s d (uniform (f.base ^^^ g.base) .raw))))
    ∧ (i = .amin d a b → exec i s = .next (wrote s (formInto s d
        (uniform (if f.base.toInt < g.base.toInt then f.base else g.base) .int32))))
    ∧ (i = .amax d a b → exec i s = .next (wrote s (formInto s d
        (uniform (if f.base.toInt < g.base.toInt then g.base else f.base) .int32))))
    ∧ (i = .ashr d a b → exec i s = .next (wrote s (formInto s d
        (uniform (BitVec.ofInt 64 (f.base.toInt / 2 ^ (min g.base.toNat 63))) .int32))))
    ∧ (i = .acmpEq d a b → exec i s = .next (wrote s (formInto s d (uniform (if f.base = g.base then 1 else 0) .int32))))
    ∧ (i = .acmpNe d a b → exec i s = .next (wrote s (formInto s d (uniform (if f.base ≠ g.base then 1 else 0) .int32))))
    ∧ (i = .acmpLt d a b → exec i s = .next (wrote s (formInto s d (uniform (if f.base.toInt < g.base.toInt then 1 else 0) .int32))))
    ∧ (i = .acmpLe d a b → exec i s = .next (wrote s (formInto s d (uniform (if f.base.toInt ≤ g.base.toInt then 1 else 0) .int32))))
    ∧ (i = .acmpLtu d a b → exec i s = .next (wrote s (formInto s d (uniform (if f.base.toNat < g.base.toNat then 1 else 0) .int32))))
    ∧ (i = .acmpLeu d a b → exec i s = .next (wrote s (formInto s d (uniform (if f.base.toNat ≤ g.base.toNat then 1 else 0) .int32)))))
  ∧ (∀ (i : Instr) (s : State) (d a b : BitVec 7), Issues i s → isStand s = true →
    (aCode (readRegs s) a).isUniform = false ∨ (affineB s.me.path.lead (readRegs s) b).isUniform = false →
    (i = .aand d a b ∨ i = .aor d a b ∨ i = .axor d a b ∨ i = .amin d a b ∨ i = .amax d a b ∨ i = .ashr d a b ∨ i = .acmpEq d a b
      ∨ i = .acmpNe d a b ∨ i = .acmpLt d a b ∨ i = .acmpLe d a b ∨ i = .acmpLtu d a b ∨ i = .acmpLeu d a b) →
    exec i s = .next (wordTrap s (trapHere s 0x04 0)))
  ∧ (∀ (s : State) (d a : BitVec 7) (imm : BitVec 11) (f : AReg) (x : Word64), f = aCode (readRegs s) a →
    x = BitVec.ofInt 64 (immI s.me.path.lead imm) →
    (Issues (.aandi d a imm) s → f.isUniform = true →
      exec (.aandi d a imm) s = .next (wrote s (formInto s d (uniform (f.base &&& x) .raw))))
    ∧ (Issues (.aandi d a imm) s → isStand s = true → f.isUniform = false →
      exec (.aandi d a imm) s = .next (wordTrap s (trapHere s 0x04 0)))
    ∧ (Issues (.ashri d a imm) s → isStand s = true → f.isUniform = false →
      exec (.ashri d a imm) s = .next (wordTrap s (trapHere s 0x04 0)))
    ∧ (Issues (.ashri d a imm) s → f.isUniform = true →
      exec (.ashri d a imm) s = .next (wrote s (formInto s d (uniform (BitVec.ofInt 64 (f.base.toInt / 2 ^ (min x.toNat 63))) .int32))))
    ∧ (Issues (.amovi d imm) s → exec (.amovi d imm) s = .next (wrote s (formInto s d
        (uniform x (if (extraOf s.me.path.lead).typ = 17 then .cell else .int32)))))
    ∧ (Issues (.aaddi d a imm) s → imm = 0 → s.me.path.lead.imm = none → s.me.path.lead.extra = none →
      exec (.aaddi d a imm) s = .next (wrote s (formInto s d { f with tag := .raw }))))

/-! ## Integer, bit, byte and lane words (R258 to R271) -/

/-- IADD, ISUB, IMUL, IMULH, IMAD, IMIN, IMAX and IABS: every element of a lane's result is the operation on the elements of its
sources, read as signed or unsigned, and clamped to the type's range with S or else taken modulo 2^n (R263, R264). -/
def Obligations.IntegerWords : Prop :=
  ∀ (i : Instr) (s : State) (d a b : BitVec 7) (f : Nat) (t : Tag) (op : Int → Int → Int → Int), Issues i s →
    ((∃ g : BitVec 4, f = g.toNat ∧ i = .iadd d a b g ∧ op = (fun x y _ => x + y)
        ∧ t = sumTag f (srcTags (readRegs s) (srcOf (readRegs s) s.me.path.lead 0 a.toNat) 1
            ++ srcTags (readRegs s) (srcB (readRegs s) s.me.path.lead b) 1))
      ∨ (∃ g : BitVec 4, f = g.toNat ∧ i = .isub d a b g ∧ op = (fun x y _ => x - y)
        ∧ t = sumTag f (srcTags (readRegs s) (srcOf (readRegs s) s.me.path.lead 0 a.toNat) 1
            ++ srcTags (readRegs s) (srcB (readRegs s) s.me.path.lead b) 1))
      ∨ (∃ g : BitVec 4, f = g.toNat ∧ i = .imul d a b g ∧ op = (fun x y _ => x * y) ∧ t = itypeTag f)
      ∨ (∃ g : BitVec 4, f = g.toNat ∧ i = .imad d a b g ∧ op = (fun x y z => x * y + z) ∧ t = itypeTag f)
      ∨ (∃ g : BitVec 3, f = g.toNat ∧ i = .imulh d a b g ∧ op = (fun x y _ => x * y / Int.ofNat (2 ^ itypeBits f)) ∧ t = itypeTag f)
      ∨ (∃ g : BitVec 3, f = g.toNat ∧ i = .imin d a b g ∧ op = (fun x y _ => min x y) ∧ t = itypeTag f)
      ∨ (∃ g : BitVec 3, f = g.toNat ∧ i = .imax d a b g ∧ op = (fun x y _ => max x y) ∧ t = itypeTag f)
      ∨ (∃ g : BitVec 4, f = g.toNat ∧ i = .iabs d a g ∧ op = (fun x _ _ => Int.ofNat x.natAbs) ∧ t = itypeTag f)) →
    ∃ val : Nat → Word32, Delivers i s d t (itypeSigned f) val
      ∧ ∀ l k, k < 32 / itypeBits f → elemOf (itypeBits f) (val l) k = itypeResult f (8 ≤ f)
          (op (itypeValue f (elemOf (itypeBits f) (laneA s a (itypeBits f) l) k))
            (itypeValue f (elemOf (itypeBits f) (laneB s b (itypeBits f) l) k))
            (itypeValue f (elemOf (itypeBits f)
              (src32 s.me (readRegs s) (itypeBits f) (addend (readRegs s) s.me.path.lead d) l) k)))

/-- ICMP sets a lane's bit of a p register when its condition holds in every element of the lane, in the lanes of p0; SEL takes each
lane's value from A where its p register is set and from B elsewhere, with the tag of both where they agree and else tag 0 (R265, R266). -/
def Obligations.CompareAndSelect : Prop :=
  (∀ (s : State) (d a b : BitVec 7) (g : BitVec 3), Issues (.icmp d a b g) s →
    ∃ m : Word64, exec (.icmp d a b g) s = .next (wrote s (predInto s (d.toNat % 8) m))
      ∧ ∀ l, l < 64 → (m.getLsbD l = true ↔ ∀ k, k < 32 / itypeBits g.toNat →
          ∀ x y : Int, x = itypeValue g.toNat (elemOf (itypeBits g.toNat) (laneA s a (itypeBits g.toNat) l) k) →
            y = itypeValue g.toNat (elemOf (itypeBits g.toNat) (laneB s b (itypeBits g.toNat) l) k) →
            (d.toNat / 8 = 0 → x = y) ∧ (d.toNat / 8 = 1 → x ≠ y) ∧ (d.toNat / 8 = 2 → x < y) ∧ (d.toNat / 8 = 3 → x ≤ y)
              ∧ (d.toNat / 8 = 4 → y < x) ∧ (5 ≤ d.toNat / 8 → y ≤ x)))
  ∧ (∀ (s : State) (d a b : BitVec 7) (g : BitVec 3) (ta tb : List Tag), Issues (.sel d a b g) s →
    ta = srcTags (readRegs s) (srcOf (readRegs s) s.me.path.lead 0 a.toNat) 1 →
    tb = srcTags (readRegs s) (srcB (readRegs s) s.me.path.lead b) 1 →
    Delivers (.sel d a b g) s d (if ta = tb then ta.headD .raw else .raw) false
      fun l => if (pReg s.me (readRegs s) g.toNat).getLsbD l then laneA s a 32 l else laneB s b 32 l)

/-- The bit words (R267) and the lane words (R271): AND, OR, XOR, ANDN, the shifts, which give 0, or copies of bit 31, for an amount of 32 or more, ROTL, POPC,
CLZ, which gives 32 for 0, and BREV; LSHC, which shifts lanes up by F across the pair of its sources, and XPERM, which takes the lane
that each lane of B names, modulo 64. -/
def Obligations.BitAndLaneWords : Prop :=
  ∀ (s : State) (d a b : BitVec 7),
    (Issues (.and d a b) s → Delivers (.and d a b) s d .raw false fun l => laneA s a 32 l &&& laneB s b 32 l)
    ∧ (Issues (.or d a b) s → Delivers (.or d a b) s d .raw false fun l => laneA s a 32 l ||| laneB s b 32 l)
    ∧ (Issues (.xor d a b) s → Delivers (.xor d a b) s d .raw false fun l => laneA s a 32 l ^^^ laneB s b 32 l)
    ∧ (Issues (.andn d a b) s → Delivers (.andn d a b) s d .raw false fun l => laneA s a 32 l &&& ~~~laneB s b 32 l)
    ∧ (Issues (.shl d a b) s → Delivers (.shl d a b) s d .raw false fun l => laneA s a 32 l <<< laneB s b 32 l)
    ∧ (Issues (.shr d a b) s → Delivers (.shr d a b) s d .raw false fun l => laneA s a 32 l >>> laneB s b 32 l)
    ∧ (Issues (.sar d a b) s → Delivers (.sar d a b) s d .raw false fun l => (laneA s a 32 l).sshiftRight (laneB s b 32 l).toNat)
    ∧ (Issues (.rotl d a b) s → Delivers (.rotl d a b) s d .raw false
        fun l => (laneA s a 32 l).rotateLeft ((laneB s b 32 l).toNat % 32))
    ∧ (Issues (.popc d a) s → Delivers (.popc d a) s d .int32 false
        fun l => BitVec.ofNat 32 ((List.range 32).filter fun k => (laneA s a 32 l).getLsbD k).length)
    ∧ (Issues (.clz d a) s → Delivers (.clz d a) s d .int32 false
        fun l => if laneA s a 32 l = 0 then 32 else BitVec.ofNat 32 (31 - Nat.log2 (laneA s a 32 l).toNat))
    ∧ (Issues (.brev d a) s → ∃ val : Nat → Word32, Delivers (.brev d a) s d .raw false val
        ∧ ∀ l k, k < 32 → (val l).getLsbD k = (laneA s a 32 l).getLsbD (31 - k))
    ∧ (∀ f : BitVec 4, Issues (.lshc d a b f) s → Delivers (.lshc d a b f) s d .raw false
        fun l => if f.toNat ≤ l then laneA s a 32 (l - f.toNat) else laneB s b 32 (l + 64 - f.toNat))
    ∧ (Issues (.xperm d a b) s → Delivers (.xperm d a b) s d .raw false fun l => laneA s a 32 ((laneB s b 32 l).toNat % 64))

/-- The byte words: each byte of a lane's result from the bytes of its sources (R269, R270). -/
def Obligations.ByteWords : Prop :=
  ∀ (i : Instr) (s : State) (d a b : BitVec 7) (t : Tag) (w : Nat) (op : Nat → Nat → Nat → Nat → Nat), Issues i s →
    ((i = .bcmpEq d a b ∧ t = .int8 ∧ w = 8 ∧ op = fun _ _ x y => if x = y then 255 else 0)
      ∨ (i = .bcmpLt d a b ∧ t = .int8 ∧ w = 8 ∧ op = fun _ _ x y => if signedOf 8 x < signedOf 8 y then 255 else 0)
      ∨ (i = .bcmpLtu d a b ∧ t = .int8 ∧ w = 8 ∧ op = fun _ _ x y => if x < y then 255 else 0)
      ∨ (i = .baddsI8 d a b ∧ t = .int8 ∧ w = 8
          ∧ op = fun _ _ x y => wrapInt 8 (max (-128) (min 127 (signedOf 8 x + signedOf 8 y))))
      ∨ (i = .baddsN8 d a b ∧ t = .int8 ∧ w = 8 ∧ op = fun _ _ x y => (max 0 (min 255 (Int.ofNat x + signedOf 8 y))).toNat)
      ∨ (i = .bshuf d a b ∧ t = .raw ∧ w = 32
          ∧ op = fun l _ _ y => if 128 ≤ y then 0 else elemOf 8 (laneA s a 32 l) (y % 4))
      ∨ (i = .blut d a b ∧ t = .raw ∧ w = 32
          ∧ op = fun _ _ x _ => tableByte (readRegs s) (b.toNat - 64) (x / 16) &&& tableByte (readRegs s) (b.toNat - 62) (x % 16))) →
    ∃ val : Nat → Word32, Delivers i s d t false val
      ∧ ∀ l k, k < 4 → elemOf 8 (val l) k = op l k (elemOf 8 (laneA s a w l) k) (elemOf 8 (laneB s b w l) k)

/-! ## Floating-point words (R84, R272 to R283) -/

/-- The floating-point words whose results are registers: with no enabled flag raised by an active lane, the lanes of p0 are written
with the results, in a pair of registers for 64 bits, their LFSRs step, and the flags enter FLG; an enabled flag traps with 0x10 in the
lowest lane that raised one, with no lane and no LFSR written (R59, R80, R84, R276). -/
def Obligations.FloatWords : Prop :=
  ∀ (i : Instr) (s : State) (d a : BitVec 7) (f : Nat) (srcs : List Src) (op : Fmt → Round → List Nat → FRes) (b : BitVec 7) (g : BitVec 4),
    Issues i s →
    ((i = .fadd d a b g ∧ f = g.toNat ∧ srcs = pairOf a b s ∧ op = fun t r l => fAdd t r false (opd l 0) (opd l 1))
      ∨ (i = .fsub d a b g ∧ f = g.toNat ∧ srcs = pairOf a b s ∧ op = fun t r l => fAdd t r true (opd l 0) (opd l 1))
      ∨ (i = .fmul d a b g ∧ f = g.toNat ∧ srcs = pairOf a b s ∧ op = fun t r l => fMul t r (opd l 0) (opd l 1))
      ∨ (i = .fma d a b g ∧ f = g.toNat ∧ srcs = pairOf a b s ++ [addend (readRegs s) s.me.path.lead d]
          ∧ op = fun t r l => fFma t r (opd l 0) (opd l 1) (opd l 2))
      ∨ (i = .fmin d a b ∧ f = 0 ∧ srcs = pairOf a b s ∧ op = fun t r l => fMinMax false t r (opd l 0) (opd l 1))
      ∨ (i = .fmax d a b ∧ f = 0 ∧ srcs = pairOf a b s ∧ op = fun t r l => fMinMax true t r (opd l 0) (opd l 1))
      ∨ (i = .fdiv d a b g ∧ f = g.toNat ∧ srcs = pairOf a b s ∧ op = fun t r l => fDiv t r (opd l 0) (opd l 1))
      ∨ (i = .fsqrt d a g ∧ f = g.toNat ∧ srcs = [fSrc s 0 a.toNat] ∧ op = fun t r l => fUnit 0 t r (opd l 0))
      ∨ (i = .frcp d a g ∧ f = g.toNat ∧ srcs = [fSrc s 0 a.toNat] ∧ op = fun t r l => fUnit 1 t r (opd l 0))
      ∨ (i = .frsq d a g ∧ f = g.toNat ∧ srcs = [fSrc s 0 a.toNat] ∧ op = fun t r l => fUnit 2 t r (opd l 0))
      ∨ (i = .fexp2 d a g ∧ f = g.toNat ∧ srcs = [fSrc s 0 a.toNat] ∧ op = fun t r l => fUnit 3 t r (opd l 0))
      ∨ (i = .flog2 d a g ∧ f = g.toNat ∧ srcs = [fSrc s 0 a.toNat] ∧ op = fun t r l => fUnit 4 t r (opd l 0))
      ∨ (i = .fsin d a g ∧ f = g.toNat ∧ srcs = [fSrc s 0 a.toNat] ∧ op = fun t r l => fUnit 5 t r (opd l 0))
      ∨ (i = .fcos d a g ∧ f = g.toNat ∧ srcs = [fSrc s 0 a.toNat] ∧ op = fun t r l => fUnit 6 t r (opd l 0))) →
    (typeBits (fpType s.me.path.lead) = 64 → isA d = false) →
    FloatEnds i s (floatLanes s f srcs op) d (if typeBits (fpType s.me.path.lead) = 64 then 2 else 1)
      (typeTag (fpType s.me.path.lead)) false

/-- A significand with low bits rounded away: exact where those are 0; else the neighbour that the rounding code names, the nearest
with ties to even or away, toward zero, up or down (R79). -/
def Obligations.RoundingRule : Prop :=
  ∀ (u : Nat) (neg : Bool) (sig drop : Nat),
    (∀ c, (roundBits c u neg sig drop).2 = decide (sig % 2 ^ drop ≠ 0))
    ∧ (∀ c, sig % 2 ^ drop = 0 → (roundBits c u neg sig drop).1 * 2 ^ drop = sig)
    ∧ (∀ c, (roundBits c u neg sig drop).1 = sig / 2 ^ drop ∨ (roundBits c u neg sig drop).1 = sig / 2 ^ drop + 1)
    ∧ (∀ c, c = 1 ∨ c = 5 → 2 * (roundBits c u neg sig drop).1 * 2 ^ drop ≤ 2 * sig + 2 ^ drop
        ∧ 2 * sig ≤ 2 * (roundBits c u neg sig drop).1 * 2 ^ drop + 2 ^ drop)
    ∧ (2 * (sig % 2 ^ drop) = 2 ^ drop → (roundBits 1 u neg sig drop).1 % 2 = 0)
    ∧ (2 * (sig % 2 ^ drop) = 2 ^ drop → (roundBits 5 u neg sig drop).1 = sig / 2 ^ drop + 1)
    ∧ (roundBits 2 u neg sig drop).1 = sig / 2 ^ drop
    ∧ (roundBits 3 u true sig drop).1 = sig / 2 ^ drop ∧ (sig ≤ (roundBits 3 u false sig drop).1 * 2 ^ drop)
    ∧ (roundBits 4 u false sig drop).1 = sig / 2 ^ drop ∧ (sig ≤ (roundBits 4 u true sig drop).1 * 2 ^ drop)

/-- FCMP writes a p register's bits in the lanes of p0, under the rule of R84 for enabled flags (R278); FCLASS writes a class bit per
element and raises no flag (R280). -/
def Obligations.FloatTests : Prop :=
  (∀ (s : State) (d a b : BitVec 7) (t : Nat) (cmp : Nat → Bool × Nat), Issues (.fcmp d a b) s → t = fpType s.me.path.lead →
    (∀ l, cmp l = fCompare (d.toNat / 8) (fmtOf t)
      (readOperand (fmtOf t) (modeFzi (readRegs s).mode) (floatSrc s (fSrc s 0 a.toNat) (typeBits t) l))
      (readOperand (fmtOf t) (modeFzi (readRegs s).mode) (floatSrc s (fSrc s 1 b.toNat) (typeBits t) l))) →
    (NoneEnabled s (fun l => (cmp l).2) →
      ∃ m : Word64, (∀ l, l < 64 → m.getLsbD l = (cmp l).1)
        ∧ exec (.fcmp d a b) s = .next (wrote s (flagged (predInto s (d.toNat % 8) m) (flagsOf s fun l => (cmp l).2))))
    ∧ (∀ l, FirstEnabled s (fun l => (cmp l).2) l →
      exec (.fcmp d a b) s = .next (wordTrap
        { s with me := { s.me with regs := flagged s.me.regs (flagsOf s fun l => (cmp l).2) } }
        (trapLane 0x10 (cmp l).2 (wordAddr s) l))))
  ∧ (∀ (s : State) (d a : BitVec 7) (t : Nat), Issues (.fclass d a) s → t = fpType s.me.path.lead →
    ∃ val : Nat → Word32, Delivers (.fclass d a) s d .int32 false val
      ∧ ∀ l k c, k < floatElems t → ((val l).getLsbD (16 * k + c) = true ∧ c < 16 ↔
          c = fClass (fmtOf t) (bitsOf (floatSrc s (fSrc s 0 a.toNat) (typeBits t) l) (k * typeBits t) (typeBits t))))

/-- CVT converts each element of its source group, rounds under its code and saturates with S or SATD (R88, R281 to R283). -/
def Obligations.ConvertWord : Prop :=
  ∀ (s : State) (d a : BitVec 7) (dt : BitVec 5) (f : BitVec 4) (st : Nat), Issues (.cvt d a dt f) s → st = fpType s.me.path.lead →
    FloatEnds (.cvt d a dt f) s
      (fun l => laneElems (roundOf (readRegs s).mode (f.toNat % 8) (decide (8 ≤ f.toNat) || (readRegs s).mode.getLsbD 6)) (typeBits dt.toNat)
        (fun k r => cvtElem r (modeFzi (readRegs s).mode) st (typeBits st) dt.toNat (typeBits dt.toNat)
          (groupElem s (fSrc s 0 a.toNat) (typeBits st) k l)) (vget s.me.regs.lfsr l 0) (cvtElems st dt.toNat))
      d (cvtElems st dt.toNat * typeBits dt.toNat / 32) (typeTag dt.toNat) (dt.toNat < 8 ∧ dt.toNat % 2 = 1)

/-- VSCAN gives each active lane the combination of the active lanes up to it, in lane order: the lowest its own operand, each other
the result of the active lane before it combined with its operand, rounded once with its own LFSR. VRED gives every active lane the root of
the tree of R93: node i of a level combines nodes 2i and 2i + 1 of the level below, with the LFSR of the lowest active lane under it, and
passes a lone child on. An operand is read under FZI (R86). For the 32-bit sum the two are the sums, modulo 2^32, and raise no flag (R93,
R272, R273). That a combination flushes a subnormal intermediate result under FZI is log entry 76, that its flags are those of the lowest
lane under its node log entry 77, and that a value delivered without a combination meets FZO, and a NaN as it is, log entry 97. -/
def Obligations.ScanWords : Prop :=
  ∀ (s : State) (d a : BitVec 7) (f : BitVec 4) (one : Nat → FRes), (scanBits f.toNat = 64 → isA d = false) →
    one = scanOne f.toNat ((readRegs s).mode.getLsbD 4) →
    ∀ (x : Nat → Nat) (comb : Word32 → Nat → Nat → FRes × Word32),
    (∀ l, x l = scanRead f.toNat (modeFzi (readRegs s).mode) (floatSrc s (fSrc s 0 a.toNat) (scanBits f.toNat) l)) →
    (∀ u p q, comb u p q = stepOp (roundOf (readRegs s).mode ((extraOf s.me.path.lead).aux % 8) false) u
      fun r => scanOp f.toNat (modeFzi (readRegs s).mode) r p q) →
    (Issues (.vscan d a f) s → ∀ res : Nat → LaneRes,
      (∀ l, lowestLane s.me.path.mask = some l → res l = ⟨(one (x l)).bits, orFlags 0 (one (x l)).flags, vget s.me.regs.lfsr l 0⟩) →
      (∀ k l, s.me.path.mask.getLsbD k = true → s.me.path.mask.getLsbD l = true → k < l →
        (∀ j, k < j → j < l → s.me.path.mask.getLsbD j = false) →
        res l = ⟨(comb (vget s.me.regs.lfsr l 0) (res k).val (x l)).1.bits, orFlags 0 (comb (vget s.me.regs.lfsr l 0) (res k).val (x l)).1.flags,
          (comb (vget s.me.regs.lfsr l 0) (res k).val (x l)).2⟩) →
      FloatEnds (.vscan d a f) s res d (scanBits f.toNat / 32) (scanTag f.toNat) (f.toNat < 3)
      ∧ (f = 0#4 → ∀ l, s.me.path.mask.getLsbD l = true → (res l).flags = 0
          ∧ (res l).val = ((lanesOf s.me.path.mask).filter fun k => decide (k ≤ l)).foldl (fun acc k => (acc + x k) % 2 ^ 32) 0))
    ∧ (Issues (.vred d a f) s → ∀ (node : Nat → Nat → Option (Nat × Nat)) (at_ : Nat → Nat → LaneRes),
      (∀ i, node 0 i = if s.me.path.mask.getLsbD i then some (i, x i) else none) →
      (∀ l, at_ 0 l = ⟨0, 0, vget s.me.regs.lfsr l 0⟩) →
      (∀ j i, j < 6 → (node j (2 * i) = none → node (j + 1) i = node j (2 * i + 1))
        ∧ (node j (2 * i + 1) = none → node (j + 1) i = node j (2 * i))
        ∧ (∀ l p m q, node j (2 * i) = some (l, p) → node j (2 * i + 1) = some (m, q) →
            node (j + 1) i = some (l, (comb (at_ j l).lfsr p q).1.bits)
            ∧ at_ (j + 1) l = ⟨0, orFlags (at_ j l).flags (comb (at_ j l).lfsr p q).1.flags, (comb (at_ j l).lfsr p q).2⟩)) →
      (∀ j l, j < 6 → (∀ i p, node j (2 * i) = some (l, p) → node j (2 * i + 1) = none) → at_ (j + 1) l = at_ j l) →
      (∀ res : Nat → LaneRes, (∀ l, res l = match node 6 0 with
          | none => ⟨0, (at_ 6 l).flags, (at_ 6 l).lfsr⟩
          | some (m, p) => ⟨(one p).bits, if l = m then orFlags (at_ 6 l).flags (one p).flags else (at_ 6 l).flags, (at_ 6 l).lfsr⟩) →
        FloatEnds (.vred d a f) s res d (scanBits f.toNat / 32) (scanTag f.toNat) (f.toNat < 3)
        ∧ (f = 0#4 → ∀ l, s.me.path.mask.getLsbD l = true → (res l).flags = 0
          ∧ (res l).val = (lanesOf s.me.path.mask).foldl (fun acc k => (acc + x k) % 2 ^ 32) 0)))

/-! ## Loads, stores and atomics (R98 to R114, R284 to R299) -/

/-- LDG, LDG.F and LDK: an access that fails traps; one that passes, with nothing to wait for, loads each active lane's value, LDK
the lowest lane's into all, and changes no byte of memory. Read at its home, a lane's value is that of the bytes at its physical
address, with the task's own version bytes over them, little-endian (R5, R107, R289, R290); of a line with an uncorrectable error, it
traps with 0x21 (R389). The detail of that trap is log entry 73, and that a read takes effect at its home in the word's own step log entry 7. -/
def Obligations.GlobalLoads : Prop :=
  ∀ (i : Instr) (s : State) (data : BitVec 7) (base index : BitVec 5) (scale : BitVec 2) (disp : BitVec 6) (t size : Nat)
    (lanes : List Nat) (bad : PaKind → Bool) (pick : Nat → Nat), Issues i s → t = memType s.me.path.lead data → size = typeSize t →
    ((i = .ldg data base index scale disp ∧ lanes = lanesOf s.me.path.mask ∧ bad = anyKind ∧ pick = id)
      ∨ (i = .ldgF data base index scale disp ∧ lanes = lanesOf s.me.path.mask ∧ bad = anyKind ∧ pick = id)
      ∨ (i = .ldk data base scale disp ∧ index = 31#5 ∧ lanes = [electedLane s] ∧ bad = noMmio ∧ pick = fun _ => electedLane s)) →
    (∀ k, access .read true bad size (wordAddrs s base index scale disp size) lanes s = .trap k → exec i s = .next (wordTrap s k))
    ∧ (∀ q spots, access .read true bad size (wordAddrs s base index scale disp size) lanes s = .ok (q, spots) → Quiet s →
      ∃ (u : State) (val : Nat → Nat), exec i s = .next u
        ∧ ReadsOnly s q u (loadedInto s (dataReg data) t size fun l => val (pick l))
        ∧ ((i = .ldgF data base index scale disp ∨ (spots.length = 1 ∧ s.core.cache = [])) →
            ∀ a ∈ spots, ∀ p, a.parts = [p] → Plain q p → val a.lane = heldAt q p.pa size))
    ∧ (∀ q a p, access .read true bad size (wordAddrs s base index scale disp size) lanes s = .ok (q, [a]) → a.parts = [p] →
      s.flight = [] → homeDown q p.pa p.home = false → s.me.loadAfter ≤ myTime s → lineBad q p.pa = true →
      (i = .ldgF data base index scale disp ∨ s.core.cache = []) →
      exec i s = .next (wordTrap s (trapLane 0x21 (roleCode .off) p.va a.lane)))

/-- ALD of a uniform address: one load as LDG's, its value extended to 64 bits in a uniform form with the tag of its type (R242).
PREF writes no register and stores nothing: the requests it sends are fills (R292). -/
def Obligations.AffineLoadAndPrefetch : Prop :=
  (∀ (s : State) (data : BitVec 7) (base : BitVec 5) (disp : BitVec 6) (t : Nat) (q : State) (spots : List Spot),
      Issues (.ald data base disp) s → t = (extraOf s.me.path.lead).typ → (aReg (readRegs s) base.toNat).isUniform = true →
      access .read true anyKind (aldSize t) (memAddr s.me (readRegs s) base 31#5 0#2 disp (aldSize t)) [electedLane s] s = .ok (q, spots) →
      Quiet s →
      ∃ (u : State) (x : Nat), exec (.ald data base disp) s = .next u
        ∧ ReadsOnly s q u (formInto s data (uniform (aldValue t x) (aldTag t)))
        ∧ (s.core.cache = [] → ∀ a p, spots = [a] → a.parts = [p] → Plain q p → x = heldAt q p.pa (aldSize t)))
  ∧ (∀ (s : State) (base index : BitVec 5) (scale : BitVec 2) (disp : BitVec 6), Issues (.pref base index scale disp) s →
      ∃ t, exec (.pref base index scale disp) s = .next t ∧ t.me = { s.me with path := stepPast s.me.path } ∧ t.ctxs = s.ctxs
        ∧ t.task = s.task ∧ (∀ q ∈ t.flight, q ∈ s.flight ∨ q.writes = false))

/-- STG: an access that fails traps; one that passes, of a task without version bytes to write, sends each lane's bytes to their home as
a request of its own, in ascending lanes, so that the highest lane's is last, and exposes the task; no byte of memory changes before they
execute (R99, R101, R105, R109, R179, R291). That stores travel is log entry 7. -/
def Obligations.GlobalStores : Prop :=
  ∀ (s : State) (data : BitVec 7) (base index : BitVec 5) (scale : BitVec 2) (disp : BitVec 6) (size : Nat),
    Issues (.stg data base index scale disp) s → size = typeSize (memType s.me.path.lead data) →
    (∀ k, access .write false anyKind size (wordAddrs s base index scale disp size) (lanesOf s.me.path.mask) s = .trap k →
      exec (.stg data base index scale disp) s = .next (wordTrap s k))
    ∧ (∀ q spots, access .write false anyKind size (wordAddrs s base index scale disp size) (lanesOf s.me.path.mask) s = .ok (q, spots) →
      s.flight = [] → s.task.vmode = false →
      ∃ t : State, exec (.stg data base index scale disp) s = .next t
        ∧ t.flight = (spots.flatMap fun a => a.parts.map fun p =>
            ⟨s.me.id, s.task.tid, s.task.core, s.task.part, p.va, p.pa, p.home, 0, .store (storeBytes (readRegs s) (dataReg data) size a.lane)⟩)
        ∧ t.mem = q.mem ∧ t.me.regs = s.me.regs ∧ t.me.path = stepPast s.me.path ∧ t.ctxs = s.ctxs
        ∧ t.task.pad = s.task.pad ∧ (spots ≠ [] → (∀ a ∈ spots, a.parts ≠ []) → t.task.exposed = true))

/-- A request on its way executes at its home: a store's bytes, an exact add's cell, are written at its physical address and no other
byte of memory changes; a fill changes none; behind an earlier write of its task to the same line, an exact add behind an earlier one of
its context, and without such a request, nothing changes (R95, R104, R105, R185, R187, R291). The capability page is left out: no write
changes it (R417). That such accesses travel is log entry 7. -/
def Obligations.HomeRequests : Prop :=
  (∀ (s : State) (n : Nat) (q : Req) (bytes : List Byte),
    (s.flight.filter fun r => match r.kind with | .store _ => true | _ => false)[n]? = some q → q.kind = .store bytes →
    (behindOther s q = true → exec (.homeStore n) s = .next s)
    ∧ (behindOther s q = false → hostHolds s q.pa = false → HomesOpen s → paKind q.pa ≠ some .mmio →
      inCapPage s q.pa = false → sealed s q.part (placeOf s q.pa) = false → s.mem.wf = true →
      ∃ t, exec (.homeStore n) s = .next t ∧ WritesAt s.mem t.mem (placeOf s q.pa) bytes))
  ∧ (∀ (s : State) (n : Nat) (q : Req) (v : Addend),
    (s.flight.filter fun r => match r.kind with | .exactAdd _ => true | _ => false)[n]? = some q → q.kind = .exactAdd v →
    (behindOther s q = true → exec (.homeAtomic n) s = .next s)
    ∧ (behindOther s q = false → hostHolds s q.pa = false → HomesOpen s → s.dev.swaps = [] → paKind q.pa ≠ some .mmio →
      inCapPage s q.pa = false → sealed s q.part q.pa = false → s.mem.wf = true →
      ∃ t, exec (.homeAtomic n) s = .next t
        ∧ WritesAt s.mem t.mem q.pa (bytesLE 64 (cellAdd (ofBytesLE (s.mem.getBytes q.pa 64)) v))))
  ∧ (∀ (s : State) (n : Nat), ∃ t, exec (.homeLoad n) s = .next t ∧ t.mem = s.mem ∧ t.me.regs = s.me.regs)
  ∧ (∀ (s : State) (n : Nat), s.flight = [] →
    exec (.homeStore n) s = .next s ∧ exec (.homeAtomic n) s = .next s ∧ exec (.homeLoad n) s = .next s)

/-- A write of a resident line after a lease of it gets a WCT that no lease granted before outlives: at least the home's time and at least
every expiry granted (R104, R105); and one that executes before a commit of the line has its commit time executes below that time
(R181). -/
def Obligations.WriteTimesCoverLeases : Prop :=
  ∀ (s u : State) (part pa home lease e w : Nat) (bytes : List Byte), s.dev.swaps = [] → home < 256 →
    (lineState s (lineOf pa) home).resident = true →
    grantLease s pa home lease = (u, e) → (storeAtHome u part pa home bytes).2 = w →
    e = homeClock s home + lease
    ∧ ((∀ t ∈ commitTimes s pa, homeClock s home + lease < t ∧ (lineState s (lineOf pa) home).expiry < t) →
      e ≤ w ∧ homeClock s home ≤ w ∧ (lineState s (lineOf pa) home).expiry ≤ w)
    ∧ (∀ t ∈ commitTimes s pa, 0 < t → w < t)

/-- ATOMG: old values into D, and the task exposed; of one lane, the location at its home takes the new value of R297 and no other
byte of memory changes (R113, R297, R298). One lane that the network reports as failed traps with 0x19 and no result, with bit 0 of its
detail set where its effect is confirmed; where not, memory is as it was (R113, R394). -/
def Obligations.GlobalAtomics : Prop :=
  ∀ (s : State) (d : BitVec 7) (areg : BitVec 5) (b : BitVec 7) (f : BitVec 4) (t bits : Nat),
    Issues (.atomg d areg b f) s → t = atomType s.me.path.lead f → bits = typeBits t →
    (∀ k, access .rmw false (atomBad f bits) (bits / 8) (atomAddr s areg) (atomLanes s d) s = .trap k →
      exec (.atomg d areg b f) s = .next (wordTrap s k))
    ∧ (∀ q spots, access .rmw false (atomBad f bits) (bits / 8) (atomAddr s areg) (atomLanes s d) s = .ok (q, spots) → Quiet s →
      s.dev.hostHeld = [] →
      (∀ a, spots = [a] → (netLanes q spots).1 = [a.lane] → ∃ u,
        exec (.atomg d areg b f) s = .next (wordTrap u (trapLane 0x19 (bitNat ((netLanes q spots).2.contains a.lane)) a.va a.lane))
        ∧ u.me.path = s.me.path ∧ (isA d = true → u.me.regs = s.me.regs) ∧ ((netLanes q spots).2 = [] → u.mem = q.mem))
      ∧ (s.me.netError = none → ∃ u, exec (.atomg d areg b f) s = .next u ∧ u.task.exposed = true ∧ u.me.path = stepPast s.me.path ∧ u.ctxs = s.ctxs)
      ∧ (∀ a p, s.me.netError = none → spots = [a] → a.parts = [p] → Plain q p → q.dev.swaps = [] → q.mem.wf = true →
        ∃ u x, exec (.atomg d areg b f) s = .next u ∧ x = ofBytesLE (q.mem.getBytes p.pa (bits / 8))
          ∧ WritesAt q.mem u.mem p.pa (bytesLE (bits / 8) (atomNew f.toNat t bits x (atomOperand s b bits a.lane) (atomCompare s d bits a.lane)))
          ∧ (isA d = true → u.me.regs = formInto s d (uniform
              (if t = 5 then BitVec.ofInt 64 (signedOf 32 x) else BitVec.ofNat 64 x) (typeTag t)))
          ∧ (isA d = false → u.me.regs = groupInto s (typeTag t) (fun _ => x) d.toNat (if bits = 64 then 2 else 1) s.me.regs)))

/-- LDP and STP: in the pad, with nothing to wait for, a lane loads the bytes at its offset; a store writes them, the highest lane's
where lanes store to one byte, sets every line it writes full and leaves memory and every other pad byte (R55, R99, R293); ATOMP of one
lane writes the new value of R297 and gives the old one (R299); a misaligned offset traps with 0x08 and one outside the pad with 0x0A,
detail 16 (R45, R287). Bytes with an uncorrectable error, which a load and an atomic trap on with 0x21 (R70), and waiters that are served first (R56), are ruled out for
the results; LDP of such bytes in its first lane traps. -/
def Obligations.PadWords : Prop :=
  ∀ (s : State) (base index : BitVec 5) (scale : BitVec 2) (disp : BitVec 6) (data : BitVec 7) (t size : Nat) (off : Nat → Nat),
    t = memType s.me.path.lead data → size = typeSize t → off = wordAddrs s base index scale disp size →
    (Issues (.ldp data base index scale disp) s →
      (∀ l ∈ lanesOf s.me.path.mask, padTrap s.task (off l) size l = none ∧ emptyIn s.task (off l) size l = []) → s.core.clearing = none →
      (∀ l rest, lanesOf s.me.path.mask = l :: rest → padBad s.task 0 (off l) size = true →
        exec (.ldp data base index scale disp) s = .next (wordTrap s (trapLane 0x21 (roleCode .pad) (off l) l)))
      ∧ (s.task.badPad = [] → exec (.ldp data base index scale disp) s =
        .next (wrote s (loadedInto s (dataReg data) t size fun l => ofBytesLE (s.task.pad.getBytes (off l) size)))))
    ∧ (Issues (.stp data base index scale disp) s →
      (∀ l ∈ lanesOf s.me.path.mask, padTrap s.task (off l) size l = none) → s.core.clearing = none → s.core.matq = [] →
      (∀ k, servedFirst s s.task k = false) → s.task.pad.wf = true →
      ∃ k : Task, exec (.stp data base index scale disp) s = .next { wrote s s.me.regs with task := k }
        ∧ { k with pad := s.task.pad, empty := s.task.empty, badPad := s.task.badPad } = s.task
        ∧ (∀ o, k.pad.get o = ((lanesOf s.me.path.mask).reverse.findSome? fun l =>
            if off l ≤ o ∧ o < off l + size then (storeBytes (readRegs s) (dataReg data) size l)[o - off l]? else none).getD (s.task.pad.get o))
        ∧ (∀ n, n ∈ k.empty ↔ n ∈ s.task.empty ∧ ∀ l ∈ lanesOf s.me.path.mask, n ∉ linesOf (off l) size))
    ∧ (∀ l k, (Issues (.ldp data base index scale disp) s ∨ Issues (.stp data base index scale disp) s) →
      firstTrap (fun l => padTrap s.task (off l) size l) (lanesOf s.me.path.mask) = some k → l = k.lane →
      (Issues (.ldp data base index scale disp) s → exec (.ldp data base index scale disp) s = .next (wordTrap s k))
      ∧ (Issues (.stp data base index scale disp) s → exec (.stp data base index scale disp) s = .next (wordTrap s k))
      ∧ (k = trapLane 0x08 0 (off l) l ∨ k = trapLane 0x0A 16 (off l) l))
    ∧ (∀ (d b : BitVec 7) (areg : BitVec 5) (f : BitVec 4) (ty bits l x : Nat), Issues (.atomp d areg b f) s →
      ty = atomType s.me.path.lead f → bits = typeBits ty → atomLanes s d = [l] →
      padTrap s.task (atomAddr s areg l) (bits / 8) l = none → emptyIn s.task (atomAddr s areg l) (bits / 8) l = [] →
      s.core.clearing = none → s.core.matq = [] → (∀ k, servedFirst s s.task k = false) → s.task.badPad = [] →
      s.task.pad.wf = true → x = ofBytesLE (s.task.pad.getBytes (atomAddr s areg l) (bits / 8)) →
      ∃ k : Task, { k with pad := s.task.pad, empty := s.task.empty } = s.task
        ∧ WritesAt s.task.pad k.pad (atomAddr s areg l)
            (bytesLE (bits / 8) (atomNew f.toNat ty bits x (atomOperand s b bits l) (atomCompare s d bits l)))
        ∧ (isA d = true → exec (.atomp d areg b f) s = .next { wrote s (formInto s d (uniform
            (if ty = 5 then BitVec.ofInt 64 (signedOf 32 x) else BitVec.ofNat 64 x) (typeTag ty))) with task := k })
        ∧ (isA d = false → exec (.atomp d areg b f) s = .next { wrote s
            (groupInto s (typeTag ty) (fun _ => x) d.toNat (if bits = 64 then 2 else 1) s.me.regs) with task := k }))

/-- XSUM sends one exact add per element of each active lane to its cell's home, in ascending lanes and elements, and exposes its task (own
earlier writes to those lines would execute first, R185); that they travel is log entry 7. Where a lane's cell lies in a line of memory that
cannot be read, XSUM traps with 0x21 in the first such lane, with no add sent (R389, log entry 73).
SUMRD reads a sum cell of the pad, or of global memory at its home, as the f32 or f64 value of R96 (R284, R285). -/
def Obligations.SumCells : Prop :=
  ∀ (s : State) (base index : BitVec 5) (scale : BitVec 2) (disp : BitVec 6) (data : BitVec 7) (f : Nat),
    f = (if data.getLsbD 6 then 11 else 10) →
    (∀ q spots, Issues (.xsum data base index scale disp) s →
      access .rmw false noHost 64 (wordAddrs s base index scale disp 64) (lanesOf s.me.path.mask) s = .ok (q, spots) →
      (∀ r ∈ s.flight, r.task = s.task.tid → r.writes = true → ∀ a ∈ spots, ∀ p ∈ a.parts, linesOrdered (r.pa / 128) (p.pa / 128) = false) →
      (∀ k, spotsTrap q spots = some k → exec (.xsum data base index scale disp) s = .next (wordTrap s k))
      ∧ (spotsTrap q spots = none → ∃ t, exec (.xsum data base index scale disp) s = .next t ∧ t.mem = q.mem ∧ t.me.regs = s.me.regs ∧ t.me.path = stepPast s.me.path
        ∧ t.task.exposed = true
        ∧ t.flight = q.flight ++ spots.flatMap fun a => a.parts.flatMap fun p =>
            (xsumAddends (readRegs s) (xsumType s.me.path.lead data) (dataReg data) a.lane).map fun v =>
              ⟨s.me.id, s.task.tid, s.task.core, s.task.part, p.va, p.pa, p.home, 0, .exactAdd v⟩))
    ∧ (Issues (.sumrd data base index scale disp) s → (extraOf s.me.path.lead).aux % 2 = 1 →
      (∀ l ∈ lanesOf s.me.path.mask, padTrap s.task (wordAddrs s base index scale disp 64 l) 64 l = none
        ∧ emptyIn s.task (wordAddrs s base index scale disp 64 l) 64 l = []) → s.core.clearing = none → s.task.badPad = [] →
      exec (.sumrd data base index scale disp) s = .next (wrote s (groupInto s (if f = 11 then .f64 else .f32)
        (fun l => cellRead (fmtOf f) (ofBytesLE (s.task.pad.getBytes (wordAddrs s base index scale disp 64 l) 64)))
        (dataReg data) (if f = 11 then 2 else 1) s.me.regs)))
    ∧ (∀ q spots, Issues (.sumrd data base index scale disp) s → (extraOf s.me.path.lead).aux % 2 = 0 → Quiet s →
      access .read false noMmio 64 (wordAddrs s base index scale disp 64) (lanesOf s.me.path.mask) s = .ok (q, spots) →
      ∃ (t : State) (val : Nat → Nat), exec (.sumrd data base index scale disp) s = .next t
        ∧ ReadsOnly s q t (groupInto s (if f = 11 then .f64 else .f32) (fun l => cellRead (fmtOf f) (val l))
            (dataReg data) (if f = 11 then 2 else 1) s.me.regs)
        ∧ ∀ a ∈ spots, ∀ p, a.parts = [p] → Plain q p → val a.lane = heldAt q p.pa 64)

/-! ## Order, synchronisation, messages, glade, copies (R105 to R129, R300 to R315) -/

/-- FENCE completes once every write of its context has returned and canopy time has reached the pending horizon + 4 ns, and waits
before (R106, R305). CSEAL and MSEAL put the context's unsealed operations of a family into its next batch, and wait while 8 batches are pending (R123, R302, R326); CWAIT and
MWAIT of a batch that is not pending and has not failed bring its WCTs into the pending horizon, wait while it is pending, and of a failed
one raise its first fault, once (R124, R303, R326). TLBINV drops the translations of a page, or of the partition, completes when no access or swap pair holds one, and
waits before (R315). -/
def Obligations.OrderingWords : Prop :=
  (∀ s : State, Issues .fence s →
    ((∀ q ∈ s.flight, q.ctx = s.me.id → q.kind = .fill) → s.me.horizon + 4 ≤ myTime s → exec .fence s = .next (past s))
    ∧ ((∃ q ∈ s.flight, q.ctx = s.me.id ∧ q.kind ≠ .fill) ∨ myTime s < s.me.horizon + 4 → exec .fence s = .next (wordStall s .fence)))
  ∧ (∀ s : State, Issues .cseal s →
    (pendingCount s.task s.me.copyBat < 8 → exec .cseal s = .next (past { s with
      nextOp := s.nextOp + 1
      me := { s.me with copyBat := batchNext s.me.copyBat s.nextOp }
      task := { s.task with ops := s.task.ops.map fun o =>
        if o.ctx = s.me.id ∧ o.matrix = false ∧ o.batch = none then { o with batch := some s.nextOp } else o } }))
    ∧ (8 ≤ pendingCount s.task s.me.copyBat → exec .cseal s = .next (wordStall s .batch)))
  ∧ (∀ s : State, Issues .mseal s →
    (pendingCount s.task s.me.matBat < 8 → exec .mseal s = .next (past { s with
      nextOp := s.nextOp + 1
      me := { s.me with matBat := batchNext s.me.matBat s.nextOp }
      task := { s.task with ops := s.task.ops.map fun o =>
        if o.ctx = s.me.id ∧ o.matrix = true ∧ o.batch = none then { o with batch := some s.nextOp } else o } }))
    ∧ (8 ≤ pendingCount s.task s.me.matBat → exec .mseal s = .next (wordStall s .batch)))
  ∧ (∀ (s : State) (b : BitVec 7), Issues (.cwait b) s →
    (batchPending s.task s.me.copyBat b.toNat = false → batchFailed s.task s.me.copyBat b.toNat = false →
      exec (.cwait b) s = .next (past (raiseWrite s (batchWct s.task s.me.copyBat b.toNat))))
    ∧ (batchPending s.task s.me.copyBat b.toNat = true → exec (.cwait b) s = .next (wordStall s .batch))
    ∧ (∀ k, batchPending s.task s.me.copyBat b.toNat = false → batchFailed s.task s.me.copyBat b.toNat = true →
      batchFault s.task s.me.copyBat b.toNat = some k → ∃ u, exec (.cwait b) s = .next (wordTrap u { k with lane := electedLane s })
        ∧ u.me.copyBat = { s.me.copyBat with taken := s.me.copyBat.taken ||| (1#16 <<< b.toNat) } ∧ u.me.regs = s.me.regs ∧ u.mem = s.mem))
  ∧ (∀ (s : State) (b : BitVec 4), Issues (.mwait b) s →
    (batchPending s.task s.me.matBat b.toNat = false → batchFailed s.task s.me.matBat b.toNat = false →
      exec (.mwait b) s = .next (past (raiseHorizon s (batchWct s.task s.me.matBat b.toNat))))
    ∧ (batchPending s.task s.me.matBat b.toNat = true → exec (.mwait b) s = .next (wordStall s .batch))
    ∧ (∀ k, batchPending s.task s.me.matBat b.toNat = false → batchFailed s.task s.me.matBat b.toNat = true →
      batchFault s.task s.me.matBat b.toNat = some k → ∃ u, exec (.mwait b) s = .next (wordTrap u { k with lane := electedLane s })
        ∧ u.me.matBat = { s.me.matBat with taken := s.me.matBat.taken ||| (1#16 <<< b.toNat) } ∧ u.me.regs = s.me.regs ∧ u.mem = s.mem))
  ∧ (∀ (s : State) (a b : BitVec 7) (va : Nat), Issues (.tlbinv a b) s → va = (aCode (readRegs s) a).base.toNat →
    (b = 0#7 → 2 ^ 48 ≤ va → exec (.tlbinv a b) s = .next (wordTrap s (trapAt s 0x09 1 va)))
    ∧ ((b = 0#7 → va < 2 ^ 48) → ∃ u : State, u.mem = s.mem ∧ u.me = s.me ∧ u.task = s.task
        ∧ (∀ e ∈ u.core.tlb, e.part = s.task.part → b = 0#7 ∧ e.vpn ≠ va / 2 ^ e.size)
        ∧ (∀ e ∈ s.core.tlb, (e.part ≠ s.task.part ∨ (b = 0#7 ∧ e.vpn ≠ va / 2 ^ e.size)) → e ∈ u.core.tlb)
        ∧ ((∀ q ∈ s.flight, q.part ≠ s.task.part) → (∀ w ∈ s.dev.swaps, w.part ≠ s.task.part) → exec (.tlbinv a b) s = .next (past u))
        ∧ ((∃ q ∈ s.flight, q.part = s.task.part) → exec (.tlbinv a b) s = .next (wordStall u .shootdown))))

/-- The pad barriers (R128, R129, R306): BARINIT sets EXP, ARR 0 and STATE active, and keeps GEN; BARARR adds its items, and with the
last arrival sets ARR 0 and the next GEN, the generation before into D; BARWAIT goes on when GEN is no longer its own, and waits else;
BARINV sets STATE 2. A word of a barrier that is not active, an expectation of 0 and an arrival too many trap with 0x0E. -/
def Obligations.BarrierWords : Prop :=
  ∀ (s : State) (off w : Nat), PadReady s off 16 → s.task.pad.wf = true → w = ofBytesLE (s.task.pad.getBytes off 16) →
    barWaiters s s.task off = [] →
    (∀ a b n, Issues (.barinit a b) s → valueA s a = off → valueB s b = n →
      (0 < n → n < 2 ^ 32 → ∃ k, exec (.barinit a b) s = .next { past s with task := k }
        ∧ { k with pad := s.task.pad, empty := s.task.empty } = s.task
        ∧ WritesAt s.task.pad k.pad off (bytesLE 16 (barWord w 0 n (barGen w) 1)))
      ∧ (n = 0 ∨ 2 ^ 32 ≤ n → exec (.barinit a b) s = .next (wordTrap s (trapAt s 0x0E 0 off))))
    ∧ (∀ d a, Issues (.bararr d a) s → valueA s a = off → fenceReady s = true →
      (barState w = 1 → barArr w + itemsNow s ≤ barExp w → ∃ k,
        exec (.bararr d a) s = .next { wrote s (formInto s d (uniform (BitVec.ofNat 64 (barGen w)) .int32)) with task := k }
        ∧ { k with pad := s.task.pad, empty := s.task.empty } = s.task
        ∧ WritesAt s.task.pad k.pad off (bytesLE 16
            (if barArr w + itemsNow s = barExp w then barWord w 0 (barExp w) (barGen w + 1) 1
             else barWord w (barArr w + itemsNow s) (barExp w) (barGen w) 1)))
      ∧ (barState w ≠ 1 ∨ barExp w < barArr w + itemsNow s → exec (.bararr d a) s = .next (wordTrap s (trapAt s 0x0E 0 off))))
    ∧ (∀ a b, Issues (.barwait a b) s → valueA s a = off →
      (barState w = 1 → barGen w ≠ valueA s b % 2 ^ 16 → exec (.barwait a b) s = .next (past s))
      ∧ (barState w = 1 → barGen w = valueA s b % 2 ^ 16 → exec (.barwait a b) s = .next (wordStall s (.barrier off (barGen w))))
      ∧ (barState w ≠ 1 → exec (.barwait a b) s = .next (wordTrap s (trapAt s 0x0E 0 off))))
    ∧ (∀ a, Issues (.barinv a) s → valueA s a = off → ∃ k, exec (.barinv a) s = .next { past s with task := k }
        ∧ { k with pad := s.task.pad, empty := s.task.empty } = s.task
        ∧ WritesAt s.task.pad k.pad off (bytesLE 16 (barWord w (barArr w) (barExp w) (barGen w) 2)))

/-- Messages and windows: SENDQ to a peer with FIFO banks and a credit left sends its words, with the sender's pending horizon (R125,
R308), and waits where no credit is left; a message in transit joins its inbox in the next free place of the ring (R125); RECVQ returns the entry that is its own, once its
horizon + 4 ns is reached, frees it and gives the credit back, and waits where it has none (R126, R309); PADOPEN sets a window, or
closes it, behind the remote atomics that its context has sent to its own core and behind its lanes that are still to execute (R310, R342). ATOMR sends its lanes to the peer and waits; at the peer, where a window with the atomic right holds the location, it
executes on the pad there, gives the old value where the window may be read and 0 where not, exposes its task and completes (R127, R299). Who gets an entry is log entry 46. -/
def Obligations.PeerWords : Prop :=
  (∀ (s : State) (d a b : BitVec 7) (k lane : Nat) (t : Task) (words : List Word32), Issues (.sendq d a b) s →
    k = (if isA d then (aCode (readRegs s) d).base.toNat else d.toNat) → leaderOf s (extraOf s.me.path.lead).pred = some lane →
    words = (List.range (4 * b.toNat)).map (fun i => srcWord s.me (readRegs s) (srcOf (readRegs s) s.me.path.lead 0 a.toNat) i lane) →
    (7 < k → exec (.sendq d a b) s = .next (wordTrap s (trapHere s 0x01 0)))
    ∧ (k ≤ 7 → inboxOf s (peerCore s.task.core k) s.task.serial = none → exec (.sendq d a b) s = .next (wordTrap s (trapHere s 0x0A 18)))
    ∧ (k ≤ 7 → inboxOf s (peerCore s.task.core k) s.task.serial = some t → s.flight = [] →
      creditCap s t ≤ vget t.credits (s.task.core % 8) 0 → exec (.sendq d a b) s = .next (wordStall s .credits))
    ∧ (k ≤ 7 → inboxOf s (peerCore s.task.core k) s.task.serial = some t → s.flight = [] →
      vget t.credits (s.task.core % 8) 0 < creditCap s t →
      ∃ u, exec (.sendq d a b) s = .next u
        ∧ u.transit = s.transit ++ [⟨s.me.id, s.task.core, t.tid, words, s.me.horizon, 0, 0, none⟩]
        ∧ u.task.exposed = true ∧ u.me = { s.me with path := stepPast s.me.path } ∧ u.mem = s.mem ∧ u.ctxs = s.ctxs))
  ∧ (∀ (s : State) (n : Nat) (m : Message) (t : Task) (place : Nat × Nat), s.transit[n]? = some m →
    (∀ k ∈ s.transit.take n, k.fromCtx ≠ m.fromCtx ∨ k.toTask ≠ m.toTask) → getTask s m.toTask = some t → ringNext s t = some place →
    exec (.inboxMessageArrive n) s = .next (putTask { s with transit := s.transit.take n ++ s.transit.drop (n + 1) }
      { t with ringAt := place, inbox := t.inbox ++ [{ m with bank := place.1, line := place.2 }] }))
  ∧ (∀ (s : State) (d a : BitVec 7) (m : Message), Issues (.recvq d a) s → entryFor s (s.me.id, s.me.path.id) = some m →
    a.toNat + m.words.length ≤ fileRegs s.task.fsize → m.horizon + 4 ≤ myTime s → (m.bank, m.line) ∉ s.task.badInbox →
    ∃ u, exec (.recvq d a) s = .next u
      ∧ u.me = { s.me with path := stepPast s.me.path, regs := { wordsInto s a.toNat m.words s.me.regs with
          a := vset s.me.regs.a (d.toNat - 64) (uniform (BitVec.ofNat 64 (4 * m.words.length)) .int32)
          errA := s.me.regs.errA.filter fun k => k != d.toNat - 64 } }
      ∧ u.task.inbox = eraseFirst (fun k => k == m) s.task.inbox
      ∧ vget u.task.credits (m.fromCore % 8) 0 = vget s.task.credits (m.fromCore % 8) 0 - 1 ∧ u.mem = s.mem)
  ∧ (∀ (s : State) (d a : BitVec 7), Issues (.recvq d a) s → entryFor s (s.me.id, s.me.path.id) = none →
    exec (.recvq d a) s = .next (wordStall s .inbox))
  ∧ (∀ (s : State) (win rights : BitVec 2) (a b : BitVec 7), Issues (.padopen win rights a b) s →
    valueA s a % 128 = 0 → valueB s b % 128 = 0 → (valueB s b ≠ 0 → padIn s.task (valueA s a) (valueB s b) = true) →
    (ownRemote s = true → exec (.padopen win rights a b) s = .next (wordStall s .remote))
    ∧ (ownRemote s = false → writesOpen s = true → exec (.padopen win rights a b) s = .next (wordStall s .merge))
    ∧ (ownRemote s = false → writesOpen s = false → ∀ w, w = (if valueB s b = 0 then ⟨0, 0, false, false⟩ else ⟨valueA s a, valueB s b, rights.getLsbD 0, rights.getLsbD 1⟩) →
    exec (.padopen win rights a b) s = .next (past { s with task := { s.task with windows := vset s.task.windows win.toNat w } })))
  ∧ (∀ (s : State) (d b : BitVec 7) (areg : BitVec 5) (f : BitVec 4) (ty : Nat), Issues (.atomr d areg b f) s →
    ty = atomType s.me.path.lead f → (∀ l ∈ atomLanes s d, remoteTrap (atomAddr s areg l) (typeBits ty / 8) l = none) →
    remoteOf s s.me.id s.me.path.id = none →
    exec (.atomr d areg b f) s = .next (wordStall { s with remote := s.remote ++ [⟨s.me.id, s.me.path.id,
      (atomLanes s d).map (fun l => (l, BitVec.ofNat 64 (atomAddr s areg l), BitVec.ofNat 64 (atomOperand s b (typeBits ty) l),
        BitVec.ofNat 64 (atomCompare s d (typeBits ty) l))), f.toNat, ty, d⟩] } .remote))
  ∧ (∀ (s : State) (n l size off x : Nat) (a y c : Word64) (q : Remote) (k : Task), s.remote[n]? = some q → s.me.kind ≠ .idle →
    q.ctx = s.me.id → q.path = s.me.path.id → (∀ r ∈ s.remote.take n, r.ctx ≠ q.ctx) → (∀ r ∈ s.dev.spilled, r.id ≠ s.me.id) →
    (∀ j, servedFirst s k j = false) → k.badPad = [] → q.lanes = [(l, a, y, c)] → size = typeBits q.type / 8 → off = bitsOf a.toNat 0 21 →
    peerTask s (peerCore s.task.core (bitsOf a.toNat 21 3)) s.task.serial = some k → k.tid ≠ s.task.tid →
    (s.tasks.filter fun t => t.tid == k.tid) = [k] → s.core.clearing = none → s.core.matq = [] → (∀ e ∈ s.cores, e.clearing = none) →
    inWindow k (fun w => w.atomic) off size = true → padIn k off size = true → emptyIn k off size l = [] → s.me.path.pend = none → s.me.path.reseed = false →
    k.pad.wf = true → x = (if inWindow k (fun w => w.read) off size then ofBytesLE (k.pad.getBytes off size) else 0) →
    ∃ (u : State) (m : Task), exec (.atomrExecute n) s = .next u
      ∧ (u.tasks.filter fun t => t.tid == k.tid) = [m] ∧ { m with pad := k.pad, empty := k.empty } = k
      ∧ WritesAt k.pad m.pad off (bytesLE size (atomNew q.op q.type (8 * size) (ofBytesLE (k.pad.getBytes off size)) y.toNat c.toNat))
      ∧ u.task = { s.task with exposed := true } ∧ u.me.path = stepPast s.me.path ∧ u.mem = s.mem
      ∧ u.remote = eraseFirst (fun r => r == q) s.remote
      ∧ (isA q.dest = true → l = electedLane s → u.me.regs = formInto s q.dest (uniform
          (if q.type = 5 then BitVec.ofInt 64 (signedOf 32 x) else BitVec.ofNat 64 x) (typeTag q.type)))
      ∧ (isA q.dest = false → lanesOf s.me.path.mask = [l] →
          u.me.regs = groupInto s (typeTag q.type) (fun _ => x) q.dest.toNat (if typeBits q.type = 64 then 2 else 1) s.me.regs))

/-- SEMS, after a fence, adds n to a semaphore its region grants, up to 2^32 − 1, and raises its stamp to the pending horizon + 4;
SEMW takes n where it is first in the queue and the value suffices, with code 0 in D and later loads held until the stamp, and waits in
the queue else; an n of 0 or of 2^32 or more traps with 0x01, a semaphore not granted with 0x0A, detail 20 (R311). -/
def Obligations.SemaphoreWords : Prop :=
  (∀ (s : State) (a b : BitVec 7), Issues (.sems a b) s →
    (valueB s b = 0 ∨ 2 ^ 32 ≤ valueB s b → exec (.sems a b) s = .next (wordTrap s (trapHere s 0x01 0)))
    ∧ (0 < valueB s b → valueB s b < 2 ^ 32 → 4095 < valueA s a ∨ semGranted s s.task.region (valueA s a) = false →
      exec (.sems a b) s = .next (wordTrap s (trapHere s 0x0A 20)))
    ∧ (semCheck s (valueA s a) (valueB s b) = none → fenceReady s = false → exec (.sems a b) s = .next (wordStall s .fence))
    ∧ (semCheck s (valueA s a) (valueB s b) = none → fenceReady s = true → ∃ t, exec (.sems a b) s = .next t
      ∧ (semOf t (valueA s a)).value = min ((semOf s (valueA s a)).value + valueB s b) (2 ^ 32 - 1)
      ∧ (semOf t (valueA s a)).stamp = max (semOf s (valueA s a)).stamp (s.me.horizon + 4)
      ∧ (∀ n, n ≠ valueA s a → semOf t n = semOf s n)
      ∧ t.task = { s.task with exposed := true } ∧ t.me = { s.me with path := stepPast s.me.path } ∧ t.mem = s.mem ∧ t.ctxs = s.ctxs))
  ∧ (∀ (s : State) (d a b : BitVec 7), Issues (.semw d a b) s →
    (valueB s b = 0 ∨ 2 ^ 32 ≤ valueB s b → exec (.semw d a b) s = .next (wordTrap s (trapHere s 0x01 0)))
    ∧ (0 < valueB s b → valueB s b < 2 ^ 32 → 4095 < valueA s a ∨ semGranted s s.task.region (valueA s a) = false →
      exec (.semw d a b) s = .next (wordTrap s (trapHere s 0x0A 20))))
  ∧ (∀ (s : State) (d a b : BitVec 7), Issues (.semw d a b) s → semCheck s (valueA s a) (valueB s b) = none →
    (∀ w, (semOf s (valueA s a)).waiters.head? = some w → w ≠ (s.me.id, s.me.path.id) →
      ∃ t, exec (.semw d a b) s = .next (wordStall t (.semaphore d.toNat (valueA s a)))
        ∧ (s.me.id, s.me.path.id) ∈ (semOf t (valueA s a)).waiters ∧ (semOf t (valueA s a)).value = (semOf s (valueA s a)).value
        ∧ t.me = s.me ∧ t.task = s.task ∧ t.mem = s.mem)
    ∧ (((semOf s (valueA s a)).waiters = [] ∨ (semOf s (valueA s a)).waiters.head? = some (s.me.id, s.me.path.id)) →
    (valueB s b ≤ (semOf s (valueA s a)).value → ∃ t, exec (.semw d a b) s = .next t
      ∧ (semOf t (valueA s a)).value = (semOf s (valueA s a)).value - valueB s b
      ∧ t.me = { s.me with path := stepPast s.me.path, regs := formInto s d (uniform 0 .int32),
                           loadAfter := max s.me.loadAfter (semOf s (valueA s a)).stamp }
      ∧ t.task = s.task ∧ t.mem = s.mem ∧ t.ctxs = s.ctxs)
    ∧ ((semOf s (valueA s a)).value < valueB s b → ∃ t, exec (.semw d a b) s = .next (wordStall t (.semaphore d.toNat (valueA s a)))
      ∧ (s.me.id, s.me.path.id) ∈ (semOf t (valueA s a)).waiters ∧ (semOf t (valueA s a)).value = (semOf s (valueA s a)).value
      ∧ t.me = s.me ∧ t.task = s.task ∧ t.mem = s.mem)))

/-- POOLQ reports a role's counter and budget (R314). POOLSET writes the code of the first condition that fails, or traps with 0x0C and
that code, and code 6 withdraws the inbox's credits (R51); where all hold, the departing banks leave, those that join have the
destination's role, charges change hands and its path waits for the clearing (R47 to R51, R313); the end of the clearing
writes code 0 and the word is over (R47, R52). Behind accesses of departing pad slots it waits (R52, R328); which accesses those are is log
entry 94. What changes at once, and codes 1 and 8, are log entries 33 and 34. -/
def Obligations.GladeWords : Prop :=
  (∀ (s : State) (d : BitVec 7) (src dst : BitVec 3), Issues (.poolq d src dst) s →
    exec (.poolq d src dst) s = .next (wrote s (formInto s d (uniform (BitVec.ofNat 64 (poolInfo s (roleOf src.toNat) dst.toNat)) .int32))))
  ∧ (∀ (s : State) (d b : BitVec 7) (src dst f3 : BitVec 3) (m : Move), Issues (.poolset d src dst b f3) s → s.core.clearing = none →
    m = ⟨roleOf src.toNat, roleOf dst.toNat, b.toNat, f3.getLsbD 0, f3.getLsbD 1⟩ →
    (∀ (k : Nat) (u : State), poolCode s m = k → k ≠ 0 →
      u = (if k = 6 then { s with task := { s.task with withdrawn := some ((ownBanks s.core s.task.tid .fifo).length - m.n) } } else s) →
      (f3.getLsbD 2 = false → exec (.poolset d src dst b f3) s =
        .next (wrote u (formInto s d (uniform (BitVec.ofNat 64 k) .int32))))
      ∧ (f3.getLsbD 2 = true → exec (.poolset d src dst b f3) s = .next (wordTrap u (trapHere s 0x0C k))))
    ∧ (poolCode s m = 0 → padBusy s (departSlots s m) = true → exec (.poolset d src dst b f3) s = .next (wordStall s .pool))
    ∧ (∀ (gone joined subs spare : List Nat), poolCode s m = 0 → padBusy s (departSlots s m) = false →
      pickBanks m (needed s m) (freePool s) = some (subs, spare) → gone = departing s m →
      joined = (if m.src = .off then subs else if m.dst = .off then [] else gone.filter (allows m.dst) ++ subs) →
      ∃ t : State, exec (.poolset d src dst b f3) s = .next (wordStall t .clearing)
        ∧ t.core.clearing = some ⟨s.me.id, s.me.path.id, s.task.tid, d.toNat, if m.keep then departSlots s m else [],
            (movingFiles s m).2.map fun c => c.id⟩
        ∧ (∀ k, k < 96 →
            (k ∈ spare → (bankAt t.core k).role = .pad ∧ (bankAt t.core k).owner = some s.task.tid)
            ∧ (k ∉ spare → k ∈ joined → (bankAt t.core k).role = m.dst ∧ (bankAt t.core k).owner = some s.task.tid)
            ∧ (k ∉ spare → k ∉ joined → k ∈ gone → (bankAt t.core k).role = .off ∧ (bankAt t.core k).owner = none)
            ∧ (k ∉ spare → k ∉ joined → k ∉ gone → bankAt t.core k = bankAt s.core k))
        ∧ t.dev.regions = (if m.src = .off ∨ m.keep = true then charge s s.task.region m.dst m.n
            else release (charge s s.task.region m.dst m.n) s.task.region m.src m.n).dev.regions
        ∧ t.me.regs = s.me.regs ∧ t.me.path = s.me.path ∧ t.mem = s.mem))
  ∧ (∀ (s : State) (c : Clearing), s.core.clearing = some c → c.ctx = s.me.id → c.path = s.me.path.id → s.me.kind ≠ .idle →
    (∀ r ∈ s.dev.spilled, r.id ≠ s.me.id) → s.me.path.pend = none → s.me.path.reseed = false →
    exec (.clearingComplete s.core.id) s = .next (wrote { s with core := { s.core with clearing := none } }
      (formInto s (BitVec.ofNat 7 c.dest) (uniform 0 .int32))))

/-- CPY and CPYI queue a copy on a channel, unsealed, with the layout record and the coordinates that their registers hold at the
leader, and the barrier that a kind 3 leading word names, where the record and its pad side pass the checks of R120; a full channel makes
the word wait, a record at an address that is not a multiple of 64 traps with 0x08 and one that fails its checks with 0x01; without a
leader they do nothing (R116, R120, R300, R301). PEMPTY of a range that nothing in flight writes or reads makes its lines empty (R56,
R304). The coordinates are log entry 32. -/
def Obligations.CopyWords : Prop :=
  (∀ (i : Instr) (s t : State) (d a b : BitVec 7) (ch : BitVec 2) (lane ar dense k : Nat) (bar : Option Nat) (bytes : List Byte)
      (rec : BitVec 512), Issues i s →
    ar = atLeader s d.toNat lane → dense = atLeader s a.toNat lane → k = b.toNat - 64 →
    bar = (if (extraOf s.me.path.lead).aux = 1 then some (atLeader s (extraOf s.me.path.lead).third lane) else none) →
    (∀ x, bar = some x → x % 16 = 0) → leaderOf s (extraOf s.me.path.lead).pred = some lane → ar % 64 = 0 →
    rec = BitVec.ofNat 512 (ofBytesLE bytes) → t.me.path = s.me.path →
    ((i = .cpy d a b ch ∧ readOnce s ar 64 lane true = .ok (t, bytes))
      ∨ (i = .cpyi d a b ch ∧ t = s ∧ padTrap s.task ar 64 lane = none ∧ emptyIn s.task ar 64 lane = [] ∧ s.core.clearing = none
          ∧ s.task.badPad = [] ∧ bytes = s.task.pad.getBytes ar 64)) →
    coordsVary s k bytes = false →
    (layoutOk rec k = false → exec i s = .next (wordTrap s (trapLane 0x01 0 (wordAddr t) lane)))
    ∧ (layoutOk rec k = true → cellsMisaligned (layoutOf rec) dense = none → padSideOut t.task (layoutOf rec) dense bar = none →
      (16 ≤ (channel t.core ch.toNat).queue.length → exec i s = .next (wordStall s .channel))
      ∧ ((channel t.core ch.toNat).queue.length < 16 →
        ∃ u : State, exec i s = .next u
          ∧ (channel u.core ch.toNat).queue = (channel t.core ch.toNat).queue
            ++ [⟨t.nextOp, t.me.id, t.task.tid, .layout rec ((List.range (layoutOf rec).ndim).map fun j =>
                  signedOf 32 (formLane t.me (aReg (readRegs t) (k + j)) (if lane = 64 then 0 else lane)).toNat) dense bar,
                false, 0, 0, 0, none, []⟩]
          ∧ u.task.ops = t.task.ops ++ [⟨t.nextOp, t.me.id, false, none, false, none, 0⟩] ∧ u.nextOp = t.nextOp + 1
          ∧ u.me = { t.me with path := stepPast t.me.path } ∧ u.mem = t.mem ∧ u.ctxs = t.ctxs)))
  ∧ (∀ (i : Instr) (s : State) (d a b : BitVec 7) (ch : BitVec 2), Issues i s → i = .cpy d a b ch ∨ i = .cpyi d a b ch →
    (leaderOf s (extraOf s.me.path.lead).pred = none → exec i s = .next (past s))
    ∧ (∀ lane, leaderOf s (extraOf s.me.path.lead).pred = some lane → atLeader s d.toNat lane % 64 ≠ 0 →
      exec i s = .next (wordTrap s (trapLane 0x08 0 (atLeader s d.toNat lane) lane))))
  ∧ (∀ (s : State) (a b : BitVec 7), Issues (.pempty a b) s → valueA s a % 128 = 0 → valueB s b % 128 = 0 →
    padIn s.task (valueA s a) (valueB s b) = true → (∀ c, (channel s.core c).queue = []) → s.core.matq = [] → s.core.clearing = none →
    (∀ k, servedFirst s s.task k = false) → lanesOpen s s.task = false →
    ∃ k : Task, exec (.pempty a b) s = .next (past { s with task := k }) ∧ { k with empty := s.task.empty } = s.task
      ∧ ∀ n, n ∈ k.empty ↔ n ∈ s.task.empty ∨ n ∈ linesOf (valueA s a) (valueB s b))

/-! ## Matrix words (R130 to R145, R317 to R328) -/

/-- The words of pipe M that queue an operation: with room in the queue, and with pad operands that pass their checks, the operation
joins the queue unsealed with the rows of p0 and its operands as they stand at issue; MZERO and MLOAD bind an unbound m register to a
TILE bank; MDRAIN with .release leaves mk unbound. EPLOAD puts a program of 16 words from the pad into an epilogue slot (R132 to R144,
R318 to R327). -/
def Obligations.MatrixWords : Prop :=
  (∀ (i : Instr) (s : State) (tile : BitVec 3) (ka kb : BitVec 7) (fmt : BitVec 4) (step : BitVec 2) (scale) (col : Nat), Issues i s →
    s.core.matq.length < 16 →
    pairTrap s (stepPairs s ka.toNat kb.toNat) lanes64 step.toNat 32 = none →
    ((i = .mma tile ka kb fmt step ∧ scale = none ∧ col = 0)
      ∨ (i = .mmas tile ka kb fmt step ∧ col = (aReg (readRegs s) ((extraOf s.me.path.lead).aux % 32)).base.toNat ∧ col % 8 = 0
          ∧ padIn s.task (col + 512 * step.toNat) 512 = true
          ∧ scale = some
            (Vector.ofFn fun l => srcWord s.me (readRegs s) (srcOf (readRegs s) s.me.path.lead 2 (extraOf s.me.path.lead).third) 0 l.val,
             Vector.ofFn fun l => srcWord s.me (readRegs s) (srcOf (readRegs s) s.me.path.lead 2 (extraOf s.me.path.lead).third) 1 l.val))) →
    exec i s = .next (past { s with
      nextOp := s.nextOp + 1
      task := { s.task with ops := s.task.ops ++ [⟨s.nextOp, s.me.id, true, none, false, none, 0⟩] }
      core := { s.core with matq := s.core.matq ++ [⟨s.nextOp, s.me.id, s.task.tid, (mRegOf s tile).bank.getD 0, (mRegOf s tile).tag,
        s.me.path.mask, .step fmt.toNat step.toNat (captureSrc s 0 ka.toNat) (captureSrc s 1 kb.toNat) scale col, none⟩] } }))
  ∧ (∀ (i : Instr) (s : State) (tile : BitVec 3) (ka : BitVec 7) (i32 : BitVec 1) (bank : Nat) (work : MatWork), Issues i s →
    s.core.matq.length < 16 →
    ((mRegOf s tile).bank = some bank ∨ ((mRegOf s tile).bank = none ∧ (unboundTiles s s.task).head? = some bank)) →
    ((i = .mzero tile i32 ∧ work = .zero)
      ∨ (i = .mload tile ka i32 ∧ pairTrap s [padPair s ka.toNat] (lanesOf s.me.path.mask) 0 256 = none
          ∧ work = .load (.pad (padPair s ka.toNat).1 (padPair s ka.toNat).2))) →
    exec i s = .next (wrote { s with
      nextOp := s.nextOp + 1
      task := { s.task with ops := s.task.ops ++ [⟨s.nextOp, s.me.id, true, none, false, none, 0⟩] }
      core := { s.core with matq := s.core.matq ++ [⟨s.nextOp, s.me.id, s.task.tid, bank, modTag i32, s.me.path.mask, work, none⟩] } }
      { s.me.regs with m := vset s.me.regs.m tile.toNat ⟨some bank, modTag i32⟩ }))
  ∧ (∀ (s : State) (tile : BitVec 3) (ka : BitVec 7) (flags : BitVec 4), Issues (.mdrain tile ka flags) s → s.core.matq.length < 16 →
    s.task.badTiles = [] →
    exec (.mdrain tile ka flags) s = .next (wrote { s with
      nextOp := s.nextOp + 1
      task := { s.task with ops := s.task.ops ++ [⟨s.nextOp, s.me.id, true, none, false, none, 0⟩] }
      core := { s.core with matq := s.core.matq ++ [⟨s.nextOp, s.me.id, s.task.tid, (mRegOf s tile).bank.getD 0, (mRegOf s tile).tag,
        s.me.path.mask, .drain (vget s.task.epi (bitsOf flags.toNat 2 2) (Vector.replicate 16 0))
          (Vector.ofFn fun k => (aReg (readRegs s) (ka.toNat - 64 + k.val)).base) (flags.getLsbD 0) (flags.getLsbD 1), none⟩] } }
      (if flags.getLsbD 0 then { s.me.regs with m := vset s.me.regs.m tile.toNat MReg.unbound } else s.me.regs)))
  ∧ (∀ (s : State) (tile : BitVec 3) (ka : BitVec 7) (words : List Word32), Issues (.epload tile ka) s →
    padTrap s.task (valueA s ka) 64 (electedLane s) = none → emptyIn s.task (valueA s ka) 64 (electedLane s) = [] →
    s.core.clearing = none → s.task.badPad = [] →
    words = (List.range 16).map (fun k => BitVec.ofNat 32 (ofBytesLE (s.task.pad.getBytes (valueA s ka + 4 * k) 4))) →
    (programOk words = true → exec (.epload tile ka) s = .next (past { s with task := { s.task with
      epi := vset s.task.epi tile.toNat (Vector.ofFn fun k => words.getD k.val 0) } }))
    ∧ (programOk words = false → exec (.epload tile ka) s = .next (wordTrap s (trapHere s 0x01 0))))

/-- A queued operation executes when every earlier one on its tile has finished and no line it reads is empty: its tile is the one the
operation makes (for MZERO, zeros in the rows of p0), memory and the pad are as before, and it is done; a drain runs its program over
its rows and is done, with its fault if it met one (R138, R144, R145, R323, R324). One that would read an uncorrectable error ends with
that fault (R70). One step does it whole (log entry 20). -/
def Obligations.MatrixExecution : Prop :=
  ∀ (s : State) (n : Nat) (o : MatOp), s.core.matq[n]? = some o → s.me = Context.idle → o.task = s.task.tid → s.task.phase = .running →
    s.tasks = [] → (∀ k ∈ s.core.matq.take n, k.bank ≠ o.bank) → s.task.core = s.core.id →
    (∀ k, s.core.clearing = none → matEmpty s.task o = none → matBad s.task o = some k →
      (isDrain o = false → exec (.matrixOpExecute s.core.id n) s = .next (endMatOp s o (some k) 0))
      ∧ (isDrain o = true → exec (.drainExecute s.core.id n) s = .next (endMatOp s o (some k) 0)))
    ∧ (isDrain o = false → s.core.clearing = none → matEmpty s.task o = none → matBad s.task o = none →
      ∃ t, exec (.matrixOpExecute s.core.id n) s = .next t
        ∧ tileOf t.task o.bank = tileAfter s.task o ∧ t.mem = s.mem ∧ t.task.pad = s.task.pad
        ∧ t.core.matq = eraseFirst (fun k => k.op == o.op) s.core.matq
        ∧ (∀ b, b ≠ o.bank → tileOf t.task b = tileOf s.task b))
    ∧ (∀ program args rel clear p, o.work = .drain program args rel clear → matBad s.task o = none →
      p = drainRows o program args clear (lanesOf o.rows) ⟨s, ⟨[], [], 32, 0, 0⟩, none, none, 0, [], s.task⟩ → p.stall = none →
      exec (.drainExecute s.core.id n) s = .next (endMatOp p.s o p.fault p.wct))

/-- Forms whose other statements say more, each with its own effect, under conditions on state and operands alone: ICMP, and SEL, VSCAN
and VRED into a v register with no enabled flag, write registers of their context and nothing else (R265, R266, R272, R273); BRV with all
lanes taken or none goes to its target or falls through (R232); FENCE, CSEAL, MSEAL, CWAIT, MWAIT, TLBINV and PEMPTY with nothing to wait for
are over (R302 to R305, R315, R326); SEMS adds and SEMW takes (R311); CPY, CPYI and the words of pipe M queue one operation (R301, R323 to
R325), and EPLOAD loads its slot (R327); RSET with a window that R154 admits, RAST from token 0 or from a live token of a valid slot, VSPLIT,
VENDS, VMASK, VAGREE and VHALVE write registers of their context and nothing else (R331 to R334). -/
def Obligations.WordsComplete : Prop :=
  (∀ (i : Instr) (s : State) (d a b : BitVec 7) (g : BitVec 3) (f : BitVec 4), Issues i s →
    i = .icmp d a b g ∨ (i = .sel d a b g ∧ isA d = false) ∨ (i = .vscan d a f ∧ isA d = false ∧ modeTen (readRegs s).mode = 0)
      ∨ (i = .vred d a f ∧ isA d = false ∧ modeTen (readRegs s).mode = 0) →
    ∃ r : Regs, exec i s = .next (wrote s r))
  ∧ (∀ (s : State) (neg : BitVec 1) (preg : BitVec 3) (disp : BitVec 16) (taken : Word64), Issues (.brv neg preg disp) s → isStand s = true →
    taken = s.me.path.mask &&& (if neg = 0#1 then pReg s.me (readRegs s) preg.toNat else ~~~pReg s.me (readRegs s) preg.toNat) →
    (taken = 0 → exec (.brv neg preg disp) s = .next (moved s (packetOf s.me.path + 1)))
    ∧ (taken ≠ 0 → taken = s.me.path.mask → exec (.brv neg preg disp) s = .next (moved s (packetOf s.me.path + disp.signExtend 32))))
  ∧ (∀ s : State, s.flight = [] →
    (Issues .fence s → s.me.horizon + 4 ≤ myTime s → exec .fence s = .next (past s))
    ∧ (Issues .cseal s → pendingCount s.task s.me.copyBat < 8 → ∃ k b, exec .cseal s = .next (past { s with
        nextOp := s.nextOp + 1, task := { s.task with ops := k }, me := { s.me with copyBat := b } }))
    ∧ (Issues .mseal s → pendingCount s.task s.me.matBat < 8 → ∃ k b, exec .mseal s = .next (past { s with
        nextOp := s.nextOp + 1, task := { s.task with ops := k }, me := { s.me with matBat := b } }))
    ∧ (∀ b : BitVec 7, Issues (.cwait b) s → batchPending s.task s.me.copyBat b.toNat = false →
      batchFailed s.task s.me.copyBat b.toNat = false → ∃ t, exec (.cwait b) s = .next t ∧ t.me.path = stepPast s.me.path
        ∧ t.me.regs = s.me.regs ∧ batchWct s.task s.me.copyBat b.toNat ≤ t.me.horizon ∧ t.mem = s.mem)
    ∧ (∀ b : BitVec 4, Issues (.mwait b) s → batchPending s.task s.me.matBat b.toNat = false →
      batchFailed s.task s.me.matBat b.toNat = false → ∃ t, exec (.mwait b) s = .next t ∧ t.me.path = stepPast s.me.path
        ∧ t.me.regs = s.me.regs ∧ batchWct s.task s.me.matBat b.toNat ≤ t.me.horizon ∧ t.mem = s.mem)
    ∧ (∀ a b : BitVec 7, Issues (.tlbinv a b) s → (b = 0#7 → (aCode (readRegs s) a).base.toNat < 2 ^ 48) → s.dev.swaps = [] →
      ∃ t, exec (.tlbinv a b) s = .next t ∧ t.me = { s.me with path := stepPast s.me.path } ∧ t.mem = s.mem
        ∧ ∀ e ∈ t.core.tlb, e.part = s.task.part → b = 0#7 ∧ e.vpn ≠ (aCode (readRegs s) a).base.toNat / 2 ^ e.size))
  ∧ (∀ (s : State) (a b : BitVec 7), Issues (.pempty a b) s → valueA s a % 128 = 0 → valueB s b % 128 = 0 →
    padIn s.task (valueA s a) (valueB s b) = true → (∀ c, (channel s.core c).queue = []) → s.core.matq = [] → s.core.clearing = none →
    (∀ k, servedFirst s s.task k = false) → lanesOpen s s.task = false →
    ∃ l, exec (.pempty a b) s = .next (past { s with task := { s.task with empty := l } })
      ∧ ∀ n ∈ linesOf (valueA s a) (valueB s b), n ∈ l)
  ∧ (∀ (s : State) (d a b : BitVec 7), semCheck s (valueA s a) (valueB s b) = none →
    (Issues (.sems a b) s → fenceReady s = true → ∃ t, exec (.sems a b) s = .next t ∧ t.me.path = stepPast s.me.path
      ∧ (semOf t (valueA s a)).value = min ((semOf s (valueA s a)).value + valueB s b) (2 ^ 32 - 1))
    ∧ (Issues (.semw d a b) s → (semOf s (valueA s a)).waiters = [] → valueB s b ≤ (semOf s (valueA s a)).value →
      ∃ t, exec (.semw d a b) s = .next t ∧ t.me.path = stepPast s.me.path
        ∧ (semOf t (valueA s a)).value = (semOf s (valueA s a)).value - valueB s b))
  ∧ (∀ (i : Instr) (s t : State) (d a b : BitVec 7) (ch : BitVec 2) (lane : Nat) (bytes : List Byte) (rec : BitVec 512), Issues i s →
    (extraOf s.me.path.lead).aux ≠ 1 → leaderOf s (extraOf s.me.path.lead).pred = some lane → atLeader s d.toNat lane % 64 = 0 →
    ((i = .cpy d a b ch ∧ readOnce s (atLeader s d.toNat lane) 64 lane true = .ok (t, bytes))
      ∨ (i = .cpyi d a b ch ∧ t = s ∧ padTrap s.task (atLeader s d.toNat lane) 64 lane = none
          ∧ emptyIn s.task (atLeader s d.toNat lane) 64 lane = [] ∧ s.core.clearing = none ∧ s.task.badPad = []
          ∧ bytes = s.task.pad.getBytes (atLeader s d.toNat lane) 64)) →
    t.me.path = s.me.path → rec = BitVec.ofNat 512 (ofBytesLE bytes) → coordsVary s (b.toNat - 64) bytes = false →
    layoutOk rec (b.toNat - 64) = true → cellsMisaligned (layoutOf rec) (atLeader s a.toNat lane) = none →
    padSideOut t.task (layoutOf rec) (atLeader s a.toNat lane) none = none → (channel t.core ch.toNat).queue.length < 16 →
    ∃ u, exec i s = .next u ∧ (channel u.core ch.toNat).queue.length = (channel t.core ch.toNat).queue.length + 1
      ∧ u.me.path = stepPast s.me.path ∧ u.mem = t.mem)
  ∧ (∀ (i : Instr) (s : State) (tile : BitVec 3) (ka kb : BitVec 7) (fmt : BitVec 4) (step : BitVec 2) (i32 : BitVec 1), Issues i s →
    s.core.matq.length < 16 → (mRegOf s tile).bank.isSome = true → s.task.badTiles = [] →
    ((i = .mma tile ka kb fmt step ∧ pairTrap s (stepPairs s ka.toNat kb.toNat) lanes64 step.toNat 32 = none)
      ∨ (∃ col, i = .mmas tile ka kb fmt step ∧ pairTrap s (stepPairs s ka.toNat kb.toNat) lanes64 step.toNat 32 = none
          ∧ col = (aReg (readRegs s) ((extraOf s.me.path.lead).aux % 32)).base.toNat ∧ col % 8 = 0
          ∧ padIn s.task (col + 512 * step.toNat) 512 = true)
      ∨ i = .mzero tile i32
      ∨ (i = .mload tile ka i32 ∧ pairTrap s [padPair s ka.toNat] (lanesOf s.me.path.mask) 0 256 = none)
      ∨ i = .mdrain tile ka fmt) →
    ∃ t o, exec i s = .next t ∧ t.core.matq = s.core.matq ++ [o] ∧ o.ctx = s.me.id ∧ o.rows = s.me.path.mask
      ∧ (mRegOf s tile).bank = some o.bank ∧ t.me.path = stepPast s.me.path ∧ t.mem = s.mem)
  ∧ (∀ (s : State) (tile : BitVec 3) (ka : BitVec 7) (words : List Word32), Issues (.epload tile ka) s →
    padTrap s.task (valueA s ka) 64 (electedLane s) = none → emptyIn s.task (valueA s ka) 64 (electedLane s) = [] →
    s.core.clearing = none → s.task.badPad = [] →
    words = (List.range 16).map (fun k => BitVec.ofNat 32 (ofBytesLE (s.task.pad.getBytes (valueA s ka + 4 * k) 4))) →
    programOk words = true → ∃ k, exec (.epload tile ka) s = .next (past { s with task := { s.task with epi := k } }))
  ∧ (∀ (i : Instr) (s : State) (d a b : BitVec 7) (ch : BitVec 2) (wd wr pa bp : BitVec 3) (gt gva gvb : BitVec 5) (t : Nat), Issues i s →
    t = (aCode (readRegs s) a).base.toNat →
    ((i = .rset d a b ch
        ∧ windowOk (aCode (readRegs s) b).base.toNat (aReg (readRegs s) (b.toNat - 64 + 1)).base.toNat = true)
      ∨ (i = .rast d a wd bp ∧ (t = 0 ∨ (bitAt t 63 = true ∧ bitsOf t 11 52 = 0
          ∧ (vget (readRegs s).slots (bitsOf t 9 2) Setup.empty).valid = true
          ∧ t % 512 ≤ (vget (readRegs s).slots (bitsOf t 9 2) Setup.empty).xw)))
      ∨ i = .vsplit wd wr pa ∨ i = .vends d pa ∨ i = .vmask wd pa b ∨ i = .vagree wd pa gt gva gvb ∨ i = .vhalve wd wr pa) →
    ∃ r : Regs, exec i s = .next (wrote s r))

/-! ## Geometry words (R146 to R182, R329 to R341) -/

/-- The interval tools on view masks, in the lanes of p0 alone, each interval settled (R158, R160 to R162, R333, R334): VSPLIT cuts a mask
into the first maximal run from its lowest view, with REM where more is left, and the rest; VMASK keeps the views between two bounds and
clears the flags; VHALVE halves the view range of an interval whose ends disagree and keeps one whose ends agree; VAGREE marks in DIS
whether two colours disagree in a channel; VENDS reads the ends and the anchor. -/
def Obligations.ViewWords : Prop :=
  (∀ (s : State) (wd wr pa : BitVec 3), Issues (.vsplit wd wr pa) s →
    ∃ val : Nat → (Word64 × Word64) × (Word64 × Word64), exec (.vsplit wd wr pa) s =
        .next (wrote s (viewsInto s wr.toNat (fun l => (val l).2) (viewsInto s wd.toNat (fun l => (val l).1) s.me.regs)))
      ∧ ∀ l m h run rest, m = wMask (readRegs s) pa.toNat l → h = wHead (readRegs s) pa.toNat l → run = (val l).1.1 → rest = (val l).2.1 →
        run ||| rest = m ∧ run &&& rest = 0 ∧ (m ≠ 0 → run ≠ 0)
        ∧ (∀ j k, j ≤ k → run.getLsbD j = true → run.getLsbD k = true → ∀ v, j ≤ v → v ≤ k → run.getLsbD v = true)
        ∧ (∀ j, run.getLsbD j = true → rest.getLsbD (j + 1) = false)
        ∧ (∀ j k, run.getLsbD j = true → rest.getLsbD k = true → j < k)
        ∧ Settled run (headFlag h 22 (decide (rest ≠ 0))) (val l).1 ∧ Settled rest (headFlag h 22 false) (val l).2)
  ∧ (∀ (s : State) (pd pa : BitVec 3) (b : BitVec 7), Issues (.vmask pd pa b) s →
    ∃ val : Nat → Word64 × Word64, exec (.vmask pd pa b) s = .next (wrote s (viewsInto s pd.toNat val s.me.regs))
      ∧ ∀ l x, x = (src32 s.me (readRegs s) 32 (srcOf (readRegs s) s.me.path.lead 1 b.toNat) l).toNat →
        (∀ v, v < 64 → ((val l).1.getLsbD v = true ↔
          (wMask (readRegs s) pa.toNat l).getLsbD v = true ∧ bitsOf x 0 6 ≤ v ∧ v ≤ bitsOf x 8 6))
        ∧ Settled (val l).1 (wHead (readRegs s) pa.toNat l &&& ~~~0x1E00000#64) (val l))
  ∧ (∀ (s : State) (wd wr pa : BitVec 3), Issues (.vhalve wd wr pa) s →
    ∃ val : Nat → (Word64 × Word64) × (Word64 × Word64), exec (.vhalve wd wr pa) s =
        .next (wrote s (viewsInto s wr.toNat (fun l => (val l).2) (viewsInto s wd.toNat (fun l => (val l).1) s.me.regs)))
      ∧ ∀ l m h half, m = wMask (readRegs s) pa.toNat l → h = wHead (readRegs s) pa.toNat l → half = headFlag (headFlag h 21 false) 24 true →
        (headDis h = false → Settled m h (val l).1 ∧ (val l).2 = (0, emptyHead h))
        ∧ (headDis h = true → headFirst h = headLast h → Settled m half (val l).1 ∧ (val l).2 = (0, emptyHead h))
        ∧ (headDis h = true → headFirst h ≠ headLast h →
            Settled (val l).1.1 half (val l).1 ∧ Settled (val l).2.1 half (val l).2
            ∧ ∀ v, v < 64 → ((val l).1.1.getLsbD v = true ↔
                m.getLsbD v = true ∧ headFirst h ≤ v ∧ v ≤ (headFirst h + headLast h) / 2)
              ∧ ((val l).2.1.getLsbD v = true ↔ m.getLsbD v = true ∧ (headFirst h + headLast h) / 2 < v ∧ v ≤ headLast h)))
  ∧ (∀ (s : State) (gwd gws : BitVec 3) (gt gva gvb : BitVec 5), Issues (.vagree gwd gws gt gva gvb) s →
    ∃ val : Nat → Word64 × Word64, exec (.vagree gwd gws gt gva gvb) s = .next (wrote s (viewsInto s gwd.toNat val s.me.regs))
      ∧ ∀ l, Settled (wMask (readRegs s) gws.toNat l) (headFlag (wHead (readRegs s) gws.toNat l) 21
          (!(List.range 4).all fun k => channelsAgree (channelOf (colourLane (readRegs s) (2 * gva.toNat) l) k)
            (channelOf (colourLane (readRegs s) (2 * gvb.toNat) l) k) ((aReg (readRegs s) gt.toNat).base.toNat % 2 ^ 16))) (val l))
  ∧ (∀ (a b t : Nat) (x y : FVal), x = unpack (fmtOf 8) a → y = unpack (fmtOf 8) b →
    (x.isNan = true ∨ y.isNan = true → channelsAgree a b t = false)
    ∧ (x.isNan = false → y.isNan = false → cmpVals x y = 0 → channelsAgree a b t = true)
    ∧ (∀ n, (x = .inf n ∨ y = .inf n) → cmpVals x y ≠ 0 → channelsAgree a b t = false)
    ∧ (∀ n m d k p e g c, x = .fin n m d → y = .fin k p e → unpack (fmtOf 8) t = .fin false g c →
      (channelsAgree a b t = true ↔ (finInt n m d (-48) - finInt k p e (-48)).natAbs ≤ (finInt false g c (-48)).toNat)))
  ∧ (∀ (s : State) (d : BitVec 7) (pa : BitVec 3), Issues (.vends d pa) s →
    exec (.vends d pa) s = .next (wrote s (groupInto s .int32
      (fun l => headFirst (wHead (readRegs s) pa.toNat l) + 2 ^ 32 * headLast (wHead (readRegs s) pa.toNat l)
        + 2 ^ 64 * headAnchor (wHead (readRegs s) pa.toNat l)) d.toNat 3 s.me.regs)))

/-- RSET snaps three vertices and fills a setup slot, its token in D, or, where they break R147 or the primitive is culled, invalidates
the slot with token 0; a window that breaks R154 traps with 0x01 (R147, R154 to R156, R331). RAST from a live token of a valid slot scans on
from the token's pixel: the first lanes of p0 get, in order, the next pixels with covered views, none skipped, at most 64 scanned, with
their settled intervals and a p register's bit, the others an empty interval and no bit, and the token names the next pixel, or is 0 past
the last; from token 0 every lane gets the empty interval; a token that varies traps with 0x04 before all else, and its other checks trap
in R332's order (R157, R158, R332). The RATE and SERIAL of token 0's intervals are log entry 79. -/
def Obligations.RasterWords : Prop :=
  (∀ (s : State) (d a b : BitVec 7) (ch : BitVec 2) (w serial : Nat) (val : Nat → Word32), Issues (.rset d a b ch) s →
    w = (aCode (readRegs s) b).base.toNat → serial = (aReg (readRegs s) (b.toNat - 64 + 1)).base.toNat →
    (∀ k, val k = (aReg (readRegs s) (a.toNat - 64 + k)).base.setWidth 32) →
    (windowOk w serial = false → exec (.rset d a b ch) s = .next (wordTrap s (trapHere s 0x01 0)))
    ∧ (windowOk w serial = true → ∀ p q r, snapVertex (val 0) (val 1) (val 2) (val 3) = some p →
      snapVertex (val 4) (val 5) (val 6) (val 7) = some q → snapVertex (val 8) (val 9) (val 10) (val 11) = some r →
      (∀ st, setupOf w serial (#v[p, q, r]) = some st → exec (.rset d a b ch) s = .next (wrote s
        (formInto (onRegs s { s.me.regs with slots := vset s.me.regs.slots ch.toNat st }) d (uniform (tokenWord ch.toNat 0) .int32))))
      ∧ (setupOf w serial (#v[p, q, r]) = none → exec (.rset d a b ch) s = .next (wrote s (formInto (onRegs s { s.me.regs with
          slots := vset s.me.regs.slots ch.toNat { vget (readRegs s).slots ch.toNat Setup.empty with valid := false } }) d
          (uniform 0 .int32)))))
    ∧ (windowOk w serial = true → (snapVertex (val 0) (val 1) (val 2) (val 3) = none ∨ snapVertex (val 4) (val 5) (val 6) (val 7) = none
        ∨ snapVertex (val 8) (val 9) (val 10) (val 11) = none) →
      exec (.rset d a b ch) s = .next (wrote s (formInto (onRegs s { s.me.regs with
          slots := vset s.me.regs.slots ch.toNat { vget (readRegs s).slots ch.toNat Setup.empty with valid := false } }) d
          (uniform 0 .int32)))))
  ∧ (∀ (s : State) (d a : BitVec 7) (bw bp : BitVec 3),
    encodingOk (.rast d a bw bp) s.me.path.lead s.task.fsize s.task.views (readRegs s).xc = true → materialises s (.rast d a bw bp) = false →
    tagsOk (.rast d a bw bp) s.me.path.lead s.me (readRegs s) = true → isA a = true → (aCode (readRegs s) a).isUniform = false →
    exec (.rast d a bw bp) s = .next (wordTrap s (trapHere s 0x04 0)))
  ∧ (∀ (s : State) (d a : BitVec 7) (bw bp : BitVec 3) (f : AReg) (t slot i : Nat) (st : Setup), Issues (.rast d a bw bp) s →
    s.me.path.mask ≠ 0 →
    f = aCode (readRegs s) a → t = f.base.toNat → slot = bitsOf t 9 2 → i = t % 512 → st = vget (readRegs s).slots slot Setup.empty →
    (f.isUniform = true → t ≠ 0 → bitAt t 63 = false ∨ bitsOf t 11 52 ≠ 0 →
      exec (.rast d a bw bp) s = .next (wordTrap s (trapHere s 0x01 0)))
    ∧ (f.isUniform = true → bitAt t 63 = true → bitsOf t 11 52 = 0 → st.valid = false →
      exec (.rast d a bw bp) s = .next (wordTrap s (trapHere s 0x03 0)))
    ∧ (f.isUniform = true → bitAt t 63 = true → bitsOf t 11 52 = 0 → st.valid = true → st.xw < i →
      exec (.rast d a bw bp) s = .next (wordTrap s (trapHere s 0x01 0)))
    ∧ (f.isUniform = true → t = 0 ∨ (bitAt t 63 = true ∧ bitsOf t 11 52 = 0 ∧ st.valid = true ∧ i ≤ st.xw) →
      ∃ (hits : List (Nat × Nat × Word64)) (next : Nat) (got base : Word64) (val : Nat → Word64 × Word64) (x : Nat → Word32),
        exec (.rast d a bw bp) s = .next (wrote s
          (formInto (onRegs s (viewsInto s bw.toNat val (predInto (onRegs s
              (vInto (vInto s.me.regs got d.toNat .int32 x) got (d.toNat + 1) .int32 fun _ => BitVec.ofNat 32 (if t = 0 then 0 else st.y)))
              bp.toNat got)))
            a (uniform (if t = 0 ∨ st.xw < next then 0 else tokenWord slot next) .int32)))
        ∧ (∀ l, l < 64 → (got.getLsbD l = true ↔ ∃ px m, (l, px, m) ∈ hits))
        ∧ base = (if t = 0 then 0 else BitVec.ofNat 64 (atBit st.rate 18 + atBit st.serial.toNat 32))
        ∧ (∀ l px m, (l, px, m) ∈ hits → x l = BitVec.ofNat 32 px ∧ Settled m base (val l))
        ∧ (∀ l, got.getLsbD l = false → val l = (0, base))
        ∧ (t = 0 → hits = [])
        ∧ (t ≠ 0 → hits.map (fun h => h.1) = (lanesOf s.me.path.mask).take hits.length
          ∧ List.Pairwise (fun g h => g.2.1 < h.2.1) hits
          ∧ (∀ l px m, (l, px, m) ∈ hits → m = viewsAt st px ∧ m ≠ 0 ∧ st.x0 + i ≤ px ∧ px < st.x0 + next)
          ∧ (∀ px, st.x0 + i ≤ px → px < st.x0 + next → viewsAt st px ≠ 0 → ∃ l m, (l, px, m) ∈ hits)
          ∧ i ≤ next ∧ next ≤ st.xw + 1 ∧ next ≤ i + 64
          ∧ (hits.length < (lanesOf s.me.path.mask).length → next = st.xw + 1 ∨ next = i + 64)
          ∧ (hits.length = (lanesOf s.me.path.mask).length → (hits.getLast?.map fun h => h.2.1 + 1) = some (st.x0 + next)))))

/-- VTEST keeps of each lane's views those whose depth passes its comparison against the tile's, and with .dw stores their depths, lane
after lane (R164, R335). FBW without .ord blends the colours of its views lane after lane (R165, R336); with .ord the writes of serial
mark + 1 apply at once, later ones up to mark + 256 are held where the unit has room, one past that waits, one at or below the mark traps
with 0x0E in its lane, as does a tile with no registration (R167). FBDONE of a registered tile adds an arrival (R168, R338); FBLOAD
registers a tile, empties its lines and queues its load, FBSTORE queues a store and ends the registration (R166, R170, R337). A step that
takes part of a VTEST's lanes leaves the word with the others, which read the registers of its issue (R341, R200). Which lanes a step takes
is log entry 89, which offset of a failing lane is reported log entry 80, and that a tile is known by its BASE log entry 41; the sign of
a depth of zero is log entry 100. -/
def Obligations.TileWords : Prop :=
  (∀ (s : State) (pd pa : BitVec 3) (b : BitVec 7) (f : BitVec 4) (lanes : List Nat) (st : Setup) (d : Word64), Issues (.vtest pd pa b f) s →
    lanes = viewLanes s pa.toNat → st = vget (readRegs s).slots ((extraOf s.me.path.lead).aux % 4) Setup.empty → d = thirdTile s →
    lanesTrap s d true b pa.toNat lanes = none → s.task.empty = [] → s.core.clearing = none → s.core.matq = [] → s.task.badPad = [] →
    (∀ k, servedFirst s s.task k = false) → s.me.path.gone = 0 →
    (s.cut = none → ∃ (k : Task) (l : List (Nat × Word64)) (val : Nat → Word64 × Word64),
      (l, k) = testLanes s d st (f.toNat % 3) (decide (3 ≤ f.toNat)) b pa.toNat lanes s.task
      ∧ exec (.vtest pd pa b f) s = .next { wrote s (viewsInto s pd.toNat val s.me.regs) with task := k }
      ∧ (∀ n m, (n, m) ∈ l → Settled m (headFlag (wHead (readRegs s) pa.toNat n) 23 (decide (3 ≤ f.toNat) && m != 0)) (val n))
      ∧ (∀ n, n ∉ lanes → val n = (0, emptyHead (wHead (readRegs s) pa.toNat n)))
      ∧ (f.toNat < 3 → k = s.task) ∧ { k with pad := s.task.pad, empty := s.task.empty } = s.task
      ∧ (∀ n m v, (n, m) ∈ l → f.toNat < 3 ∨ lanes.head? = some n → (f.toNat < 3 ∨ wMask (readRegs s) pa.toNat n = BitVec.ofNat 64 (2 ^ v)) →
        v < 64 → (m.getLsbD v = true ↔ (wMask (readRegs s) pa.toNat n).getLsbD v = true
          ∧ ∃ z old, depthOf st (pixelOf s b n).1 v = some z
            ∧ old = ofBytesLE (s.task.pad.getBytes (depthAt d (pixelOf s b n).1 (pixelOf s b n).2 v) 4)
            ∧ (f.toNat % 3 = 2 ∨ (fCompare 4 (fmtOf 10) z old).1 = true
              ∨ (f.toNat % 3 = 1 ∧ (fCompare 0 (fmtOf 10) z old).1 = true)))))
    ∧ (∀ n, s.cut = some n → n < lanes.length → ∃ (k : Task) (l : List (Nat × Word64)) (r : Regs),
      (l, k) = testLanes s d st (f.toNat % 3) (decide (3 ≤ f.toNat)) b pa.toNat (lanes.take n) s.task
      ∧ exec (.vtest pd pa b f) s = .next { s with task := k, me := { s.me with
          regs := r, path := { s.me.path with
            gone := maskWhere (fun x => (lanes.take n).contains x), wait := .none, snap := some (readRegs s) } } }))
  ∧ (∀ (s : State) (d : BitVec 7) (pa : BitVec 3) (b : BitVec 7) (f : BitVec 4) (tile : Word64) (l : List (Nat × Held)), Issues (.fbw d pa b f) s →
    tile = thirdTile s → lanesTrap s tile false b pa.toNat (viewLanes s pa.toNat) = none → s.cut = none → s.me.path.gone = 0 →
    s.task.empty = [] → s.core.clearing = none → s.core.matq = [] → s.task.badPad = [] → (∀ k, servedFirst s s.task k = false) →
    l = fbwWrites s d (pa.toNat, 0) (0, b) (f.toNat - 6) (viewLanes s pa.toNat) →
    (bitAt (extraOf s.me.path.lead).aux 3 = false →
      ∃ t, exec (.fbw d pa b f) s = .next t ∧ t.task = l.foldl (fun k e => applyHeld k e.2) s.task ∧ t.core = s.core
        ∧ t.me.regs = s.me.regs ∧ t.me.path = stepPast s.me.path ∧ t.me.lastTile = some (tileBase tile) ∧ t.mem = s.mem ∧ t.ctxs = s.ctxs)
    ∧ (bitAt (extraOf s.me.path.lead).aux 3 = true → registered s (tileBase tile) = none →
      exec (.fbw d pa b f) s = .next (wordTrap s (trapAt s 0x0E 0 (tileBase tile))))
    ∧ (∀ g, bitAt (extraOf s.me.path.lead).aux 3 = true → registered s (tileBase tile) = some g →
      (∀ e, (l.find? fun e => decide (e.2.serial ≤ g.mark)) = some e →
        exec (.fbw d pa b f) s = .next (wordTrap s (trapLane 0x0E 0 (laneOffset s tile false b pa.toNat e.1) e.1)))
      ∧ ((∀ e ∈ l, g.mark < e.2.serial) → (∃ e ∈ l, g.mark + 256 < e.2.serial) → exec (.fbw d pa b f) s = .next (wordStall s .merge))
      ∧ ((∀ e ∈ l, e.2.serial = g.mark + 1) →
        exec (.fbw d pa b f) s = .next (past { s with
          me := { s.me with lastTile := some (tileBase tile) }
          task := l.foldl (fun k e => applyHeld k e.2) s.task }))
      ∧ (l ≠ [] → (∀ e ∈ l, g.mark + 1 < e.2.serial ∧ e.2.serial ≤ g.mark + 256) →
        (heldCount s.core + l.length ≤ 1024 → ∃ t, exec (.fbw d pa b f) s = .next t
          ∧ registered t (tileBase tile) = some { g with held := g.held ++ l.map fun e => e.2 }
          ∧ t.task = s.task ∧ t.me.path = stepPast s.me.path ∧ t.me.regs = s.me.regs ∧ t.mem = s.mem)
        ∧ (1024 < heldCount s.core + l.length → exec (.fbw d pa b f) s = .next (wordStall s .merge)))))
  ∧ (∀ (s : State) (a b : BitVec 7) (d : Word64) (serial : Nat) (g : Registration), Issues (.fbdone a b) s →
    d = (aCode (readRegs s) a).base → serial = (aCode (readRegs s) b).base.toNat % 2 ^ 32 → tileTrap s d = none →
    ownLanesOpen s = false →
    (registered s (tileBase d) = none → exec (.fbdone a b) s = .next (wordTrap s (trapAt s 0x0E 0 (tileBase d))))
    ∧ (registered s (tileBase d) = some g →
      (serial ≤ g.mark ∨ g.prod < arrivalsOf g serial → exec (.fbdone a b) s = .next (wordTrap s (trapAt s 0x0E 0 (tileBase d))))
      ∧ (g.mark + 256 < serial → arrivalsOf g serial ≤ g.prod → exec (.fbdone a b) s = .next (wordStall s .merge))
      ∧ (g.held = [] → g.mark < serial → serial ≤ g.mark + 256 → arrivalsOf g serial < g.prod → (∀ n, arrivalsOf g n ≤ g.prod) →
        ∃ t, exec (.fbdone a b) s = .next t ∧ t.me = { s.me with path := stepPast s.me.path, lastTile := some (tileBase d) }
          ∧ t.task = s.task ∧ t.mem = s.mem
          ∧ registered t (tileBase d) = some { g with arrivals := setNat serial (arrivalsOf g serial + 1) g.arrivals })
      ∧ (g.held = [] → serial = g.mark + 1 → arrivalsOf g serial = g.prod → (∀ n, n ≠ serial → arrivalsOf g n ≤ g.prod) →
        ∃ t h, exec (.fbdone a b) s = .next t ∧ registered t (tileBase d) = some h ∧ h.mark = serial ∧ h.held = []
          ∧ t.task = s.task ∧ t.mem = s.mem ∧ t.me.regs = s.me.regs)))
  ∧ (∀ (s t : State) (dch : BitVec 2) (a b : BitVec 7) (d : Word64) (r : BitVec 512), Issues (.fbload dch a b) s →
    d = (aCode (readRegs s) a).base → tileRecord s d (valueA s b) = .ok (t, r) → registered t (tileBase d) = none →
    t.core.merge.length < 4 → (∀ c, (channel t.core c).queue = []) → t.core.matq = [] → t.core.clearing = none →
    (∀ k, servedFirst t t.task k = false) → lanesOpen t t.task = false → t.me.path = s.me.path → t.me.regs = s.me.regs → t.task.tid = s.task.tid →
    t.task.padSlots = s.task.padSlots →
    ∃ u, exec (.fbload dch a b) s = .next u
      ∧ (channel u.core dch.toNat).queue = [⟨t.nextOp, t.me.id, t.task.tid, .tileLoad d r, false, 0, 0, 0, none, []⟩]
      ∧ u.core.merge = t.core.merge ++ [⟨t.task.tid, d, recField r 320 32, recField r 288 6, [], []⟩]
      ∧ (∀ n ∈ linesOf (tileBase d) (tileSpan r), n ∈ u.task.empty) ∧ u.mem = t.mem ∧ u.me.regs = s.me.regs
      ∧ u.me.path = stepPast s.me.path)
  ∧ (∀ (s t : State) (dch : BitVec 2) (a b : BitVec 7) (d : Word64) (r : BitVec 512) (g : Registration), Issues (.fbstore dch a b) s →
    d = (aCode (readRegs s) a).base → tileRecord s d (valueA s b) = .ok (t, r) → registered t (tileBase d) = some g → g.held = [] →
    writesOpen t = false → (channel t.core dch.toNat).queue.length < 16 → t.me.path = s.me.path → t.me.regs = s.me.regs →
    ∃ u, exec (.fbstore dch a b) s = .next u
      ∧ (channel u.core dch.toNat).queue = (channel t.core dch.toNat).queue
          ++ [⟨t.nextOp, t.me.id, t.task.tid, .tileStore d r, false, 0, 0, 0, none, []⟩]
      ∧ registered u (tileBase d) = (t.core.merge.filter fun k => k != g).find? (fun k => k.task == t.task.tid && tileBase k.tile == tileBase d)
      ∧ u.mem = t.mem ∧ u.me.regs = s.me.regs ∧ u.me.path = stepPast s.me.path)

/-! ## Traversal (R171 to R178, R339, R340) -/

/-- TRAVSET puts the root onto the stack of each lane of p0, with t 0, and count 1 into D (R173, R339). TRAV takes from each lane whose
stack is not empty its last entry: a candidate leaf ends the lane's walk, its reference and t in D + 1 and D + 2, its bit in a p register
and the count without it in D; an empty stack leaves count 0 and bit 0 (R173, R340). After walks with no trap the counts, bits and
candidates of every lane are written, and a call-out begins where one stopped at a candidate (R177). The order over lanes is log entry 42. -/
def Obligations.TraversalWords : Prop :=
  (∀ (s : State) (d : BitVec 7) (bpair : BitVec 4) (k : TravDesc) (n : Nat), Issues (.travset d bpair) s →
    k = travDesc s bpair → n = s.task.stack → travTrap s k n = none → (∀ l ∈ lanesOf s.me.path.mask, stackTrap s k n l = none) →
    s.core.clearing = none → s.core.matq = [] → (∀ k, servedFirst s s.task k = false) → s.task.pad.wf = true →
    ∃ m : Task, exec (.travset d bpair) s = .next { wrote s (lanesInto s d.toNat .int32 fun _ => 1) with task := m }
      ∧ { m with pad := s.task.pad, empty := s.task.empty, badPad := s.task.badPad } = s.task
      ∧ (∀ l ∈ lanesOf s.me.path.mask, m.pad.getBytes (k.sbase + 8 * (n * l)) 8 = bytesLE 8 k.root)
      ∧ (∀ o, (∀ l ∈ lanesOf s.me.path.mask, ¬ (k.sbase + 8 * (n * l) ≤ o ∧ o < k.sbase + 8 * (n * l) + 8)) → m.pad.get o = s.task.pad.get o))
  ∧ (∀ (i : Instr) (s : State) (d a : BitVec 7) (bpair : BitVec 4) (bp : BitVec 3) (ray : Bool) (k : TravDesc) (n : Nat)
      (query : Nat → Query) (count entry : Nat → Nat), Issues i s →
    ((i = .travRay d a bpair bp ∧ ray = true) ∨ (i = .travBox d a bpair bp ∧ ray = false)) →
    k = travDesc s bpair → n = s.task.stack → travTrap s k n = none →
    query = (fun l => ⟨ray, (List.range (if ray then 8 else 6)).map fun j =>
      (srcWord s.me (readRegs s) (srcOf (readRegs s) s.me.path.lead 0 a.toNat) j l).toNat⟩) →
    (∀ l ∈ lanesOf s.me.path.mask, (vLane (readRegs s) d.toNat l).toInt = Int.ofNat (count l) ∧ count l ≤ n ∧ stackTrap s k n l = none) →
    s.me.callout = false → s.me.loadAfter ≤ myTime s →
    (∀ l ∈ lanesOf s.me.path.mask, 0 < count l → (query l).vals.any isNan32 = false
      ∧ emptyIn s.task (stackAt k n l (count l - 1)) 8 l = []
      ∧ entry l = ofBytesLE (s.task.pad.getBytes (stackAt k n l (count l - 1)) 8) ∧ bitAt (entry l) 63 = true
      ∧ (ray = true → beyond (bitsOf (entry l) 32 31) ((query l).at 7) = false)) →
    s.core.clearing = none → s.task.badPad = [] → d.toNat + 2 < 64 →
    ∃ u, exec i s = .next u ∧ u.mem = s.mem ∧ u.task = s.task ∧ u.me.path = stepPast s.me.path
      ∧ (u.me.callout = true ↔ ∃ l ∈ lanesOf s.me.path.mask, 0 < count l)
      ∧ ∀ l ∈ lanesOf s.me.path.mask, vLane u.me.regs d.toNat l = BitVec.ofNat 32 (count l - 1)
        ∧ ((vget u.me.regs.p bp.toNat 0).getLsbD l = true ↔ 0 < count l)
        ∧ (0 < count l → vLane u.me.regs (d.toNat + 1) l = BitVec.ofNat 32 (bitsOf (entry l) 0 32)
          ∧ vLane u.me.regs (d.toNat + 2) l = BitVec.ofNat 32 (bitsOf (entry l) 32 31)))
  ∧ (∀ (i : Instr) (s t : State) (d a : BitVec 7) (bpair : BitVec 4) (bp : BitVec 3) (ray : Bool) (k : TravDesc) (n : Nat)
      (query : Nat → Query) (count : Nat → Nat) (l : List (Nat × LaneWalk)), Issues i s →
    ((i = .travRay d a bpair bp ∧ ray = true) ∨ (i = .travBox d a bpair bp ∧ ray = false)) →
    k = travDesc s bpair → n = s.task.stack → travTrap s k n = none →
    query = (fun l => ⟨ray, (List.range (if ray then 8 else 6)).map fun j =>
      (srcWord s.me (readRegs s) (srcOf (readRegs s) s.me.path.lead 0 a.toNat) j l).toNat⟩) →
    (∀ l ∈ lanesOf s.me.path.mask, (vLane (readRegs s) d.toNat l).toInt = Int.ofNat (count l) ∧ count l ≤ n ∧ stackTrap s k n l = none) →
    s.me.callout = false → s.me.loadAfter ≤ myTime s →
    walkLanes k n ((readRegs s).budget.toNat % 2 ^ 16) query count (lanesOf s.me.path.mask) s = .ok (t, l) →
    (∀ w ∈ l, w.2.trap = none) → t.me.path = s.me.path → d.toNat + 2 < 64 →
    ∃ u, exec i s = .next u ∧ u.mem = t.mem ∧ u.task = t.task ∧ u.ctxs = t.ctxs ∧ u.me.path = stepPast s.me.path
      ∧ ∀ w ∈ l, vLane u.me.regs d.toNat w.1 = BitVec.ofNat 32 w.2.count
        ∧ ((vget u.me.regs.p bp.toNat 0).getLsbD w.1 = true ↔ w.2.leaf.isSome = true)
        ∧ ∀ ref at_, w.2.leaf = some (ref, at_) → vLane u.me.regs (d.toNat + 1) w.1 = BitVec.ofNat 32 ref
          ∧ vLane u.me.regs (d.toNat + 2) w.1 = BitVec.ofNat 32 at_)

/-! ## Contexts that wait (R17, R21, R32, R41, R57, R106, R238, R311, R373) -/

/-- What ends a wait. A parked tract that is the one of its core makes its next window a stand once a file and a slot are free, the last
in its own slot (R20, R21; that this slot counts as free for it is log entry 90); the lowest pending piece of a running task takes a
free slot (R17); a piece goes on after 256 core clocks at its RJOIN, and not before (R32); where blocked stands hold every file, one
goes to a save area of its pool, and one that may return goes on with a free file and slot (R41, R191); a word that has waited past its
region's limit traps with 0x0D, detail 2, on an empty line and with 0x0F for credits (R57, R125), and a SEMW ends with code 1 out of the
queue (R311); a hold of YIELD ends at its time or when no context is left that it waits for (R238), and a wait for the pending horizon
at its time (R106); a stand refused a bank port is marked urgent (R373). The choice of a stand to spill is log entry 49. -/
def Obligations.WaitsEnd : Prop :=
  (∀ (s : State) (f : Nat × Nat) (more : List (Nat × Nat)), s.me.kind = .parked → s.task.phase = .running → s.task.tid = s.me.task →
    (∀ c ∈ s.ctxs, c.kind ≠ .parked) → s.dev.spilled = [] → freeFiles s s.task = f :: more →
    (nextCursor s.me.box s.me.seams s.me.cursor = none →
      exec (.parkedTractServe s.task.core) s = .next { s with me := makeStand s.me s.me.cursor s.me.id s.me.slotNo f })
    ∧ (∀ d, nextCursor s.me.box s.me.seams s.me.cursor = some d →
      (∀ k slots, freeSlots s s.task.core = k :: slots →
        exec (.parkedTractServe s.task.core) s = .next { s with
          ctxs := s.ctxs ++ [makeStand s.me s.me.cursor s.nextCtx k f], nextCtx := s.nextCtx + 1, me := { s.me with cursor := d } })
      ∧ (freeSlots s s.task.core = [] → exec (.parkedTractServe s.task.core) s = .next s)))
  ∧ (∀ (s : State) (c : Context) (k : Nat) (more : List Nat), getCtx s c.id = some c → c.kind = .pending → lowestPending s c = true →
    (∃ t, getTask s c.task = some t ∧ t.phase = .running) → freeSlots s (coreOf s c) = k :: more →
    exec (.pendingPieceStart c.id) s = .next (putCtx s { c with kind := .tract, slotNo := k }))
  ∧ (∀ (s : State) (c : Context) (since : Nat), getCtx s c.id = some c → c.path.wait = .rejoin since →
    (since + clocksNs s (coreOf s c) 256 ≤ coreClock s (coreOf s c) →
      exec (.rjoinWaitExpire c.id) s = .next (putCtx s { c with path := { c.path with wait := .none } }))
    ∧ (coreClock s (coreOf s c) < since + clocksNs s (coreOf s c) 256 → exec (.rjoinWaitExpire c.id) s = .next s))
  ∧ (∀ (s : State) (core a : Nat) (p c : Context) (t : Task), oldestParked s core (fun c => !servable s c) = some p →
    filesBlocked s core = true → youngestBlocked s p.task = some c → getTask s p.task = some t →
    findArea s t.part 65536 = some a → areaWait s a 65536 true = none →
    ∃ u, exec (.standSpill core) s = .next u
      ∧ u.dev.spilled = s.dev.spilled ++ [{ c with file := none, area := some a }]
      ∧ (t.tid, a, 65536) ∈ u.dev.areas)
  ∧ (∀ (s : State) (core k : Nat) (f : Nat × Nat) (files : List (Nat × Nat)) (slots : List Nat) (c : Context) (t : Task),
    returnable s core = some c → getTask s c.task = some t → freeFiles s t = f :: files → freeSlots s core = k :: slots →
    ∃ u, exec (.spillReturn core) s = .next u
      ∧ u.ctxs = s.ctxs ++ [{ c with file := some f, slotNo := k, area := none }]
      ∧ u.dev.spilled = (s.dev.spilled.filter fun d => d.id != c.id)
      ∧ (∀ a, c.area = some a → ∀ x ∈ u.dev.areas, x.2.1 ≠ a) ∧ u.me = s.me ∧ u.mem = s.mem)
  ∧ (∀ (s : State) (since limit slot : Nat) (packet : BitVec 32) (w : Stall) (d : Region), s.me.kind ≠ .idle →
    s.me.path.wait = .stall w since → waitLimitOf s s.task.region = some limit → since + limit < myTime s →
    s.me.path.run = some (packet, [slot]) → s.me.path.pend = none → s.me.path.pendSlots = [] → s.me.path.reseed = false →
    s.me.frame = none → (∀ c ∈ s.dev.spilled, c.id ≠ s.me.id) → effective s s.task.region 5 = some d → d.hcode ≠ 0 →
    (∀ l e, w = .emptyLine l → remoteOf s s.me.id s.me.path.id = none → (l.find? fun x => s.task.empty.contains x.1) = some e →
      ∃ u, exec (.waitLimitExpire s.me.id s.me.path.id) s = .next u
        ∧ u.me.cause = BitVec.ofNat 64 (0x0D + atBit 2 8 + atBit slot 21) ∧ u.me.causeAddr = BitVec.ofNat 64 e.2.1
        ∧ u.me.path.pc = BitVec.ofNat 32 d.hentry ∧ u.me.regs = s.me.regs ∧ u.mem = s.mem)
    ∧ (w = .credits → ∃ u, exec (.waitLimitExpire s.me.id s.me.path.id) s = .next u
        ∧ u.me.cause = BitVec.ofNat 64 (0x0F + atBit slot 21)
        ∧ u.me.causeAddr = BitVec.ofNat 64 (slotAddr (codeBase s) packet slot)
        ∧ u.me.path.pc = BitVec.ofNat 32 d.hentry ∧ u.me.regs = s.me.regs ∧ u.mem = s.mem))
  ∧ (∀ (s : State) (since limit dest num : Nat), s.me.kind ≠ .idle → s.me.path.wait = .stall (.semaphore dest num) since →
    waitLimitOf s s.task.region = some limit → since + limit ≤ myTime s → s.me.path.pend = none → s.me.path.reseed = false →
    (∀ c ∈ s.dev.spilled, c.id ≠ s.me.id) →
    ∃ u, exec (.semwWaitLimit s.me.id s.me.path.id) s = .next u
      ∧ u.me = { s.me with path := stepPast s.me.path, regs := formInto s (BitVec.ofNat 7 dest) (uniform 1 .int32) }
      ∧ (s.me.id, s.me.path.id) ∉ (semOf u num).waiters ∧ (semOf u num).value = (semOf s num).value ∧ u.mem = s.mem)
  ∧ (∀ (s : State) (t : Nat) (others : List Nat), s.me.kind ≠ .idle → s.me.path.held = some (t, others) →
    (∀ c ∈ s.dev.spilled, c.id ≠ s.me.id) →
    (t ≤ myTime s ∨ others = [] → exec (.yieldHoldExpire s.me.id s.me.path.id) s =
      .next { s with me := { s.me with path := { s.me.path with held := none } } })
    ∧ (myTime s < t → others ≠ [] → exec (.yieldHoldExpire s.me.id s.me.path.id) s = .next s))
  ∧ (∀ (s : State) (c : Context), getCtx s c.id = some c → c.kind = .stand →
    exec (.bankPortUrgent c.id) s = .next (putCtx s { c with urgent := true }))
  ∧ (∀ (s : State) (w : Stall) (since : Nat), s.me.kind ≠ .idle → s.me.path.wait = .stall w since →
    (∀ c ∈ s.dev.spilled, c.id ≠ s.me.id) →
    (w = .fence ∧ fenceReady s = true) ∨ (w = .load ∧ s.me.loadAfter ≤ myTime s) →
    exec (.pendingHorizonGuardReached s.me.id s.me.path.id) s =
      .next { s with me := { s.me with path := { s.me.path with wait := .none } } })

/-! ## Regions, queues, launches (R311, R354 to R370, R252) -/

/-- The commands of the window and the words that reach a queue. A command with a reserved bit set ends with code 1 and no effect (R358).
REGLOAD puts the region of its control block, a root, into the tree, or renews one there with its counts kept; REGFREE takes one out that
nothing uses, its counts written back and its launches cut short; QSET takes a queue from its
descriptor and QSTOP closes it, SEMSET sets a semaphore and its stamp (R311, R354 to R359). A record of 64 bytes for a queue that takes it
is appended, and any other write of a slot counted in DROP (R360); LAUNCH appends one and writes code 0, exposing its task, or writes 1
where the ring is full, 2 for a queue number past the last or a queue it may not use and 3 for a queue that is not open (R252). Codes that R358 does not give are log entries 23 and 25, that blocks, descriptors and rings lie under
partition 0's translation log entry 21, the kept counts of a renewed region with FRHEAD and LOST among them log entry 26, and that a
command waits for a block that it cannot read yet log entry 96. -/
def Obligations.QueueCommands : Prop :=
  (∀ (s : State) (arg0 arg1 seq : Word64), isReady s = true →
    (arg0.toNat ≤ 4095 → ∃ u, exec (.semset 0#56 arg0 arg1 seq) s = .next u ∧ u.dev.status = (seq, 0#8)
      ∧ (semOf u arg0.toNat).value = arg1.toNat % 2 ^ 32 ∧ (semOf u arg0.toNat).stamp = controlClock s + 4
      ∧ (∀ n, n ≠ arg0.toNat → semOf u n = semOf s n) ∧ u.mem = s.mem)
    ∧ (4095 < arg0.toNat → exec (.semset 0#56 arg0 arg1 seq) s = .next { s with dev := { s.dev with status := (seq, 6#8) } }))
  ∧ (∀ (s : State) (resv : BitVec 56) (arg0 arg1 seq : Word64) (i : Instr), isReady s = true → resv ≠ 0 →
    i = .regload resv arg0 arg1 seq ∨ i = .regfree resv arg0 arg1 seq ∨ i = .qset resv arg0 arg1 seq ∨ i = .qstop resv arg0 arg1 seq
      ∨ i = .semset resv arg0 arg1 seq →
    exec i s = .next { s with dev := { s.dev with status := (seq, 1#8) } })
  ∧ (∀ (s t : State) (arg0 arg1 seq : Word64) (bytes : List Byte) (r : Region), isReady s = true → arg0.toNat % 256 = 0 →
    deviceRead s 0 arg0.toNat 256 = .ok (t, bytes) → bitsOf (ofBytesLE bytes) 0 48 = 0 → r = parseRegion arg0.toNat (ofBytesLE bytes) none →
    (regionOk t r = false → exec (.regload 0#56 arg0 arg1 seq) s = .next { t with dev := { t.dev with status := (seq, 2#8) } })
    ∧ (regionOk t r = true → getRegion t r.num = none →
      (t.dev.regions.length < 4096 → exec (.regload 0#56 arg0 arg1 seq) s =
        .next { t with dev := { t.dev with status := (seq, 0#8), regions := t.dev.regions ++ [r] } })
      ∧ (4096 ≤ t.dev.regions.length → exec (.regload 0#56 arg0 arg1 seq) s =
        .next { t with dev := { t.dev with status := (seq, 3#8) } }))
    ∧ (∀ old, regionOk t r = true → getRegion t r.num = some old → ∃ u, exec (.regload 0#56 arg0 arg1 seq) s = .next u
        ∧ u.dev.status = (seq, 0#8) ∧ (∀ n, n ≠ r.num → getRegion u n = getRegion t n)
        ∧ getRegion u r.num = some { r with
            used := old.used, cused := old.cused, fused := old.fused, frhead := old.frhead, lost := old.lost }))
  ∧ (∀ (s : State) (arg0 arg1 seq : Word64) (e : XFail), isReady s = true → arg0.toNat % 256 = 0 →
    deviceRead s 0 arg0.toNat 256 = .error e → e.code = 0 → exec (.regload 0#56 arg0 arg1 seq) s = .next (askHost s e))
  ∧ (∀ (s : State) (arg0 arg1 seq : Word64), isReady s = true →
    ((getRegion s arg0.toNat).isSome = true → regionBusy s arg0.toNat = false →
      ∃ u, exec (.regfree 0#56 arg0 arg1 seq) s = .next u ∧ u.dev.status = (seq, 0#8) ∧ getRegion u arg0.toNat = none
        ∧ (∀ n, n ≠ arg0.toNat → getRegion u n = getRegion s n)
        ∧ (∀ g ∈ s.dev.launches, g.region = arg0.toNat → g.cut ∈ u.dev.launches)
        ∧ (∀ r, getRegion s arg0.toNat = some r → u.mem = (deviceWrite s 0 (r.addr + 96) (bytesLE 16 (countBits r))).mem))
    ∧ (getRegion s arg0.toNat = none →
      exec (.regfree 0#56 arg0 arg1 seq) s = .next { s with dev := { s.dev with status := (seq, 8#8) } })
    ∧ ((getRegion s arg0.toNat).isSome = true → regionBusy s arg0.toNat = true →
      exec (.regfree 0#56 arg0 arg1 seq) s = .next { s with dev := { s.dev with status := (seq, 4#8) } }))
  ∧ (∀ (s t : State) (arg0 arg1 seq : Word64) (bytes : List Byte) (q : Queue), isReady s = true → arg0.toNat ≤ 16383 →
    arg1.toNat % 64 = 0 → deviceRead s 0 arg1.toNat 64 = .ok (t, bytes) →
    q = parseQueue arg0.toNat arg1.toNat (ofBytesLE bytes) (getQueue t arg0.toNat) → q.shdie < 5 → q.ring % 4096 = 0 →
    bitsOf (ofBytesLE bytes) 134 26 = 0 → bitsOf (ofBytesLE bytes) 192 320 = 0 → (getRegion t q.region).isSome = true →
    (q.tail - q.head).toNat ≤ q.room →
    ∃ u, exec (.qset 0#56 arg0 arg1 seq) s = .next u ∧ u.dev.status = (seq, 0#8) ∧ getQueue u arg0.toNat = some q
      ∧ (∀ n, n ≠ arg0.toNat → getQueue u n = getQueue t n) ∧ u.mem = t.mem)
  ∧ (∀ (s : State) (arg0 arg1 seq : Word64), isReady s = true →
    (∀ q, getQueue s arg0.toNat = some q → (getRegion s q.region).isSome = true →
      ∃ u, exec (.qstop 0#56 arg0 arg1 seq) s = .next u ∧ u.dev.status = (seq, 0#8) ∧ getQueue u arg0.toNat = some { q with en := false })
    ∧ (getQueue s arg0.toNat = none →
      exec (.qstop 0#56 arg0 arg1 seq) s = .next { s with dev := { s.dev with status := (seq, 5#8) } }))
  ∧ (∀ (s : State) (n off : Nat) (data : List Byte) (k : Queue), getQueue s n = some k →
    (∀ t x, isReady s = true → k.en = true → k.hasRoom = true → off = 0 → data.length = 64 → s.dev.posted = [] →
      deviceXlat s 0 (k.ring + 64 * (k.tail.toNat % k.room)) .deviceWrite = .ok (t, x) → paKind x.pa ≠ some .mmio →
      inCapPage t x.pa = false → sealed t 0 (placeOf t x.pa) = false → t.mem.wf = true → (k.tail + 1).toNat % 256 ≠ 0 →
      ∃ u, exec (.hostSlotWrite n (off, data)) s = .next u
        ∧ getQueue u n = some { k with tail := k.tail + 1, stamps := k.stamps ++ [s.time] }
        ∧ WritesAt t.mem u.mem (placeOf t x.pa) data ∧ u.me = s.me)
    ∧ (isReady s = false ∨ k.en = false ∨ k.hasRoom = false ∨ off ≠ 0 ∨ data.length ≠ 64 →
      ∃ u, exec (.hostSlotWrite n (off, data)) s = .next u ∧ getQueue u n = some { k with drop := k.drop + 1 } ∧ u.mem = s.mem))
  ∧ (∀ (s : State) (d a b : BitVec 7), Issues (.launch d a b) s → valueA s b % 64 = 0 →
    (16383 < valueA s a → exec (.launch d a b) s = .next (wrote s (formInto s d (uniform 2 .int32))))
    ∧ (valueA s a ≤ 16383 → fenceReady s = false → exec (.launch d a b) s = .next (wordStall s .fence))
    ∧ (valueA s a ≤ 16383 → fenceReady s = true → ∀ t bytes, readOnce s (valueA s b) 64 (electedLane s) true = .ok (t, bytes) →
      t.me.path = s.me.path → t.me.regs = s.me.regs →
      (∀ k, getQueue t (valueA s a) = some k → k.en = true → isReady t = true → mayEnqueue t t.task k = true → k.hasRoom = true →
        ∃ u, exec (.launch d a b) s = .next u
          ∧ getQueue u (valueA s a) = some { k with tail := k.tail + 1, stamps := k.stamps ++ [t.time] }
          ∧ u.task.exposed = true ∧ u.me.regs = formInto s d (uniform 0 .int32) ∧ u.me.path = stepPast s.me.path)
      ∧ (∀ k, getQueue t (valueA s a) = some k → k.en = true → isReady t = true → mayEnqueue t t.task k = true → k.hasRoom = false →
        exec (.launch d a b) s = .next (past { t with me := { t.me with regs := formInto s d (uniform 1 .int32) } }))
      ∧ (∀ k, getQueue t (valueA s a) = some k → k.en = true → isReady t = true → mayEnqueue t t.task k = false →
        exec (.launch d a b) s = .next (past { t with me := { t.me with regs := formInto s d (uniform 2 .int32) } }))
      ∧ ((∀ k, getQueue t (valueA s a) = some k → k.en = false ∨ isReady t = false) →
        exec (.launch d a b) s = .next (past { t with me := { t.me with regs := formInto s d (uniform 3 .int32) } }))))
  ∧ (∀ (s : State) (d a b : BitVec 7), Issues (.launch d a b) s → valueA s b % 64 ≠ 0 →
    exec (.launch d a b) s = .next (wordTrap s (trapAt s 0x08 0 (valueA s b))))

/-- A launch from its queue to its completion record. The control die dequeues the head record of the next queue and makes a launch with
the next serial, whose status is 1, 2 or 3 by the first check that fails (R361, R363, R367); it takes what its semaphore waits ask for,
one after another, or waits in the queue (R365); its pieces are dealt in order to dies with room, but none behind an earlier launch of the
same or a higher priority with pieces left (R368), and the oldest in a die's shadow that a
core can hold is placed as a task with one root tract (R10, R362, R369, R370); a task that has retired with version bytes gets one commit
time later than every expiry and every commit before, and its homes make the bytes their own when their time comes (R108); and
the completion record and PROD are written once every task has ended, and the launch is gone (R366). Log entries 16, 38 and 75 give what
the rules leave open; that both rings are reached through translation is log entry 21, and that the device waits for what it cannot read
yet log entry 96. -/
def Obligations.LaunchLife : Prop :=
  (∀ (s t : State) (q : Queue) (r : Region) (bytes : List Byte) (rec : BitVec 512) (pwx : Nat), isReady s = true → nextQueue s = some q →
    getQueue s q.num = some q → getRegion s q.region = some r →
    deviceRead s 0 (q.ring + 64 * (q.head.toNat % q.room)) 64 = .ok (t, bytes) → rec = BitVec.ofNat 512 (ofBytesLE bytes) →
    pwx = pieceWidth t r.num rec →
    ∃ (u : State) (g : Launch), exec .launchDequeue s = .next u ∧ u.dev.launches = s.dev.launches ++ [g]
      ∧ g.serial = s.dev.serial ∧ u.dev.serial = (s.dev.serial + 1) % 2 ^ 24 ∧ g.record = rec ∧ g.queue = q.num ∧ g.region = r.num
      ∧ g.prio = r.prio
      ∧ getQueue u q.num = some { q with head := q.head + 1, stamps := q.stamps.drop 1, previous := some s.dev.serial }
      ∧ (planOk (recBits rec 256 64) = false → g.status = 1)
      ∧ (planOk (recBits rec 256 64) = true → recordOk t r.num rec pwx = false → g.status = 2)
      ∧ (planOk (recBits rec 256 64) = true → recordOk t r.num rec pwx = true →
          ((∀ c ∈ placementSet t r.num, couldHold t r.part (recBits rec 256 64) c = false) → g.status = 3)
          ∧ ((∃ c ∈ placementSet t r.num, couldHold t r.part (recBits rec 256 64) c = true) →
            g.status = 0 ∧ g.total = pieceTotal rec pwx ∧ g.waits = launchWaits rec))
      ∧ (g.status ≠ 0 → g.total = 0 ∧ g.waits = []) ∧ u.mem = t.mem)
  ∧ (∀ (s : State) (q : Queue) (e : XFail), isReady s = true → nextQueue s = some q → (getRegion s q.region).isSome = true →
    deviceRead s 0 (q.ring + 64 * (q.head.toNat % q.room)) 64 = .error e → e.code = 0 → exec .launchDequeue s = .next (askHost s e))
  ∧ (∀ (s : State) (i j : Nat) (a b h k : Launch), s.dev.launches[i]? = some a → s.dev.launches[j]? = some b → i < j → b.prio ≤ a.prio →
    (dealAll s).dev.launches[i]? = some h → (dealAll s).dev.launches[j]? = some k → dealsOn s h = true →
    k.dealt = b.dealt ∧ ∀ die, ∀ x ∈ k.waitingAt die, x ∈ b.waitingAt die)
  ∧ (∀ (s : State) (g : Launch) (num n : Nat) (rest : List (Nat × Nat)), getLaunch s g.serial = some g → g.waits = (num, n) :: rest →
    ((semOf s num).waiters = [] ∨ (semOf s num).waiters.head? = some (0, g.serial)) →
    (n ≤ (semOf s num).value → ∃ u, exec (.launchSemaphoreWait g.serial) s = .next u
      ∧ (semOf u num).value = (semOf s num).value - n ∧ (0, g.serial) ∉ (semOf u num).waiters
      ∧ getLaunch u g.serial = some { g with waits := rest, after := max g.after (semOf s num).stamp })
    ∧ ((semOf s num).value < n → ∃ u, exec (.launchSemaphoreWait g.serial) s = .next u
      ∧ (0, g.serial) ∈ (semOf u num).waiters ∧ (semOf u num).value = (semOf s num).value ∧ getLaunch u g.serial = some g))
  ∧ (∀ (g h : Launch) (now : Nat) (dies : List Nat), (∀ d ∈ dies, d < 4) → g.dealOne now dies = some h →
    ∃ d ∈ dies, (g.waitingAt d).length < 16 ∧ h.turn = d ∧ (∀ e, e ≠ d → e < 4 → h.waitingAt e = g.waitingAt e)
      ∧ (∀ n rest, g.back = n :: rest → h.waitingAt d = g.waitingAt d ++ [(n, now)] ∧ h.back = rest ∧ h.dealt = g.dealt)
      ∧ (g.back = [] → h.waitingAt d = g.waitingAt d ++ [(g.dealt, now)] ∧ h.dealt = g.dealt + 1 ∧ h.dealt ≤ g.total))
  ∧ (∀ (s w : State) (die n k since : Nat) (g : Launch) (t : Task) (more : List (Launch × Nat × Nat)), w = dealAll (stash s) →
    w.dev.waiting = [] → w.dev.saved = [] → waitingPieces w die = (g, n, since) :: more → getLaunch w g.serial = some g →
    t = pieceTask g n k → chooseCore w g.region g.part t.plan.toNat t.tid die = some k →
    ∃ (u : State) (m : Task) (c : Context), exec (.piecePlacement die) s = .next u ∧ u.tasks = w.tasks ++ [m] ∧ u.ctxs = w.ctxs ++ [c]
      ∧ m.tid = g.serial * 2 ^ 24 + n ∧ m.core = k ∧ m.phase = .running ∧ m.box = pieceBox g.record g.pwx n ∧ m.placedAt = w.time
      ∧ m.code = recBits g.record 0 48 ∧ m.entry = recBits g.record 48 16
      ∧ c.task = m.tid ∧ c.kind = .tract ∧ c.box = m.box ∧ c.regs = Regs.reset ∧ c.path.pc = BitVec.ofNat 32 m.entry ∧ c.path.slot = 0
      ∧ c.loadAfter = g.after
      ∧ getLaunch u g.serial = some { g with
          shadow := vset g.shadow die ((g.waitingAt die).filter fun x => x.1 != n), placed := g.placed + 1, live := g.live ++ [m.tid] }
      ∧ u.mem = s.mem)
  ∧ (∀ (s : State) (t : Task) (w : Nat), getTask s t.tid = some t → t.phase = .committing → t.commitAt = none →
    (∀ l ∈ versionLines t.vlines, hostHolds s (128 * l) = false ∧ dieShut s (128 * l) (versionHome s (128 * l)) = false) →
    w = commitTime s t →
    ∃ u, exec (.versionCommit t.tid) s = .next u ∧ getTask u t.tid = some { t with commitAt := some w } ∧ u.dev.lastCommit = w
      ∧ s.dev.lastCommit < w ∧ commitExpiry s t < w ∧ latestClock s < w ∧ u.mem = s.mem)
  ∧ (∀ (s : State) (t : Task) (w : Nat), getTask s t.tid = some t → t.commitAt = some w → s.dev.swaps = [] → s.mem.wf = true →
    cellsRise t.vlines = true → (∀ c ∈ t.vlines, inDevice c.1 = true ∧ sealed s t.part c.1 = false ∧ inCapPage s c.1 = false) →
    ((∀ c ∈ t.vlines, homeClock s (versionHome s c.1) < w) → (commitTask s t).mem = s.mem)
    ∧ ((∀ c ∈ t.vlines, w < homeClock s (versionHome s c.1) ∧ dieShut s c.1 (versionHome s c.1) = false) →
      (∀ a, (commitTask s t).mem.get a = (cellGet t.vlines a).getD (s.mem.get a)) ∧ getTask (commitTask s t) t.tid = none))
  ∧ (∀ (s q v : State) (g : Launch) (ring size : Nat) (prod cons : Word32), getLaunch s g.serial = some g → launchEnded s g = true →
    ring = recBits g.record 448 48 → size = recBits g.record 423 5 → deviceStall s g.part ring 16 = none → ringCounts s g = (q, prod, cons) →
    (2 ^ size ≤ (prod - cons).toNat → exec (.completionRecordWrite g.serial) s = .next q)
    ∧ ((prod - cons).toNat < 2 ^ size →
      v = deviceWrite (deviceWrite q g.part (ring + 64 + 32 * (prod.toNat % 2 ^ size))
            (bytesLE 32 (completionBits g (controlClock q) prod.toNat size))) g.part ring (bytesLE 4 (prod + 1).toNat) →
      ∃ u, exec (.completionRecordWrite g.serial) s = .next u ∧ u.mem = v.mem
        ∧ u.dev.launches = (s.dev.launches.filter fun k => k.serial != g.serial)
        ∧ (recBits g.record 422 1 = 1 → (g.status = 0 ∨ 4 ≤ g.status) →
            (semOf u (recBits g.record 410 12)).value = min ((semOf s (recBits g.record 410 12)).value + 1) (2 ^ 32 - 1))))

/-! ## Pre-emption, save and restore, self-tests (R397 to R405) -/

/-- Pre-emption is requested of the task the control die picks (R399): deferred while a context of it is in a handler, with the choice made
when the deferral ends (R400), and else it drains where it is coupled or soon done, restarts where it is not exposed, idempotent and young
enough, or is saved where its pool has room. A deferral of 20 µs ends in a region fault with 0x38, and not before (R400). A save waits until
all of the task's work is done, and then records its contexts and takes it off its core (R402); a restore, once a core can take the task and
its fences are over, rebuilds it when CHECK holds and ends it as fatal when not (R404, R405). The test of a bank begins once a
spare bank can take its place, owner and role; its end counts the error, a lasting one maps the bank out, and decides for the context that
waits (R397, R398). Which task is picked, and when it comes back, are log entries 54 and 55; when a test begins and which contexts it
ends for is log entry 48, and that a save or a restore waits for the lines of its area log entry 96. -/
def Obligations.TasksLeave : Prop :=
  (∀ (s : State) (t : Task), getTask s t.tid = some t →
    (t.choice = true → exec (.preemptRequest t.tid) s =
      .next (chooseLeave (putTask s { t with choice := false }) { t with choice := false } 10000))
    ∧ (∀ v, t.choice = false → t.preqAt = none → nextVictim s = some v → v.tid = t.tid →
      (inHandler s t.tid = true →
        exec (.preemptRequest t.tid) s = .next (putTask s { t with preqAt := some (coreClock s t.core), asked := true }))
      ∧ (∀ k u, inHandler s t.tid = false → k = { t with asked := true } → u = putTask s k →
        (t.phase ≠ .running ∨ coupled u k = true
            ∨ (0 < t.retired ∧ elapsed u k * (boxItems t.box - t.retired) ≤ 10000 * t.retired) →
          exec (.preemptRequest t.tid) s = .next u)
        ∧ (t.phase = .running → coupled u k = false →
            (t.retired = 0 ∨ 10000 * t.retired < elapsed u k * (boxItems t.box - t.retired)) →
          (t.exposed = false → t.idem = true → elapsed u k ≤ saveCost u k →
            exec (.preemptRequest t.tid) s = .next (restartTask u t.tid false))
          ∧ (t.exposed = true ∨ t.idem = false ∨ saveCost u k < elapsed u k →
            (∀ place, saveRoom u k = some place → exec (.preemptRequest t.tid) s = .next (beginSave u t.tid place))
            ∧ (saveRoom u k = none → exec (.preemptRequest t.tid) s = .next u))))))
  ∧ (∀ (s : State) (since : Nat), s.me.kind ≠ .idle → s.me.task = s.task.tid → s.task.phase ≠ .done → s.task.phase ≠ .waiting →
    s.me.frame.isSome = true → s.task.preqAt = some since →
    (since + 20000 ≤ coreClock s s.task.core →
      exec (.preemptDeferTimeout s.task.tid) s = .next (regionFault s s.task.region (trapHere s 0x38 0)
        ⟨6, slotOf s.me.path, wordAddr s, false, false, false, 0, 0⟩ s.task.tid))
    ∧ (coreClock s s.task.core < since + 20000 → exec (.preemptDeferTimeout s.task.tid) s = .next s))
  ∧ (∀ (s : State) (t : Task) (place : Nat), getTask s t.tid = some t → t.saveAt = some place →
    (saveReady s t = false → exec (.contextSave t.tid) s = .next s)
    ∧ (saveReady s t = true → everyCtxOf s t.tid ≠ [] → saveError t (everyCtxOf s t.tid) = none →
      areaWait s place (areaLength s t (savedContexts s t.tid) t.cancelled.length) true = none →
      (∀ c ∈ liveCtxs s, ∀ d ∈ liveCtxs s ++ s.dev.spilled, c.id = d.id → c.task = d.task) →
      ∃ (u : State) (v : Saved), exec (.contextSave t.tid) s = .next u ∧ u.dev.saved = s.dev.saved ++ [v] ∧ v.area = place ∧ v.clock = coreClock s t.core
        ∧ v.task = { t with plan := BitVec.ofNat 64 (planNow s t), saveAt := none }
        ∧ v.ctxs = (ctxsOf s t.tid).map Context.toSave ∧ v.regs = (getCore s t.core).merge.filter (fun g => g.task == t.tid)
        ∧ getTask u t.tid = none ∧ ctxsOf u t.tid = []))
  ∧ (∀ (s : State) (core : Nat) (v : Saved), (s.dev.saved.find? fun k => k.task.tid == v.task.tid) = some v →
    (restorable s v core = false ∨ restoreFenced s v core = false ∨ (areaWait s v.area v.bytes false).isSome = true →
      exec (.contextRestore v.task.tid core) s = .next s)
    ∧ (restorable s v core = true → restoreFenced s v core = true → areaWait s v.area v.bytes false = none →
      (checkHolds (savedBytes s v) = true → ∃ (u : State) (m : Task), exec (.contextRestore v.task.tid core) s = .next u
        ∧ u.tasks = s.tasks ++ [m] ∧ m.tid = v.task.tid ∧ m.core = core ∧ m.phase = .running ∧ m.box = v.task.box
        ∧ u.ctxs.length = s.ctxs.length + v.ctxs.length
        ∧ u.dev.saved = (s.dev.saved.filter fun k => k.task.tid != v.task.tid))
      ∧ (checkHolds (savedBytes s v) = false → exec (.contextRestore v.task.tid core) s = .next (failRestore s v))))
  ∧ (∀ (s : State) (core unit ctx : Nat) (lasting residue : Bool), unit < 96 →
    (((getCore s core).testing.find? fun x => x.bank == unit && x.begun) = none →
      exec (.selfTestComplete core unit lasting residue ctx) s = .next s)
    ∧ (∀ x, ((getCore s core).testing.find? fun x => x.bank == unit && x.begun) = some x →
      (bankWaiters s core unit = [] → ∃ u, exec (.selfTestComplete core unit lasting residue ctx) s = .next u
        ∧ u.dev.softErrors = s.dev.softErrors + 1
        ∧ bankAt (getCore u core) unit = ⟨.off, none, (bankAt (getCore s core) unit).out || lasting⟩
        ∧ (∀ b, b ≠ unit → bankAt (getCore u core) b = bankAt (getCore s core) b)
        ∧ (∀ y ∈ (getCore u core).testing, y.bank ≠ unit) ∧ u.me = s.me ∧ (getTask s x.task = none → u.mem = s.mem))
      ∧ (∀ c y, bankWaiters s core unit = [(c, y)] → exec (.selfTestComplete core unit lasting residue ctx) s =
          .next (endTest (noteError (endBank s core unit lasting)) c unit y lasting))))
  ∧ (∀ (s : State) (core tid : Nat) (x : BankTest) (t : Task), x ∈ (getCore s core).testing → x.begun = false → x.bank < 96 →
    (bankAt (getCore s core) x.bank).owner = some tid → getTask s tid = some t →
    (offBanks s (getCore s core) t.part (bankAt (getCore s core) x.bank).role = [] → beginTest s core x = s)
    ∧ (∀ n more, offBanks s (getCore s core) t.part (bankAt (getCore s core) x.bank).role = n :: more → n < 96 → n ≠ x.bank →
      { x with begun := true } ∈ (getCore (beginTest s core x) core).testing
      ∧ bankAt (getCore (beginTest s core x) core) n =
          ⟨(bankAt (getCore s core) x.bank).role, some tid, (bankAt (getCore s core) n).out⟩
      ∧ bankAt (getCore (beginTest s core x) core) x.bank = ⟨.off, none, (bankAt (getCore s core) x.bank).out⟩
      ∧ (∀ b, b ≠ n → b ≠ x.bank → bankAt (getCore (beginTest s core x) core) b = bankAt (getCore s core) b)
      ∧ (beginTest s core x).mem = s.mem))

/-! ## Engines and memory tiers (R119 to R122, R376 to R389) -/

/-- A copy of one element into the pad completes: its bytes stand at its destination, the lines are full, its channel goes on with one
more done and no failure (R119, R121, R122). A copy that some elements fault ends as failed; one that has delivered a part goes on
later. A page walk keeps the translation, its entry with A set, and D for a write (R376, R380, R382). The tracker's epoch ends with
every count halved (R385, R386). While the tracker is on, a line of a swap pair moves, the two lines have exchanged their bytes, and its
bit is set; an error on reading it stops the pair, and after the last line the pair ends once no access to it is on its way (R387, R389). Delivery in parts, and walks ahead of an
access, are log entries 20 and 62; that an error names the far line is log entry 73, and that the device's own reads and writes of entries
wait for a home that is down and for the host (R406, R419) log entry 96. -/
def Obligations.EnginesAndTiers : Prop :=
  (∀ (s t p : State) (ch va dense w : Nat) (c : Copy) (rec : BitVec 512) (coords : List Int) (l : Layout) (bytes : List Byte),
    s.me = Context.idle → s.task.phase = .running → s.tasks = [] → s.task.core = s.core.id → ch < 4 →
    (channel s.core ch).queue = [c] → c.task = s.task.tid → c.sent = 0 → c.kind = .layout rec coords dense none → l = layoutOf rec →
    l.count = 1 → l.dir = 0 → l.dop = 0 → l.rot = 0 → elemAddr l coords 0 = some va → t = putCopy s ch { c with running := true } →
    copyRead va l.elem t = .ok (p, bytes, w) → bytes.length = l.elem →
    p.task.tid = s.task.tid → p.task.phase = .running → p.task.ops = s.task.ops → p.task.pad = s.task.pad → p.task.empty = s.task.empty →
    p.tasks = [] → p.dev.waiting = [] → p.core.chans = t.core.chans → p.core.matq = [] → p.core.clearing = none → p.me = s.me →
    (∀ k, servedFirst p p.task k = false) →
    s.task.pad.wf = true →
    ∃ u, exec (.copyComplete s.core.id ch) s = .next u ∧ WritesAt s.task.pad u.task.pad dense bytes
      ∧ (∀ k ∈ linesOf dense l.elem, k ∉ u.task.empty) ∧ (channel u.core ch).queue = []
      ∧ (channel u.core ch).done = (channel s.core ch).done + 1 ∧ (channel u.core ch).fail = false
      ∧ (∀ o, (s.task.ops.find? fun o => o.id == c.op) = some o →
          (u.task.ops.find? fun o => o.id == c.op) = some { o with done := true, fault := none, wct := max o.wct (max c.wct w) })
      ∧ u.mem = p.mem)
  ∧ (∀ (s t : State) (core ch n : Nat) (c : Copy) (d : Delivery), copyAt s core ch = some (t, c) →
    d = deliver ((remaining c).take n) ⟨t, c, none, none⟩ →
    (d.fault = none → d.stall = none → exec (.copyStart core ch n) s = .next (putCopy d.s ch d.c))
    ∧ (∀ w, d.fault = none → d.stall = some w → exec (.copyStart core ch n) s = .next (waitCopy d.s ch d.c w))
    ∧ (∀ k, d.fault = some k → exec (.copyStart core ch n) s = .next (endCopy (putCopy d.s ch d.c) ch d.c (some k))))
  ∧ (∀ (s t : State) (core part va : Nat) (write : Bool) (need : Need) (w : Walked), need = (if write then .write else .read) →
    t = focusCore (stash s) core → va < 2 ^ 48 → cachedXlat t part va need = none → walk t part va = .ok w →
    vget s.dev.dieDown (core / 208) none = none → leafCheck part need w.level w.entry = none →
    (accessBits need w.entry = w.entry ∨ accessWait t w.addr = none) →
    ∃ u, exec (.pageWalk core part va write) s = .next u
      ∧ ⟨part, va / 2 ^ leafSize w.level w.entry, leafSize w.level w.entry, accessBits need w.entry⟩ ∈ u.core.tlb
      ∧ (accessBits need w.entry).getLsbD 6 = true ∧ (write = true → (accessBits need w.entry).getLsbD 7 = true)
      ∧ (accessBits need w.entry = w.entry → u.mem = s.mem))
  ∧ (∀ (s : State) (part : Nat) (val : Word64),
    (part = 0 → s.dev.bringState ≠ 15 → ∃ u, exec (.trackerControlWrite part val) s = .next u ∧ u.dev.tracker = val &&& 0xFFFFFFF1
      ∧ u.dev.hot = s.dev.hot ∧ u.mem = s.mem ∧ u.me = s.me)
    ∧ (part ≠ 0 ∨ s.dev.bringState = 15 → exec (.trackerControlWrite part val) s = .next s))
  ∧ (∀ s : State,
    (epochEnded s = true → (pairPages s).findSome? (pageWait s) = none → ∃ u, exec .trackerEpochEnd s = .next u
      ∧ u.dev.hot = (s.dev.hot.map fun h => { h with count := h.count / 2, fresh := 0 }) ∧ u.dev.epochAt = controlClock s
      ∧ u.dev.swaps.length ≤ s.dev.swaps.length + trackerMax s.dev.tracker ∧ u.me = s.me)
    ∧ (∀ e, epochEnded s = true → (pairPages s).findSome? (pageWait s) = some e → exec .trackerEpochEnd s = .next (askHost s e))
    ∧ (epochEnded s = false → exec .trackerEpochEnd s = .next s))
  ∧ (∀ (s : State) (pair i : Nat) (w : Swap) (bad : Bool), s.dev.swaps[pair]? = some w →
    (s.dev.tracker.getLsbD 0 = false → exec (.swapLineMove pair bad) s = .next s)
    ∧ (s.dev.tracker.getLsbD 0 = true → nextLine w = some i → HomesOpen s →
      (bad = true → hostHolds s w.entryFar = false → hostHolds s w.entryNear = false →
        exec (.swapLineMove pair bad) s = .next (stopPair s w (w.far / 128 + i)))
      ∧ (bad = false → s.mem.wf = true → w.far / 128 + i ≠ w.near / 128 + i →
        sealed s w.part (128 * (w.far / 128 + i)) = false → sealed s w.part (128 * (w.near / 128 + i)) = false →
        ∃ u, exec (.swapLineMove pair bad) s = .next u
          ∧ u.mem.getBytes (128 * (w.far / 128 + i)) 128 = s.mem.getBytes (128 * (w.near / 128 + i)) 128
          ∧ u.mem.getBytes (128 * (w.near / 128 + i)) 128 = s.mem.getBytes (128 * (w.far / 128 + i)) 128
          ∧ (∀ a, a / 128 ≠ w.far / 128 + i → a / 128 ≠ w.near / 128 + i → u.mem.get a = s.mem.get a)
          ∧ { w with bitmap := w.bitmap ||| (1#32 <<< i) } ∈ u.dev.swaps))
    ∧ (s.dev.tracker.getLsbD 0 = true → nextLine w = none →
      (pairInFlight s w = false → HomesOpen s → hostHolds s w.entryFar = false → hostHolds s w.entryNear = false →
        exec (.swapLineMove pair bad) s = .next (endPair s w))
      ∧ (pairInFlight s w = false → hostHolds s w.entryFar = true →
        exec (.swapLineMove pair bad) s = .next (sendBackInvalidate s w.entryFar))
      ∧ (pairInFlight s w = true → exec (.swapLineMove pair bad) s = .next s)))

/-! ## The module (R401 to R422) -/

/-- Bring-up (R420): each step acts in its own state alone and goes to the next, or to FAIL with its number as detail, but for HOST,
which stays to try again; ROM passes only where the firmware is signed and its version is not below the counter (R414), CONFIG takes an
accepted record, keeps it as the last good one and raises the version counter (R411), MEMORY clears every root register
(R412). A module reset starts bring-up at ROM and keeps the counters, the last good record, the leaf index and the epochs (the last is
log entry 56; R411, R415, R420); a loss of
supply ends all activity, and skips a leaf whose signature is not released (R415). A die goes into reset with nothing of its cores, its
shadow or its clock divider left, and comes back with empty slices (R4, R406, R421); an orderly reset has its tasks leave at once (log entry
51), and the counters of the divider go on (log entry 84). A
droop report lowers the clock by its steps of 75 MHz, to 8 at most, and counts; each microsecond of steady supply raises it by one; a 1 in bit 63
clears the register (R421, R422). When the supply is steady, and that the reduction in force outlives the clear, is log entry 60; how a record
or an image is verified is log entry 15. -/
def Obligations.BringupAndDies : Prop :=
  (∀ (s : State) (ok : Bool) (i : Instr) (n : Nat),
    ((i = .bringupRom ok ∧ n = 0) ∨ (i = .bringupFw ok ∧ n = 1) ∨ (i = .bringupMemory ok ∧ n = 3) ∨ (i = .bringupDies ok ∧ n = 4)
      ∨ (i = .bringupHost ok ∧ n = 5)) →
    (s.dev.bringState ≠ n → exec i s = .next s)
    ∧ (s.dev.bringState = n → ok = true → n ≠ 0 → ∃ u, exec i s = .next u ∧ u.dev.bringState = n + 1 ∧ u.mem = s.mem
        ∧ (n = 3 → ∀ p, vget u.dev.roots p 0 = 0) ∧ (n = 4 → ∀ c b, b < 96 → (bankAt (getCore u c) b).role = .off))
    ∧ (s.dev.bringState = n → ok = false → n ≠ 5 →
        exec i s = .next { s with dev := { s.dev with bringState := 15, bringDetail := n + 1 } })
    ∧ (s.dev.bringState = n → ok = false → n = 5 → exec i s = .next s))
  ∧ (∀ s : State, s.dev.bringState = 0 → exec (.bringupRom true) s = .next { s with dev := { s.dev with
      bringState := if firmwareVerified s then 1 else 15, bringDetail := if firmwareVerified s then s.dev.bringDetail else 1 } })
  ∧ (∀ (s : State) (image : List Byte) (ok : Bool),
    (s.dev.bringState ≠ 2 ∨ ok ≠ recordSigned image → exec (.bringupConfig image ok) s = .next s)
    ∧ (s.dev.bringState = 2 → ok = recordSigned image → recordAccepted s image = true →
        exec (.bringupConfig image ok) s = .next { s with dev := { s.dev with
          bringState := 3, cfg := parseConfig image, verCounter := BitVec.ofNat 64 (imageNat image 0 8), lastGood := image } })
    ∧ (s.dev.bringState = 2 → ok = recordSigned image → recordAccepted s image = false →
        exec (.bringupConfig image ok) s = .next { s with dev := { s.dev with bringState := 15, bringDetail := 3 } }))
  ∧ (∀ s : State, ∃ u, exec .moduleReset s = .next u ∧ u.power = true ∧ u.dev.bringState = 0 ∧ u.dev.bringDetail = 0
      ∧ u.dev.tracker = 0x4010A0 ∧ u.dev.regions = [] ∧ u.dev.queues = [] ∧ u.dev.launches = [] ∧ u.ctxs = [] ∧ u.tasks = []
      ∧ u.me.kind = .idle ∧ u.dev.verCounter = s.dev.verCounter ∧ u.dev.leaf = s.dev.leaf ∧ u.dev.epochs = s.dev.epochs
      ∧ u.dev.fwCounter = s.dev.fwCounter ∧ u.dev.lastGood = s.dev.lastGood ∧ u.dev.signing = none)
  ∧ (∀ s : State, exec .powerLoss s = .next { s with power := false, dev := { s.dev with signing := none } })
  ∧ (∀ (s : State) (die : Nat), die < 4 → vget s.dev.dieDown die none = none →
    (vget s.dev.dieStop die false = false → exec (.dieResetOrderly die) s =
        .next (leaveDie { s with dev := { s.dev with dieStop := vset s.dev.dieStop die true } } die))
    ∧ (vget s.dev.dieStop die false = true → dieEmpty s die = true → ∃ u, exec (.dieResetOrderly die) s = .next u
        ∧ vget u.dev.dieDown die none = some (clockOf s die) ∧ u.mem = s.mem ∧ (∀ c ∈ u.backing, homedOn s die c.1 = false)
        ∧ (∀ c ∈ knownCores u, c.id / 208 = die → c = Core.reset c.id)
        ∧ (sagOf u die).now = 0 ∧ (sagOf u die).events = (sagOf s die).events
        ∧ (∀ g ∈ u.dev.launches, g.stopped = false → g.waitingAt die = []))
    ∧ (∃ u, exec (.dieResetUnplanned die) s = .next u ∧ (vget u.dev.dieDown die none).isSome = true
        ∧ (∀ c ∈ knownCores u, c.id / 208 = die → c = Core.reset c.id)))
  ∧ (∀ (s : State) (die since : Nat), die < 4 → vget s.dev.dieDown die none = some since →
    ∃ u, exec (.dieResetReturn die) s = .next u ∧ vget u.dev.dieDown die none = none ∧ u.mem = s.mem
      ∧ (∀ h ∈ u.lines, h.home / 64 = die → h.home < 256 → h.resident = false) ∧ u.me = s.me ∧ u.tasks = s.tasks)
  ∧ (∀ (s : State) (die steps : Nat), die < 4 →
    (∃ u, exec (.droopReport die steps) s = .next u ∧ (sagOf u die).now = min ((sagOf s die).now + steps) 8
      ∧ (sagOf u die).events = min ((sagOf s die).events + 1) (2 ^ 24 - 1)
      ∧ (sagOf u die).shown = (sagOf u die).now ∧ controlClock s ≤ (sagOf u die).steady
      ∧ (sagOf u die).deep = max (sagOf s die).deep (min ((sagOf s die).now + steps) 8)
      ∧ (∀ k, k ≠ die → sagOf u k = sagOf s k) ∧ u.mem = s.mem ∧ u.me = s.me)
    ∧ ((sagOf s die).now ≠ 0 → (sagOf s die).steady + 1000 ≤ controlClock s → ∃ u, exec (.clockStepRise die) s = .next u
      ∧ (sagOf u die).now = (sagOf s die).now - 1 ∧ (sagOf u die).shown = (sagOf s die).now - 1
      ∧ (sagOf u die).steady = (sagOf s die).steady + 1000 ∧ (sagOf u die).events = (sagOf s die).events ∧ u.mem = s.mem)
    ∧ ((sagOf s die).now = 0 ∨ controlClock s < (sagOf s die).steady + 1000 → exec (.clockStepRise die) s = .next s)
    ∧ (∀ val : Word64, (val.getLsbD 63 = true → s.dev.bringState ≠ 15 → ∃ u, exec (.sagCounterClear die val) s = .next u
        ∧ (sagOf u die).events = 0 ∧ (sagOf u die).deep = 0 ∧ (sagOf u die).lowNs = 0 ∧ (sagOf u die).shown = 0
        ∧ sagRegister u die = 0 ∧ (sagOf u die).now = (sagOf s die).now ∧ (sagOf u die).steady = (sagOf s die).steady)
      ∧ (val.getLsbD 63 = false ∨ s.dev.bringState = 15 → exec (.sagCounterClear die val) s = .next s)))

/-- Management and the host. A later configuration record that is accepted is in force, and one that is not leaves the record in force
(R411, R413); a root register of an enabled partition takes a root in near memory and drops the partition's translations (R412); the
capability register takes its address, and the capability page, which nothing writes, lists an entry of each ID with its header (R417);
partition 0 writes the save-pool registers, whose reserved bits stay 0 (R401); a request answered with
status 0 uses a leaf, its report leaves with its signature, which holds under the device's key, once the leaf is written, and one of another status uses none (R415, R416). A host access of a line of device
memory reads or writes its bytes under the range's key (R419); a response ends a back-invalidate (R419); the host reads and writes its
own memory (R345). Log entries 15, 58 and 59 give what the
rules leave open, log entry 95 the order, places and lengths of the capability entries; that a host read waits while a commit is pending on
its line is log entry 88. -/
def Obligations.ManagementAndHost : Prop :=
  (∀ (s : State) (image : List Byte) (ok : Bool), s.dev.bringState = 6 →
    (ok = recordSigned image → recordAccepted s image = true → ∃ u, exec (.configRecordLoad image ok) s = .next u
      ∧ u.dev.cfg = parseConfig image ∧ u.dev.verCounter = BitVec.ofNat 64 (imageNat image 0 8) ∧ u.dev.lastGood = image)
    ∧ (ok ≠ recordSigned image ∨ recordAccepted s image = false → exec (.configRecordLoad image ok) s = .next s))
  ∧ (∀ (s : State) (p : Nat) (val : Word64), p < 64 → firmwareUp s = true → partEnabled s p = true →
    (rootNear val = true → (∀ q ∈ s.flight, q.part ≠ p) → (∀ w ∈ s.dev.swaps, w.part ≠ p) →
      ∃ u, exec (.rootRegisterSet p val) s = .next u ∧ vget u.dev.roots p 0 = val &&& 0x000FFFFFFFFFF001
      ∧ (∀ k, k ≠ p → vget u.dev.roots k 0 = vget s.dev.roots k 0)
      ∧ (∀ e ∈ u.core.tlb, e.part ≠ p) ∧ (∀ c ∈ u.cores, ∀ e ∈ c.tlb, e.part ≠ p) ∧ (∀ e ∈ u.l2tlb, e.2.part ≠ p)
      ∧ (∀ w ∈ u.pwc, w.part ≠ p) ∧ u.mem = s.mem)
    ∧ (rootNear val = true → ((∃ q ∈ s.flight, q.part = p) ∨ ∃ w ∈ s.dev.swaps, w.part = p) →
      exec (.rootRegisterSet p val) s = .next (dropAll s p))
    ∧ (rootNear val = false → exec (.rootRegisterSet p val) s = .next s)
    ∧ exec (.capabilityRegisterSet p val) s = .next { s with dev := { s.dev with caps := vset s.dev.caps p val } })
  ∧ (∀ (s : State) (part reg : Nat) (val : Word64),
    (part = 0 → s.dev.bringState ≠ 15 → exec (.registerWrite part reg val) s =
      .next { s with dev := { s.dev with pools := vset s.dev.pools reg (val &&& 0xFFFFFFFFFFFF0001) } })
    ∧ (part ≠ 0 ∨ s.dev.bringState = 15 → exec (.registerWrite part reg val) s = .next s))
  ∧ (∀ (s : State) (part : Nat) (nonce : BitVec 256), firmwareUp s = true →
    (partEnabled s part = true → s.dev.leaf < 2 ^ 20 → s.dev.signing = none →
      ∃ (u : State) (body : List Byte), exec (.attestationRequest part nonce) s = .next u
        ∧ body = reportBody s part nonce ∧ body.length = 160 ∧ body.head? = some 0
        ∧ u.dev.leaf = s.dev.leaf + 1 ∧ u.dev.signing = some (s.dev.leaf, body) ∧ u.dev.reports = s.dev.reports ∧ u.mem = s.mem)
    ∧ (partEnabled s part = false ∨ 2 ^ 20 ≤ s.dev.leaf ∨ s.dev.signing.isSome = true →
      ∃ (u : State) (r : List Byte), exec (.attestationRequest part nonce) s = .next u
        ∧ u.dev.leaf = s.dev.leaf ∧ u.dev.signing = s.dev.signing ∧ u.dev.reports = s.dev.reports ++ [r] ∧ r.length = 160
        ∧ r.head? = some (if partEnabled s part = false then 1 else if 2 ^ 20 ≤ s.dev.leaf then 3 else 2)))
  ∧ (∀ (s : State) (leaf : Nat) (body : List Byte), s.dev.signing = some (leaf, body) → body.length = 160 →
    (releaseReport s).dev.reports = s.dev.reports ++ [body ++ signatureOf leaf body] ∧ (signatureOf leaf body).length = 2820
      ∧ (leaf < 2 ^ 20 → signatureHolds deviceKey.public body (signatureOf leaf body) = true)
      ∧ (releaseReport s).dev.signing = none ∧ (releaseReport s).dev.leaf = s.dev.leaf ∧ (releaseReport s).mem = s.mem)
  ∧ (∀ (s : State) (pa n : Nat) (data : List Byte), linkUp s = true → pa % 128 + n ≤ 128 → hostReaches s pa n = true →
    sealed s (hostPart s pa) (placeOf s pa) = false → inCapPage s pa = false →
    (data.length = n → s.mem.wf = true →
      ∃ u, exec (.hostMemWrite pa data) s = .next u ∧ WritesAt s.mem u.mem (placeOf s pa) data ∧ u.me = s.me ∧ u.tasks = s.tasks)
    ∧ (commitPending s (lineOf pa) = false → ∃ u, exec (.hostMemRead pa n) s = .next u ∧ u.dev.hostReads = s.dev.hostReads ++ [s.mem.getBytes (placeOf s pa) n]
      ∧ u.mem = s.mem ∧ u.me = s.me)
    ∧ (commitPending s (lineOf pa) = true → exec (.hostMemRead pa n) s = .next s))
  ∧ (∀ (s : State) (part pa : Nat), inCapPage s pa = true →
    (∀ bytes, writePhys s part pa bytes = s)
    ∧ (∀ id, 1 ≤ id → id ≤ 5 → pa % 4096 = capOffset id → readPhys s part pa 8 = (s, bytesLE 8 (capHeader id))))
  ∧ (∀ (s : State) (n line : Nat), s.dev.backInv[n]? = some line →
    ∃ u, exec (.backInvalidateResponse n) s = .next u ∧ hostHolds u (128 * line) = false ∧ u.dev.backInv.length + 1 = s.dev.backInv.length
      ∧ u.mem = s.mem ∧ u.me = s.me)
  ∧ (∀ (s : State) (pa : Nat) (data : List Byte), paKind pa = some .host → paKind (pa + data.length - 1) = some .host →
    exec (.hostLineAccess pa data false) s =
      .next { s with dev := { s.dev with hostReads := s.dev.hostReads ++ [s.mem.getBytes pa data.length] } }
    ∧ (pa % 128 + data.length ≤ 128 → data ≠ [] → s.dev.swaps = [] → s.mem.wf = true → inCapPage s pa = false →
      ∃ u, exec (.hostLineAccess pa data true) s = .next u ∧ WritesAt s.mem u.mem pa data ∧ u.me = s.me))
end

