-- ==== Sys2Proof/Laws/Memory.lean ====
section
/-! SUPPORT. Memory: every operation keeps its canonical form; a byte read after a write is the byte written, and every other
byte is as before. -/

namespace Sys2Proof.Machine

theorem Memory.wfFrom_mono : ∀ {m : Memory} {lo hi : Nat}, lo ≤ hi → Memory.wfFrom hi m = true → Memory.wfFrom lo m = true
  | [], _, _, _, _ => rfl
  | (a, x) :: m, lo, hi, h, w => by
    simp only [Memory.wfFrom, Bool.and_eq_true, decide_eq_true_eq] at w ⊢
    exact ⟨⟨by omega, w.1.2⟩, w.2⟩

theorem Memory.wfFrom_set : ∀ {m : Memory} {lo a : Nat} (x : Byte), lo ≤ a → Memory.wfFrom lo m = true →
    Memory.wfFrom lo (Memory.set m a x) = true
  | [], lo, a, x, h, _ => by
    unfold Memory.set
    split
    · rfl
    · rename_i hx
      simpa [Memory.wfFrom, h] using hx
  | (b, y) :: m, lo, a, x, h, w => by
    simp only [Memory.wfFrom, Bool.and_eq_true, decide_eq_true_eq] at w
    unfold Memory.set
    split
    · rename_i hab
      split
      · simp only [Memory.wfFrom, Bool.and_eq_true, decide_eq_true_eq]
        exact ⟨⟨by omega, w.1.2⟩, w.2⟩
      · rename_i hx
        simp only [Memory.wfFrom, Bool.and_eq_true, decide_eq_true_eq, bne_iff_ne]
        exact ⟨⟨h, hx⟩, ⟨by omega, by simpa using w.1.2⟩, w.2⟩
    · split
      · rename_i hab
        split
        · exact Memory.wfFrom_mono (by omega) w.2
        · rename_i hx
          subst hab
          simp only [Memory.wfFrom, Bool.and_eq_true, decide_eq_true_eq, bne_iff_ne]
          exact ⟨⟨h, hx⟩, w.2⟩
      · simp only [Memory.wfFrom, Bool.and_eq_true, decide_eq_true_eq]
        exact ⟨w.1, Memory.wfFrom_set x (by omega) w.2⟩

/-- A byte written keeps the canonical form. -/
theorem Memory.wf_set {m : Memory} (a : Nat) (x : Byte) (w : m.wf = true) : (Memory.set m a x).wf = true :=
  Memory.wfFrom_set x (Nat.zero_le a) w

/-- Bytes written keep the canonical form. -/
theorem Memory.wf_setBytes : ∀ {m : Memory} (a : Nat) (l : List Byte), m.wf = true → (m.setBytes a l).wf = true
  | _, _, [], w => w
  | _, a, x :: xs, w => Memory.wf_setBytes (a + 1) xs (Memory.wf_set a x w)

theorem Memory.get_below : ∀ {m : Memory} {lo a : Nat}, a < lo → Memory.wfFrom lo m = true → Memory.get m a = 0
  | [], _, _, _, _ => rfl
  | (b, x) :: m, lo, a, h, w => by
    simp only [Memory.wfFrom, Bool.and_eq_true, decide_eq_true_eq] at w
    simp [Memory.get, show a < b by omega]

theorem Memory.get_set_from : ∀ {m : Memory} {lo : Nat} (a b : Nat) (x : Byte), Memory.wfFrom lo m = true →
    Memory.get (Memory.set m a x) b = if b = a then x else Memory.get m b
  | [], _, a, b, x, _ => by
    unfold Memory.set
    split
    · rename_i hx
      by_cases hb : b = a <;> simp [Memory.get, hb, hx]
    · by_cases hb : b = a
      · subst hb; simp [Memory.get]
      · by_cases hlt : b < a <;> simp [Memory.get, hb, hlt]
  | (c, y) :: m, lo, a, b, x, w => by
    simp only [Memory.wfFrom, Bool.and_eq_true, decide_eq_true_eq] at w
    unfold Memory.set
    split
    · rename_i hac
      split
      · rename_i hx
        by_cases hb : b = a
        · subst hb; simp [Memory.get, hac, hx]
        · simp [hb]
      · by_cases hb : b = a
        · subst hb; simp [Memory.get]
        · by_cases hlt : b < a
          · simp [Memory.get, hb, hlt, show b < c by omega]
          · simp [Memory.get, hb, hlt]
    · split
      · rename_i hac
        subst hac
        split
        · rename_i hx
          by_cases hb : b = a
          · subst hb
            simp [Memory.get_below (Nat.lt_succ_self b) w.2, hx]
          · by_cases hlt : b < a
            · simp [Memory.get, hb, hlt, Memory.get_below (show b < a + 1 by omega) w.2]
            · simp [Memory.get, hb, hlt]
        · by_cases hb : b = a
          · subst hb; simp [Memory.get]
          · by_cases hlt : b < a <;> simp [Memory.get, hb, hlt]
      · have ih := Memory.get_set_from a b x w.2
        by_cases hb : b = a
        · subst hb
          rename_i h1 h2
          simp [Memory.get, h1, h2, ih]
        · by_cases hlt : b < c
          · simp [Memory.get, hb, hlt]
          · by_cases he : b = c
            · simp [Memory.get, he]
              intro hc; omega
            · simp [Memory.get, hb, hlt, he, ih]

/-- A byte read after a byte write. -/
theorem Memory.get_set {m : Memory} (a b : Nat) (x : Byte) (w : m.wf = true) :
    Memory.get (Memory.set m a x) b = if b = a then x else Memory.get m b := Memory.get_set_from a b x w

/-- A byte read after a write of bytes: the byte written where they lie, and as before elsewhere. -/
theorem Memory.get_setBytes : ∀ {m : Memory} (a b : Nat) (l : List Byte), m.wf = true →
    Memory.get (m.setBytes a l) b = if a ≤ b ∧ b < a + l.length then l.getD (b - a) 0 else Memory.get m b
  | m, a, b, [], _ => by rw [if_neg (by simp only [List.length_nil]; omega)]; rfl
  | m, a, b, x :: xs, w => by
    rw [Memory.setBytes, Memory.get_setBytes (a + 1) b xs (Memory.wf_set a x w), Memory.get_set a b x w]
    by_cases h : b = a
    · subst h
      rw [if_neg (by omega), if_pos rfl, if_pos (by simp), Nat.sub_self, List.getD_cons_zero]
    · by_cases h2 : a + 1 ≤ b ∧ b < a + 1 + xs.length
      · have h3 : a ≤ b ∧ b < a + (x :: xs).length := by simp; omega
        have h4 : b - a = (b - (a + 1)) + 1 := by omega
        rw [if_pos h2, if_pos h3, h4, List.getD_cons_succ]
      · have h3 : ¬ (a ≤ b ∧ b < a + (x :: xs).length) := by simp; omega
        rw [if_neg h2, if_neg h, if_neg h3]

theorem Memory.getBytes_length : ∀ (m : Memory) (a n : Nat), (m.getBytes a n).length = n
  | _, _, 0 => rfl
  | m, a, n + 1 => by simp [Memory.getBytes, Memory.getBytes_length m (a + 1) n]

theorem Memory.getD_getBytes : ∀ (m : Memory) (a n k : Nat), k < n → (m.getBytes a n).getD k 0 = Memory.get m (a + k)
  | m, a, n + 1, 0, _ => by simp [Memory.getBytes]
  | m, a, n + 1, k + 1, h => by
    rw [Memory.getBytes, List.getD_cons_succ, Memory.getD_getBytes m (a + 1) n k (by omega)]
    congr 1
    omega

/-- Bytes read back where they were written. -/
theorem Memory.getBytes_setBytes {m : Memory} (a : Nat) (l : List Byte) (w : m.wf = true) :
    (m.setBytes a l).getBytes a l.length = l := by
  apply List.ext_getElem
  · exact Memory.getBytes_length _ _ _
  · intro k h1 h2
    have h := Memory.getD_getBytes (m.setBytes a l) a l.length k h2
    rw [Memory.get_setBytes a (a + k) l w, if_pos ⟨by omega, by omega⟩] at h
    rw [show a + k - a = k by omega] at h
    simpa [List.getD, h1, h2] using h

end Sys2Proof.Machine
end

