-- ==== Sys2Proof/Laws/Areas.lean ====
section
/-! SUPPORT. Lengths of save areas: what is kept for a save is what it writes (R401 to R404); and the place a pool with nothing in it
gives one. -/

namespace Sys2Proof.Machine

open Sys2Proof

theorem padTo_length (k : Nat) (l : List Byte) (h : 0 < k) : (padTo k l).length = upTo k l.length := by
  have hm := Nat.div_add_mod l.length k
  have hr := Nat.mod_lt l.length h
  simp only [padTo, upTo, List.length_append, List.length_replicate]
  generalize l.length / k = q at *
  generalize l.length % k = r at *
  by_cases hz : r = 0
  · subst hz
    have : (l.length + k - 1) / k = q := by
      apply Nat.div_eq_of_lt_le
      · rw [Nat.mul_comm]; omega
      · rw [Nat.mul_comm, Nat.mul_add]; omega
    rw [this, Nat.mul_comm q k]
    simp only [Nat.sub_zero, Nat.mod_self]; omega
  · have : (l.length + k - 1) / k = q + 1 := by
      apply Nat.div_eq_of_lt_le
      · rw [Nat.mul_comm, Nat.mul_add]; omega
      · rw [Nat.mul_comm, Nat.mul_add, Nat.mul_add]; omega
    rw [this, Nat.mul_comm (q + 1) k, Nat.mul_add, Nat.mod_eq_of_lt (by omega)]
    omega

theorem bytesLE_length (n x : Nat) : (bytesLE n x).length = n := by
  induction n generalizing x with
  | zero => rfl
  | succ n ih => simp [bytesLE, ih]

theorem freeBytes_length (k n : Nat) : (freeBytes k n).length = n := by
  induction n generalizing k with
  | zero => rfl
  | succ n ih => simp [freeBytes, ih]

theorem flatMap_length {α : Type} (l : List α) (f : α → List Byte) (k : Nat) (h : ∀ x, (f x).length = k) :
    (l.flatMap f).length = k * l.length := by
  induction l with
  | nil => rfl
  | cons x l ih => simp only [List.flatMap_cons, List.length_append, h, ih, List.length_cons, Nat.mul_add]; omega

theorem contextArea_length (s : State) (n : Nat) : (contextArea s n).length = contextSpan * n := by
  unfold contextArea
  rw [flatMap_length _ _ contextSpan, List.length_range]
  intro k
  simp only [List.length_append, List.length_take, List.length_replicate]
  omega

theorem epiPart_length (t : Task) : (epiPart t).length = 256 := by
  have h : ∀ p : Vector Word32 16, (p.toList.flatMap fun w => bytesLE 4 w.toNat).length = 64 := fun p => by
    rw [flatMap_length _ _ 4 fun w => bytesLE_length 4 _]; simp
  unfold epiPart
  rw [flatMap_length _ _ 64 h]; simp

theorem padPart_length (t : Task) : (padPart t).length = upTo 64 (16400 * t.padSlots.length) := by
  unfold padPart
  rw [padTo_length _ _ (by decide), flatMap_length _ _ 16400 fun k => by
    rw [List.length_append, Memory.getBytes_length, fullBits, bytesLE_length], List.length_range]

theorem tilePart_length (t : Task) (l : List Context) : (tilePart t l).length = 16384 * (boundTiles l).length := by
  unfold tilePart
  exact flatMap_length _ _ _ fun b => Memory.getBytes_length _ _ _

theorem copyPart_length (s : State) (l : List (Nat × Copy)) : (copyPart s l).length = 128 * l.length := by
  unfold copyPart
  exact flatMap_length _ _ _ fun c => by rw [List.length_append, bytesLE_length, freeBytes_length]

/-- The parts of an area after its header. -/
theorem areaParts_length (s : State) (t : Task) (l : List Context) :
    (areaParts s t l).1.length = 256 + 36864 + 128 * t.cancelled.length + contextSpan * savedContexts s t.tid
      + upTo 64 (16400 * t.padSlots.length) + 16384 * (boundTiles l).length := by
  simp only [areaParts, List.length_append, epiPart_length, freeBytes_length, copyPart_length, contextArea_length, padPart_length,
    tilePart_length]

/-- A save writes what was kept for it (R402 to R404). -/
theorem areaBytes_length (s : State) (t : Task) :
    (areaBytes s t (everyCtxOf s t.tid)).length = areaLength s t (savedContexts s t.tid) t.cancelled.length := by
  have h : ∀ n m k, (headerBytes s t n m k).length = 512 := fun n m k => by simp [headerBytes, bytesLE_length]
  unfold areaBytes areaLength
  simp only [padTo_length 4096 _ (by decide), List.length_append, h, areaParts_length]
  congr 1
  omega

theorem areaSpan_mono {n m : Nat} (h : n ≤ m) : areaSpan n ≤ areaSpan m := by
  unfold areaSpan
  omega

/-- A pool that holds no area gives its base to one that fits. -/
theorem findArea_empty {s : State} {part n base size : Nat} (hp : savePool s part = some (base, size)) (ha : s.dev.areas = [])
    (h : areaSpan n ≤ size) : findArea s part n = some base := by
  unfold findArea
  simp only [hp, ha, List.all_nil, Bool.and_true, List.map_nil]
  rw [List.filter_cons_of_pos]
  · rfl
  · simp only [Bool.and_eq_true, decide_eq_true_eq]; omega

end Sys2Proof.Machine
end

