-- ==== Sys2Proof/Laws/State.lean ====
section
/-! SUPPORT. What each update of the context under issue does to each field of the state, so that no proof unfolds one. -/

set_option Elab.async false

namespace Sys2Proof.Machine

/-! ## mapRegs -/

@[simp] theorem mapRegs_power (s : State) (f : Regs → Regs) : (mapRegs s f).power = s.power := rfl
@[simp] theorem mapRegs_time (s : State) (f : Regs → Regs) : (mapRegs s f).time = s.time := rfl
@[simp] theorem mapRegs_skew (s : State) (f : Regs → Regs) : (mapRegs s f).skew = s.skew := rfl
@[simp] theorem mapRegs_pace (s : State) (f : Regs → Regs) : (mapRegs s f).pace = s.pace := rfl
@[simp] theorem mapRegs_agenda (s : State) (f : Regs → Regs) : (mapRegs s f).agenda = s.agenda := rfl
@[simp] theorem mapRegs_freeCtr (s : State) (f : Regs → Regs) : (mapRegs s f).freeCtr = s.freeCtr := rfl
@[simp] theorem mapRegs_cut (s : State) (f : Regs → Regs) : (mapRegs s f).cut = s.cut := rfl
@[simp] theorem mapRegs_ctxs (s : State) (f : Regs → Regs) : (mapRegs s f).ctxs = s.ctxs := rfl
@[simp] theorem mapRegs_nextCtx (s : State) (f : Regs → Regs) : (mapRegs s f).nextCtx = s.nextCtx := rfl
@[simp] theorem mapRegs_task (s : State) (f : Regs → Regs) : (mapRegs s f).task = s.task := rfl
@[simp] theorem mapRegs_tasks (s : State) (f : Regs → Regs) : (mapRegs s f).tasks = s.tasks := rfl
@[simp] theorem mapRegs_nextOp (s : State) (f : Regs → Regs) : (mapRegs s f).nextOp = s.nextOp := rfl
@[simp] theorem mapRegs_core (s : State) (f : Regs → Regs) : (mapRegs s f).core = s.core := rfl
@[simp] theorem mapRegs_cores (s : State) (f : Regs → Regs) : (mapRegs s f).cores = s.cores := rfl
@[simp] theorem mapRegs_mem (s : State) (f : Regs → Regs) : (mapRegs s f).mem = s.mem := rfl
@[simp] theorem mapRegs_backing (s : State) (f : Regs → Regs) : (mapRegs s f).backing = s.backing := rfl
@[simp] theorem mapRegs_lines (s : State) (f : Regs → Regs) : (mapRegs s f).lines = s.lines := rfl
@[simp] theorem mapRegs_evictH (s : State) (f : Regs → Regs) : (mapRegs s f).evictH = s.evictH := rfl
@[simp] theorem mapRegs_msc (s : State) (f : Regs → Regs) : (mapRegs s f).msc = s.msc := rfl
@[simp] theorem mapRegs_flight (s : State) (f : Regs → Regs) : (mapRegs s f).flight = s.flight := rfl
@[simp] theorem mapRegs_transit (s : State) (f : Regs → Regs) : (mapRegs s f).transit = s.transit := rfl
@[simp] theorem mapRegs_remote (s : State) (f : Regs → Regs) : (mapRegs s f).remote = s.remote := rfl
@[simp] theorem mapRegs_l2tlb (s : State) (f : Regs → Regs) : (mapRegs s f).l2tlb = s.l2tlb := rfl
@[simp] theorem mapRegs_pwc (s : State) (f : Regs → Regs) : (mapRegs s f).pwc = s.pwc := rfl
@[simp] theorem mapRegs_dev (s : State) (f : Regs → Regs) : (mapRegs s f).dev = s.dev := rfl
@[simp] theorem mapRegs_me_id (s : State) (f : Regs → Regs) : (mapRegs s f).me.id = s.me.id := rfl
@[simp] theorem mapRegs_me_task (s : State) (f : Regs → Regs) : (mapRegs s f).me.task = s.me.task := rfl
@[simp] theorem mapRegs_me_kind (s : State) (f : Regs → Regs) : (mapRegs s f).me.kind = s.me.kind := rfl
@[simp] theorem mapRegs_me_slotNo (s : State) (f : Regs → Regs) : (mapRegs s f).me.slotNo = s.me.slotNo := rfl
@[simp] theorem mapRegs_me_area (s : State) (f : Regs → Regs) : (mapRegs s f).me.area = s.me.area := rfl
@[simp] theorem mapRegs_me_file (s : State) (f : Regs → Regs) : (mapRegs s f).me.file = s.me.file := rfl
@[simp] theorem mapRegs_me_box (s : State) (f : Regs → Regs) : (mapRegs s f).me.box = s.me.box := rfl
@[simp] theorem mapRegs_me_cursor (s : State) (f : Regs → Regs) : (mapRegs s f).me.cursor = s.me.cursor := rfl
@[simp] theorem mapRegs_me_seams (s : State) (f : Regs → Regs) : (mapRegs s f).me.seams = s.me.seams := rfl
@[simp] theorem mapRegs_me_holder (s : State) (f : Regs → Regs) : (mapRegs s f).me.holder = s.me.holder := rfl
@[simp] theorem mapRegs_me_parkedAt (s : State) (f : Regs → Regs) : (mapRegs s f).me.parkedAt = s.me.parkedAt := rfl
@[simp] theorem mapRegs_me_sealedOnce (s : State) (f : Regs → Regs) : (mapRegs s f).me.sealedOnce = s.me.sealedOnce := rfl
@[simp] theorem mapRegs_me_paths (s : State) (f : Regs → Regs) : (mapRegs s f).me.paths = s.me.paths := rfl
@[simp] theorem mapRegs_me_recs (s : State) (f : Regs → Regs) : (mapRegs s f).me.recs = s.me.recs := rfl
@[simp] theorem mapRegs_me_nextPath (s : State) (f : Regs → Regs) : (mapRegs s f).me.nextPath = s.me.nextPath := rfl
@[simp] theorem mapRegs_me_nextRec (s : State) (f : Regs → Regs) : (mapRegs s f).me.nextRec = s.me.nextRec := rfl
@[simp] theorem mapRegs_me_frame (s : State) (f : Regs → Regs) : (mapRegs s f).me.frame = s.me.frame := rfl
@[simp] theorem mapRegs_me_copyBat (s : State) (f : Regs → Regs) : (mapRegs s f).me.copyBat = s.me.copyBat := rfl
@[simp] theorem mapRegs_me_matBat (s : State) (f : Regs → Regs) : (mapRegs s f).me.matBat = s.me.matBat := rfl
@[simp] theorem mapRegs_me_cause (s : State) (f : Regs → Regs) : (mapRegs s f).me.cause = s.me.cause := rfl
@[simp] theorem mapRegs_me_causeAddr (s : State) (f : Regs → Regs) : (mapRegs s f).me.causeAddr = s.me.causeAddr := rfl
@[simp] theorem mapRegs_me_causeLane (s : State) (f : Regs → Regs) : (mapRegs s f).me.causeLane = s.me.causeLane := rfl
@[simp] theorem mapRegs_me_lastTile (s : State) (f : Regs → Regs) : (mapRegs s f).me.lastTile = s.me.lastTile := rfl
@[simp] theorem mapRegs_me_lastMark (s : State) (f : Regs → Regs) : (mapRegs s f).me.lastMark = s.me.lastMark := rfl
@[simp] theorem mapRegs_me_callout (s : State) (f : Regs → Regs) : (mapRegs s f).me.callout = s.me.callout := rfl
@[simp] theorem mapRegs_me_loadAfter (s : State) (f : Regs → Regs) : (mapRegs s f).me.loadAfter = s.me.loadAfter := rfl
@[simp] theorem mapRegs_me_urgent (s : State) (f : Regs → Regs) : (mapRegs s f).me.urgent = s.me.urgent := rfl
@[simp] theorem mapRegs_me_test (s : State) (f : Regs → Regs) : (mapRegs s f).me.test = s.me.test := rfl
@[simp] theorem mapRegs_me_badWrites (s : State) (f : Regs → Regs) : (mapRegs s f).me.badWrites = s.me.badWrites := rfl
@[simp] theorem mapRegs_me_netError (s : State) (f : Regs → Regs) : (mapRegs s f).me.netError = s.me.netError := rfl
@[simp] theorem mapRegs_me_regs (s : State) (f : Regs → Regs) : (mapRegs s f).me.regs = f s.me.regs := rfl
@[simp] theorem mapRegs_me_path (s : State) (f : Regs → Regs) : (mapRegs s f).me.path = s.me.path := rfl
@[simp] theorem mapRegs_me_horizon (s : State) (f : Regs → Regs) : (mapRegs s f).me.horizon = s.me.horizon := rfl
@[simp] theorem mapRegs_me_calloutH (s : State) (f : Regs → Regs) : (mapRegs s f).me.calloutH = s.me.calloutH := rfl

/-! ## mapPath -/

@[simp] theorem mapPath_power (s : State) (f : Path → Path) : (mapPath s f).power = s.power := rfl
@[simp] theorem mapPath_time (s : State) (f : Path → Path) : (mapPath s f).time = s.time := rfl
@[simp] theorem mapPath_skew (s : State) (f : Path → Path) : (mapPath s f).skew = s.skew := rfl
@[simp] theorem mapPath_pace (s : State) (f : Path → Path) : (mapPath s f).pace = s.pace := rfl
@[simp] theorem mapPath_agenda (s : State) (f : Path → Path) : (mapPath s f).agenda = s.agenda := rfl
@[simp] theorem mapPath_freeCtr (s : State) (f : Path → Path) : (mapPath s f).freeCtr = s.freeCtr := rfl
@[simp] theorem mapPath_cut (s : State) (f : Path → Path) : (mapPath s f).cut = s.cut := rfl
@[simp] theorem mapPath_ctxs (s : State) (f : Path → Path) : (mapPath s f).ctxs = s.ctxs := rfl
@[simp] theorem mapPath_nextCtx (s : State) (f : Path → Path) : (mapPath s f).nextCtx = s.nextCtx := rfl
@[simp] theorem mapPath_task (s : State) (f : Path → Path) : (mapPath s f).task = s.task := rfl
@[simp] theorem mapPath_tasks (s : State) (f : Path → Path) : (mapPath s f).tasks = s.tasks := rfl
@[simp] theorem mapPath_nextOp (s : State) (f : Path → Path) : (mapPath s f).nextOp = s.nextOp := rfl
@[simp] theorem mapPath_core (s : State) (f : Path → Path) : (mapPath s f).core = s.core := rfl
@[simp] theorem mapPath_cores (s : State) (f : Path → Path) : (mapPath s f).cores = s.cores := rfl
@[simp] theorem mapPath_mem (s : State) (f : Path → Path) : (mapPath s f).mem = s.mem := rfl
@[simp] theorem mapPath_backing (s : State) (f : Path → Path) : (mapPath s f).backing = s.backing := rfl
@[simp] theorem mapPath_lines (s : State) (f : Path → Path) : (mapPath s f).lines = s.lines := rfl
@[simp] theorem mapPath_evictH (s : State) (f : Path → Path) : (mapPath s f).evictH = s.evictH := rfl
@[simp] theorem mapPath_msc (s : State) (f : Path → Path) : (mapPath s f).msc = s.msc := rfl
@[simp] theorem mapPath_flight (s : State) (f : Path → Path) : (mapPath s f).flight = s.flight := rfl
@[simp] theorem mapPath_transit (s : State) (f : Path → Path) : (mapPath s f).transit = s.transit := rfl
@[simp] theorem mapPath_remote (s : State) (f : Path → Path) : (mapPath s f).remote = s.remote := rfl
@[simp] theorem mapPath_l2tlb (s : State) (f : Path → Path) : (mapPath s f).l2tlb = s.l2tlb := rfl
@[simp] theorem mapPath_pwc (s : State) (f : Path → Path) : (mapPath s f).pwc = s.pwc := rfl
@[simp] theorem mapPath_dev (s : State) (f : Path → Path) : (mapPath s f).dev = s.dev := rfl
@[simp] theorem mapPath_me_id (s : State) (f : Path → Path) : (mapPath s f).me.id = s.me.id := rfl
@[simp] theorem mapPath_me_task (s : State) (f : Path → Path) : (mapPath s f).me.task = s.me.task := rfl
@[simp] theorem mapPath_me_kind (s : State) (f : Path → Path) : (mapPath s f).me.kind = s.me.kind := rfl
@[simp] theorem mapPath_me_slotNo (s : State) (f : Path → Path) : (mapPath s f).me.slotNo = s.me.slotNo := rfl
@[simp] theorem mapPath_me_area (s : State) (f : Path → Path) : (mapPath s f).me.area = s.me.area := rfl
@[simp] theorem mapPath_me_file (s : State) (f : Path → Path) : (mapPath s f).me.file = s.me.file := rfl
@[simp] theorem mapPath_me_box (s : State) (f : Path → Path) : (mapPath s f).me.box = s.me.box := rfl
@[simp] theorem mapPath_me_cursor (s : State) (f : Path → Path) : (mapPath s f).me.cursor = s.me.cursor := rfl
@[simp] theorem mapPath_me_seams (s : State) (f : Path → Path) : (mapPath s f).me.seams = s.me.seams := rfl
@[simp] theorem mapPath_me_holder (s : State) (f : Path → Path) : (mapPath s f).me.holder = s.me.holder := rfl
@[simp] theorem mapPath_me_parkedAt (s : State) (f : Path → Path) : (mapPath s f).me.parkedAt = s.me.parkedAt := rfl
@[simp] theorem mapPath_me_sealedOnce (s : State) (f : Path → Path) : (mapPath s f).me.sealedOnce = s.me.sealedOnce := rfl
@[simp] theorem mapPath_me_paths (s : State) (f : Path → Path) : (mapPath s f).me.paths = s.me.paths := rfl
@[simp] theorem mapPath_me_recs (s : State) (f : Path → Path) : (mapPath s f).me.recs = s.me.recs := rfl
@[simp] theorem mapPath_me_nextPath (s : State) (f : Path → Path) : (mapPath s f).me.nextPath = s.me.nextPath := rfl
@[simp] theorem mapPath_me_nextRec (s : State) (f : Path → Path) : (mapPath s f).me.nextRec = s.me.nextRec := rfl
@[simp] theorem mapPath_me_frame (s : State) (f : Path → Path) : (mapPath s f).me.frame = s.me.frame := rfl
@[simp] theorem mapPath_me_copyBat (s : State) (f : Path → Path) : (mapPath s f).me.copyBat = s.me.copyBat := rfl
@[simp] theorem mapPath_me_matBat (s : State) (f : Path → Path) : (mapPath s f).me.matBat = s.me.matBat := rfl
@[simp] theorem mapPath_me_cause (s : State) (f : Path → Path) : (mapPath s f).me.cause = s.me.cause := rfl
@[simp] theorem mapPath_me_causeAddr (s : State) (f : Path → Path) : (mapPath s f).me.causeAddr = s.me.causeAddr := rfl
@[simp] theorem mapPath_me_causeLane (s : State) (f : Path → Path) : (mapPath s f).me.causeLane = s.me.causeLane := rfl
@[simp] theorem mapPath_me_lastTile (s : State) (f : Path → Path) : (mapPath s f).me.lastTile = s.me.lastTile := rfl
@[simp] theorem mapPath_me_lastMark (s : State) (f : Path → Path) : (mapPath s f).me.lastMark = s.me.lastMark := rfl
@[simp] theorem mapPath_me_callout (s : State) (f : Path → Path) : (mapPath s f).me.callout = s.me.callout := rfl
@[simp] theorem mapPath_me_loadAfter (s : State) (f : Path → Path) : (mapPath s f).me.loadAfter = s.me.loadAfter := rfl
@[simp] theorem mapPath_me_urgent (s : State) (f : Path → Path) : (mapPath s f).me.urgent = s.me.urgent := rfl
@[simp] theorem mapPath_me_test (s : State) (f : Path → Path) : (mapPath s f).me.test = s.me.test := rfl
@[simp] theorem mapPath_me_badWrites (s : State) (f : Path → Path) : (mapPath s f).me.badWrites = s.me.badWrites := rfl
@[simp] theorem mapPath_me_netError (s : State) (f : Path → Path) : (mapPath s f).me.netError = s.me.netError := rfl
@[simp] theorem mapPath_me_regs (s : State) (f : Path → Path) : (mapPath s f).me.regs = s.me.regs := rfl
@[simp] theorem mapPath_me_path (s : State) (f : Path → Path) : (mapPath s f).me.path = f s.me.path := rfl
@[simp] theorem mapPath_me_horizon (s : State) (f : Path → Path) : (mapPath s f).me.horizon = s.me.horizon := rfl
@[simp] theorem mapPath_me_calloutH (s : State) (f : Path → Path) : (mapPath s f).me.calloutH = s.me.calloutH := rfl

/-! ## setA -/

@[simp] theorem setA_power (s : State) (n : Nat) (f : AReg) : (setA s n f).power = s.power := rfl
@[simp] theorem setA_time (s : State) (n : Nat) (f : AReg) : (setA s n f).time = s.time := rfl
@[simp] theorem setA_skew (s : State) (n : Nat) (f : AReg) : (setA s n f).skew = s.skew := rfl
@[simp] theorem setA_pace (s : State) (n : Nat) (f : AReg) : (setA s n f).pace = s.pace := rfl
@[simp] theorem setA_agenda (s : State) (n : Nat) (f : AReg) : (setA s n f).agenda = s.agenda := rfl
@[simp] theorem setA_freeCtr (s : State) (n : Nat) (f : AReg) : (setA s n f).freeCtr = s.freeCtr := rfl
@[simp] theorem setA_cut (s : State) (n : Nat) (f : AReg) : (setA s n f).cut = s.cut := rfl
@[simp] theorem setA_ctxs (s : State) (n : Nat) (f : AReg) : (setA s n f).ctxs = s.ctxs := rfl
@[simp] theorem setA_nextCtx (s : State) (n : Nat) (f : AReg) : (setA s n f).nextCtx = s.nextCtx := rfl
@[simp] theorem setA_task (s : State) (n : Nat) (f : AReg) : (setA s n f).task = s.task := rfl
@[simp] theorem setA_tasks (s : State) (n : Nat) (f : AReg) : (setA s n f).tasks = s.tasks := rfl
@[simp] theorem setA_nextOp (s : State) (n : Nat) (f : AReg) : (setA s n f).nextOp = s.nextOp := rfl
@[simp] theorem setA_core (s : State) (n : Nat) (f : AReg) : (setA s n f).core = s.core := rfl
@[simp] theorem setA_cores (s : State) (n : Nat) (f : AReg) : (setA s n f).cores = s.cores := rfl
@[simp] theorem setA_mem (s : State) (n : Nat) (f : AReg) : (setA s n f).mem = s.mem := rfl
@[simp] theorem setA_backing (s : State) (n : Nat) (f : AReg) : (setA s n f).backing = s.backing := rfl
@[simp] theorem setA_lines (s : State) (n : Nat) (f : AReg) : (setA s n f).lines = s.lines := rfl
@[simp] theorem setA_evictH (s : State) (n : Nat) (f : AReg) : (setA s n f).evictH = s.evictH := rfl
@[simp] theorem setA_msc (s : State) (n : Nat) (f : AReg) : (setA s n f).msc = s.msc := rfl
@[simp] theorem setA_flight (s : State) (n : Nat) (f : AReg) : (setA s n f).flight = s.flight := rfl
@[simp] theorem setA_transit (s : State) (n : Nat) (f : AReg) : (setA s n f).transit = s.transit := rfl
@[simp] theorem setA_remote (s : State) (n : Nat) (f : AReg) : (setA s n f).remote = s.remote := rfl
@[simp] theorem setA_l2tlb (s : State) (n : Nat) (f : AReg) : (setA s n f).l2tlb = s.l2tlb := rfl
@[simp] theorem setA_pwc (s : State) (n : Nat) (f : AReg) : (setA s n f).pwc = s.pwc := rfl
@[simp] theorem setA_dev (s : State) (n : Nat) (f : AReg) : (setA s n f).dev = s.dev := rfl
@[simp] theorem setA_me_id (s : State) (n : Nat) (f : AReg) : (setA s n f).me.id = s.me.id := rfl
@[simp] theorem setA_me_task (s : State) (n : Nat) (f : AReg) : (setA s n f).me.task = s.me.task := rfl
@[simp] theorem setA_me_kind (s : State) (n : Nat) (f : AReg) : (setA s n f).me.kind = s.me.kind := rfl
@[simp] theorem setA_me_slotNo (s : State) (n : Nat) (f : AReg) : (setA s n f).me.slotNo = s.me.slotNo := rfl
@[simp] theorem setA_me_area (s : State) (n : Nat) (f : AReg) : (setA s n f).me.area = s.me.area := rfl
@[simp] theorem setA_me_file (s : State) (n : Nat) (f : AReg) : (setA s n f).me.file = s.me.file := rfl
@[simp] theorem setA_me_box (s : State) (n : Nat) (f : AReg) : (setA s n f).me.box = s.me.box := rfl
@[simp] theorem setA_me_cursor (s : State) (n : Nat) (f : AReg) : (setA s n f).me.cursor = s.me.cursor := rfl
@[simp] theorem setA_me_seams (s : State) (n : Nat) (f : AReg) : (setA s n f).me.seams = s.me.seams := rfl
@[simp] theorem setA_me_holder (s : State) (n : Nat) (f : AReg) : (setA s n f).me.holder = s.me.holder := rfl
@[simp] theorem setA_me_parkedAt (s : State) (n : Nat) (f : AReg) : (setA s n f).me.parkedAt = s.me.parkedAt := rfl
@[simp] theorem setA_me_sealedOnce (s : State) (n : Nat) (f : AReg) : (setA s n f).me.sealedOnce = s.me.sealedOnce := rfl
@[simp] theorem setA_me_paths (s : State) (n : Nat) (f : AReg) : (setA s n f).me.paths = s.me.paths := rfl
@[simp] theorem setA_me_recs (s : State) (n : Nat) (f : AReg) : (setA s n f).me.recs = s.me.recs := rfl
@[simp] theorem setA_me_nextPath (s : State) (n : Nat) (f : AReg) : (setA s n f).me.nextPath = s.me.nextPath := rfl
@[simp] theorem setA_me_nextRec (s : State) (n : Nat) (f : AReg) : (setA s n f).me.nextRec = s.me.nextRec := rfl
@[simp] theorem setA_me_frame (s : State) (n : Nat) (f : AReg) : (setA s n f).me.frame = s.me.frame := rfl
@[simp] theorem setA_me_copyBat (s : State) (n : Nat) (f : AReg) : (setA s n f).me.copyBat = s.me.copyBat := rfl
@[simp] theorem setA_me_matBat (s : State) (n : Nat) (f : AReg) : (setA s n f).me.matBat = s.me.matBat := rfl
@[simp] theorem setA_me_cause (s : State) (n : Nat) (f : AReg) : (setA s n f).me.cause = s.me.cause := rfl
@[simp] theorem setA_me_causeAddr (s : State) (n : Nat) (f : AReg) : (setA s n f).me.causeAddr = s.me.causeAddr := rfl
@[simp] theorem setA_me_causeLane (s : State) (n : Nat) (f : AReg) : (setA s n f).me.causeLane = s.me.causeLane := rfl
@[simp] theorem setA_me_lastTile (s : State) (n : Nat) (f : AReg) : (setA s n f).me.lastTile = s.me.lastTile := rfl
@[simp] theorem setA_me_lastMark (s : State) (n : Nat) (f : AReg) : (setA s n f).me.lastMark = s.me.lastMark := rfl
@[simp] theorem setA_me_callout (s : State) (n : Nat) (f : AReg) : (setA s n f).me.callout = s.me.callout := rfl
@[simp] theorem setA_me_loadAfter (s : State) (n : Nat) (f : AReg) : (setA s n f).me.loadAfter = s.me.loadAfter := rfl
@[simp] theorem setA_me_urgent (s : State) (n : Nat) (f : AReg) : (setA s n f).me.urgent = s.me.urgent := rfl
@[simp] theorem setA_me_test (s : State) (n : Nat) (f : AReg) : (setA s n f).me.test = s.me.test := rfl
@[simp] theorem setA_me_badWrites (s : State) (n : Nat) (f : AReg) : (setA s n f).me.badWrites = s.me.badWrites := rfl
@[simp] theorem setA_me_netError (s : State) (n : Nat) (f : AReg) : (setA s n f).me.netError = s.me.netError := rfl
@[simp] theorem setA_me_regs (s : State) (n : Nat) (f : AReg) : (setA s n f).me.regs = { s.me.regs with a := vset s.me.regs.a n f, errA := s.me.regs.errA.filter fun k => k != n } := rfl
@[simp] theorem setA_me_path (s : State) (n : Nat) (f : AReg) : (setA s n f).me.path = s.me.path := rfl
@[simp] theorem setA_me_horizon (s : State) (n : Nat) (f : AReg) : (setA s n f).me.horizon = s.me.horizon := rfl
@[simp] theorem setA_me_calloutH (s : State) (n : Nat) (f : AReg) : (setA s n f).me.calloutH = s.me.calloutH := rfl

/-! ## setACode -/

@[simp] theorem setACode_power (s : State) (c : BitVec 7) (f : AReg) : (setACode s c f).power = s.power := rfl
@[simp] theorem setACode_time (s : State) (c : BitVec 7) (f : AReg) : (setACode s c f).time = s.time := rfl
@[simp] theorem setACode_skew (s : State) (c : BitVec 7) (f : AReg) : (setACode s c f).skew = s.skew := rfl
@[simp] theorem setACode_pace (s : State) (c : BitVec 7) (f : AReg) : (setACode s c f).pace = s.pace := rfl
@[simp] theorem setACode_agenda (s : State) (c : BitVec 7) (f : AReg) : (setACode s c f).agenda = s.agenda := rfl
@[simp] theorem setACode_freeCtr (s : State) (c : BitVec 7) (f : AReg) : (setACode s c f).freeCtr = s.freeCtr := rfl
@[simp] theorem setACode_cut (s : State) (c : BitVec 7) (f : AReg) : (setACode s c f).cut = s.cut := rfl
@[simp] theorem setACode_ctxs (s : State) (c : BitVec 7) (f : AReg) : (setACode s c f).ctxs = s.ctxs := rfl
@[simp] theorem setACode_nextCtx (s : State) (c : BitVec 7) (f : AReg) : (setACode s c f).nextCtx = s.nextCtx := rfl
@[simp] theorem setACode_task (s : State) (c : BitVec 7) (f : AReg) : (setACode s c f).task = s.task := rfl
@[simp] theorem setACode_tasks (s : State) (c : BitVec 7) (f : AReg) : (setACode s c f).tasks = s.tasks := rfl
@[simp] theorem setACode_nextOp (s : State) (c : BitVec 7) (f : AReg) : (setACode s c f).nextOp = s.nextOp := rfl
@[simp] theorem setACode_core (s : State) (c : BitVec 7) (f : AReg) : (setACode s c f).core = s.core := rfl
@[simp] theorem setACode_cores (s : State) (c : BitVec 7) (f : AReg) : (setACode s c f).cores = s.cores := rfl
@[simp] theorem setACode_mem (s : State) (c : BitVec 7) (f : AReg) : (setACode s c f).mem = s.mem := rfl
@[simp] theorem setACode_backing (s : State) (c : BitVec 7) (f : AReg) : (setACode s c f).backing = s.backing := rfl
@[simp] theorem setACode_lines (s : State) (c : BitVec 7) (f : AReg) : (setACode s c f).lines = s.lines := rfl
@[simp] theorem setACode_evictH (s : State) (c : BitVec 7) (f : AReg) : (setACode s c f).evictH = s.evictH := rfl
@[simp] theorem setACode_msc (s : State) (c : BitVec 7) (f : AReg) : (setACode s c f).msc = s.msc := rfl
@[simp] theorem setACode_flight (s : State) (c : BitVec 7) (f : AReg) : (setACode s c f).flight = s.flight := rfl
@[simp] theorem setACode_transit (s : State) (c : BitVec 7) (f : AReg) : (setACode s c f).transit = s.transit := rfl
@[simp] theorem setACode_remote (s : State) (c : BitVec 7) (f : AReg) : (setACode s c f).remote = s.remote := rfl
@[simp] theorem setACode_l2tlb (s : State) (c : BitVec 7) (f : AReg) : (setACode s c f).l2tlb = s.l2tlb := rfl
@[simp] theorem setACode_pwc (s : State) (c : BitVec 7) (f : AReg) : (setACode s c f).pwc = s.pwc := rfl
@[simp] theorem setACode_dev (s : State) (c : BitVec 7) (f : AReg) : (setACode s c f).dev = s.dev := rfl
@[simp] theorem setACode_me_id (s : State) (c : BitVec 7) (f : AReg) : (setACode s c f).me.id = s.me.id := rfl
@[simp] theorem setACode_me_task (s : State) (c : BitVec 7) (f : AReg) : (setACode s c f).me.task = s.me.task := rfl
@[simp] theorem setACode_me_kind (s : State) (c : BitVec 7) (f : AReg) : (setACode s c f).me.kind = s.me.kind := rfl
@[simp] theorem setACode_me_slotNo (s : State) (c : BitVec 7) (f : AReg) : (setACode s c f).me.slotNo = s.me.slotNo := rfl
@[simp] theorem setACode_me_area (s : State) (c : BitVec 7) (f : AReg) : (setACode s c f).me.area = s.me.area := rfl
@[simp] theorem setACode_me_file (s : State) (c : BitVec 7) (f : AReg) : (setACode s c f).me.file = s.me.file := rfl
@[simp] theorem setACode_me_box (s : State) (c : BitVec 7) (f : AReg) : (setACode s c f).me.box = s.me.box := rfl
@[simp] theorem setACode_me_cursor (s : State) (c : BitVec 7) (f : AReg) : (setACode s c f).me.cursor = s.me.cursor := rfl
@[simp] theorem setACode_me_seams (s : State) (c : BitVec 7) (f : AReg) : (setACode s c f).me.seams = s.me.seams := rfl
@[simp] theorem setACode_me_holder (s : State) (c : BitVec 7) (f : AReg) : (setACode s c f).me.holder = s.me.holder := rfl
@[simp] theorem setACode_me_parkedAt (s : State) (c : BitVec 7) (f : AReg) : (setACode s c f).me.parkedAt = s.me.parkedAt := rfl
@[simp] theorem setACode_me_sealedOnce (s : State) (c : BitVec 7) (f : AReg) : (setACode s c f).me.sealedOnce = s.me.sealedOnce := rfl
@[simp] theorem setACode_me_paths (s : State) (c : BitVec 7) (f : AReg) : (setACode s c f).me.paths = s.me.paths := rfl
@[simp] theorem setACode_me_recs (s : State) (c : BitVec 7) (f : AReg) : (setACode s c f).me.recs = s.me.recs := rfl
@[simp] theorem setACode_me_nextPath (s : State) (c : BitVec 7) (f : AReg) : (setACode s c f).me.nextPath = s.me.nextPath := rfl
@[simp] theorem setACode_me_nextRec (s : State) (c : BitVec 7) (f : AReg) : (setACode s c f).me.nextRec = s.me.nextRec := rfl
@[simp] theorem setACode_me_frame (s : State) (c : BitVec 7) (f : AReg) : (setACode s c f).me.frame = s.me.frame := rfl
@[simp] theorem setACode_me_copyBat (s : State) (c : BitVec 7) (f : AReg) : (setACode s c f).me.copyBat = s.me.copyBat := rfl
@[simp] theorem setACode_me_matBat (s : State) (c : BitVec 7) (f : AReg) : (setACode s c f).me.matBat = s.me.matBat := rfl
@[simp] theorem setACode_me_cause (s : State) (c : BitVec 7) (f : AReg) : (setACode s c f).me.cause = s.me.cause := rfl
@[simp] theorem setACode_me_causeAddr (s : State) (c : BitVec 7) (f : AReg) : (setACode s c f).me.causeAddr = s.me.causeAddr := rfl
@[simp] theorem setACode_me_causeLane (s : State) (c : BitVec 7) (f : AReg) : (setACode s c f).me.causeLane = s.me.causeLane := rfl
@[simp] theorem setACode_me_lastTile (s : State) (c : BitVec 7) (f : AReg) : (setACode s c f).me.lastTile = s.me.lastTile := rfl
@[simp] theorem setACode_me_lastMark (s : State) (c : BitVec 7) (f : AReg) : (setACode s c f).me.lastMark = s.me.lastMark := rfl
@[simp] theorem setACode_me_callout (s : State) (c : BitVec 7) (f : AReg) : (setACode s c f).me.callout = s.me.callout := rfl
@[simp] theorem setACode_me_loadAfter (s : State) (c : BitVec 7) (f : AReg) : (setACode s c f).me.loadAfter = s.me.loadAfter := rfl
@[simp] theorem setACode_me_urgent (s : State) (c : BitVec 7) (f : AReg) : (setACode s c f).me.urgent = s.me.urgent := rfl
@[simp] theorem setACode_me_test (s : State) (c : BitVec 7) (f : AReg) : (setACode s c f).me.test = s.me.test := rfl
@[simp] theorem setACode_me_badWrites (s : State) (c : BitVec 7) (f : AReg) : (setACode s c f).me.badWrites = s.me.badWrites := rfl
@[simp] theorem setACode_me_netError (s : State) (c : BitVec 7) (f : AReg) : (setACode s c f).me.netError = s.me.netError := rfl
@[simp] theorem setACode_me_regs (s : State) (c : BitVec 7) (f : AReg) : (setACode s c f).me.regs = { s.me.regs with a := vset s.me.regs.a (c.toNat - 64) f, errA := s.me.regs.errA.filter fun k => k != c.toNat - 64 } := rfl
@[simp] theorem setACode_me_path (s : State) (c : BitVec 7) (f : AReg) : (setACode s c f).me.path = s.me.path := rfl
@[simp] theorem setACode_me_horizon (s : State) (c : BitVec 7) (f : AReg) : (setACode s c f).me.horizon = s.me.horizon := rfl
@[simp] theorem setACode_me_calloutH (s : State) (c : BitVec 7) (f : AReg) : (setACode s c f).me.calloutH = s.me.calloutH := rfl

/-! ## setUniform -/

@[simp] theorem setUniform_power (s : State) (c : BitVec 7) (x : Word64) (t : Tag) : (setUniform s c x t).power = s.power := rfl
@[simp] theorem setUniform_time (s : State) (c : BitVec 7) (x : Word64) (t : Tag) : (setUniform s c x t).time = s.time := rfl
@[simp] theorem setUniform_skew (s : State) (c : BitVec 7) (x : Word64) (t : Tag) : (setUniform s c x t).skew = s.skew := rfl
@[simp] theorem setUniform_pace (s : State) (c : BitVec 7) (x : Word64) (t : Tag) : (setUniform s c x t).pace = s.pace := rfl
@[simp] theorem setUniform_agenda (s : State) (c : BitVec 7) (x : Word64) (t : Tag) : (setUniform s c x t).agenda = s.agenda := rfl
@[simp] theorem setUniform_freeCtr (s : State) (c : BitVec 7) (x : Word64) (t : Tag) : (setUniform s c x t).freeCtr = s.freeCtr := rfl
@[simp] theorem setUniform_cut (s : State) (c : BitVec 7) (x : Word64) (t : Tag) : (setUniform s c x t).cut = s.cut := rfl
@[simp] theorem setUniform_ctxs (s : State) (c : BitVec 7) (x : Word64) (t : Tag) : (setUniform s c x t).ctxs = s.ctxs := rfl
@[simp] theorem setUniform_nextCtx (s : State) (c : BitVec 7) (x : Word64) (t : Tag) : (setUniform s c x t).nextCtx = s.nextCtx := rfl
@[simp] theorem setUniform_task (s : State) (c : BitVec 7) (x : Word64) (t : Tag) : (setUniform s c x t).task = s.task := rfl
@[simp] theorem setUniform_tasks (s : State) (c : BitVec 7) (x : Word64) (t : Tag) : (setUniform s c x t).tasks = s.tasks := rfl
@[simp] theorem setUniform_nextOp (s : State) (c : BitVec 7) (x : Word64) (t : Tag) : (setUniform s c x t).nextOp = s.nextOp := rfl
@[simp] theorem setUniform_core (s : State) (c : BitVec 7) (x : Word64) (t : Tag) : (setUniform s c x t).core = s.core := rfl
@[simp] theorem setUniform_cores (s : State) (c : BitVec 7) (x : Word64) (t : Tag) : (setUniform s c x t).cores = s.cores := rfl
@[simp] theorem setUniform_mem (s : State) (c : BitVec 7) (x : Word64) (t : Tag) : (setUniform s c x t).mem = s.mem := rfl
@[simp] theorem setUniform_backing (s : State) (c : BitVec 7) (x : Word64) (t : Tag) : (setUniform s c x t).backing = s.backing := rfl
@[simp] theorem setUniform_lines (s : State) (c : BitVec 7) (x : Word64) (t : Tag) : (setUniform s c x t).lines = s.lines := rfl
@[simp] theorem setUniform_evictH (s : State) (c : BitVec 7) (x : Word64) (t : Tag) : (setUniform s c x t).evictH = s.evictH := rfl
@[simp] theorem setUniform_msc (s : State) (c : BitVec 7) (x : Word64) (t : Tag) : (setUniform s c x t).msc = s.msc := rfl
@[simp] theorem setUniform_flight (s : State) (c : BitVec 7) (x : Word64) (t : Tag) : (setUniform s c x t).flight = s.flight := rfl
@[simp] theorem setUniform_transit (s : State) (c : BitVec 7) (x : Word64) (t : Tag) : (setUniform s c x t).transit = s.transit := rfl
@[simp] theorem setUniform_remote (s : State) (c : BitVec 7) (x : Word64) (t : Tag) : (setUniform s c x t).remote = s.remote := rfl
@[simp] theorem setUniform_l2tlb (s : State) (c : BitVec 7) (x : Word64) (t : Tag) : (setUniform s c x t).l2tlb = s.l2tlb := rfl
@[simp] theorem setUniform_pwc (s : State) (c : BitVec 7) (x : Word64) (t : Tag) : (setUniform s c x t).pwc = s.pwc := rfl
@[simp] theorem setUniform_dev (s : State) (c : BitVec 7) (x : Word64) (t : Tag) : (setUniform s c x t).dev = s.dev := rfl
@[simp] theorem setUniform_me_id (s : State) (c : BitVec 7) (x : Word64) (t : Tag) : (setUniform s c x t).me.id = s.me.id := rfl
@[simp] theorem setUniform_me_task (s : State) (c : BitVec 7) (x : Word64) (t : Tag) : (setUniform s c x t).me.task = s.me.task := rfl
@[simp] theorem setUniform_me_kind (s : State) (c : BitVec 7) (x : Word64) (t : Tag) : (setUniform s c x t).me.kind = s.me.kind := rfl
@[simp] theorem setUniform_me_slotNo (s : State) (c : BitVec 7) (x : Word64) (t : Tag) : (setUniform s c x t).me.slotNo = s.me.slotNo := rfl
@[simp] theorem setUniform_me_area (s : State) (c : BitVec 7) (x : Word64) (t : Tag) : (setUniform s c x t).me.area = s.me.area := rfl
@[simp] theorem setUniform_me_file (s : State) (c : BitVec 7) (x : Word64) (t : Tag) : (setUniform s c x t).me.file = s.me.file := rfl
@[simp] theorem setUniform_me_box (s : State) (c : BitVec 7) (x : Word64) (t : Tag) : (setUniform s c x t).me.box = s.me.box := rfl
@[simp] theorem setUniform_me_cursor (s : State) (c : BitVec 7) (x : Word64) (t : Tag) : (setUniform s c x t).me.cursor = s.me.cursor := rfl
@[simp] theorem setUniform_me_seams (s : State) (c : BitVec 7) (x : Word64) (t : Tag) : (setUniform s c x t).me.seams = s.me.seams := rfl
@[simp] theorem setUniform_me_holder (s : State) (c : BitVec 7) (x : Word64) (t : Tag) : (setUniform s c x t).me.holder = s.me.holder := rfl
@[simp] theorem setUniform_me_parkedAt (s : State) (c : BitVec 7) (x : Word64) (t : Tag) : (setUniform s c x t).me.parkedAt = s.me.parkedAt := rfl
@[simp] theorem setUniform_me_sealedOnce (s : State) (c : BitVec 7) (x : Word64) (t : Tag) : (setUniform s c x t).me.sealedOnce = s.me.sealedOnce := rfl
@[simp] theorem setUniform_me_paths (s : State) (c : BitVec 7) (x : Word64) (t : Tag) : (setUniform s c x t).me.paths = s.me.paths := rfl
@[simp] theorem setUniform_me_recs (s : State) (c : BitVec 7) (x : Word64) (t : Tag) : (setUniform s c x t).me.recs = s.me.recs := rfl
@[simp] theorem setUniform_me_nextPath (s : State) (c : BitVec 7) (x : Word64) (t : Tag) : (setUniform s c x t).me.nextPath = s.me.nextPath := rfl
@[simp] theorem setUniform_me_nextRec (s : State) (c : BitVec 7) (x : Word64) (t : Tag) : (setUniform s c x t).me.nextRec = s.me.nextRec := rfl
@[simp] theorem setUniform_me_frame (s : State) (c : BitVec 7) (x : Word64) (t : Tag) : (setUniform s c x t).me.frame = s.me.frame := rfl
@[simp] theorem setUniform_me_copyBat (s : State) (c : BitVec 7) (x : Word64) (t : Tag) : (setUniform s c x t).me.copyBat = s.me.copyBat := rfl
@[simp] theorem setUniform_me_matBat (s : State) (c : BitVec 7) (x : Word64) (t : Tag) : (setUniform s c x t).me.matBat = s.me.matBat := rfl
@[simp] theorem setUniform_me_cause (s : State) (c : BitVec 7) (x : Word64) (t : Tag) : (setUniform s c x t).me.cause = s.me.cause := rfl
@[simp] theorem setUniform_me_causeAddr (s : State) (c : BitVec 7) (x : Word64) (t : Tag) : (setUniform s c x t).me.causeAddr = s.me.causeAddr := rfl
@[simp] theorem setUniform_me_causeLane (s : State) (c : BitVec 7) (x : Word64) (t : Tag) : (setUniform s c x t).me.causeLane = s.me.causeLane := rfl
@[simp] theorem setUniform_me_lastTile (s : State) (c : BitVec 7) (x : Word64) (t : Tag) : (setUniform s c x t).me.lastTile = s.me.lastTile := rfl
@[simp] theorem setUniform_me_lastMark (s : State) (c : BitVec 7) (x : Word64) (t : Tag) : (setUniform s c x t).me.lastMark = s.me.lastMark := rfl
@[simp] theorem setUniform_me_callout (s : State) (c : BitVec 7) (x : Word64) (t : Tag) : (setUniform s c x t).me.callout = s.me.callout := rfl
@[simp] theorem setUniform_me_loadAfter (s : State) (c : BitVec 7) (x : Word64) (t : Tag) : (setUniform s c x t).me.loadAfter = s.me.loadAfter := rfl
@[simp] theorem setUniform_me_urgent (s : State) (c : BitVec 7) (x : Word64) (t : Tag) : (setUniform s c x t).me.urgent = s.me.urgent := rfl
@[simp] theorem setUniform_me_test (s : State) (c : BitVec 7) (x : Word64) (t : Tag) : (setUniform s c x t).me.test = s.me.test := rfl
@[simp] theorem setUniform_me_badWrites (s : State) (c : BitVec 7) (x : Word64) (t : Tag) : (setUniform s c x t).me.badWrites = s.me.badWrites := rfl
@[simp] theorem setUniform_me_netError (s : State) (c : BitVec 7) (x : Word64) (t : Tag) : (setUniform s c x t).me.netError = s.me.netError := rfl
@[simp] theorem setUniform_me_regs (s : State) (c : BitVec 7) (x : Word64) (t : Tag) : (setUniform s c x t).me.regs = { s.me.regs with a := vset s.me.regs.a (c.toNat - 64) (uniform x t), errA := s.me.regs.errA.filter fun k => k != c.toNat - 64 } := rfl
@[simp] theorem setUniform_me_path (s : State) (c : BitVec 7) (x : Word64) (t : Tag) : (setUniform s c x t).me.path = s.me.path := rfl
@[simp] theorem setUniform_me_horizon (s : State) (c : BitVec 7) (x : Word64) (t : Tag) : (setUniform s c x t).me.horizon = s.me.horizon := rfl
@[simp] theorem setUniform_me_calloutH (s : State) (c : BitVec 7) (x : Word64) (t : Tag) : (setUniform s c x t).me.calloutH = s.me.calloutH := rfl

/-! ## setVMask -/

@[simp] theorem setVMask_power (s : State) (n : Nat) (m : Word64) (t : Tag) (val : Nat → Word32) : (setVMask s n m t val).power = s.power := rfl
@[simp] theorem setVMask_time (s : State) (n : Nat) (m : Word64) (t : Tag) (val : Nat → Word32) : (setVMask s n m t val).time = s.time := rfl
@[simp] theorem setVMask_skew (s : State) (n : Nat) (m : Word64) (t : Tag) (val : Nat → Word32) : (setVMask s n m t val).skew = s.skew := rfl
@[simp] theorem setVMask_pace (s : State) (n : Nat) (m : Word64) (t : Tag) (val : Nat → Word32) : (setVMask s n m t val).pace = s.pace := rfl
@[simp] theorem setVMask_agenda (s : State) (n : Nat) (m : Word64) (t : Tag) (val : Nat → Word32) : (setVMask s n m t val).agenda = s.agenda := rfl
@[simp] theorem setVMask_freeCtr (s : State) (n : Nat) (m : Word64) (t : Tag) (val : Nat → Word32) : (setVMask s n m t val).freeCtr = s.freeCtr := rfl
@[simp] theorem setVMask_cut (s : State) (n : Nat) (m : Word64) (t : Tag) (val : Nat → Word32) : (setVMask s n m t val).cut = s.cut := rfl
@[simp] theorem setVMask_ctxs (s : State) (n : Nat) (m : Word64) (t : Tag) (val : Nat → Word32) : (setVMask s n m t val).ctxs = s.ctxs := rfl
@[simp] theorem setVMask_nextCtx (s : State) (n : Nat) (m : Word64) (t : Tag) (val : Nat → Word32) : (setVMask s n m t val).nextCtx = s.nextCtx := rfl
@[simp] theorem setVMask_task (s : State) (n : Nat) (m : Word64) (t : Tag) (val : Nat → Word32) : (setVMask s n m t val).task = s.task := rfl
@[simp] theorem setVMask_tasks (s : State) (n : Nat) (m : Word64) (t : Tag) (val : Nat → Word32) : (setVMask s n m t val).tasks = s.tasks := rfl
@[simp] theorem setVMask_nextOp (s : State) (n : Nat) (m : Word64) (t : Tag) (val : Nat → Word32) : (setVMask s n m t val).nextOp = s.nextOp := rfl
@[simp] theorem setVMask_core (s : State) (n : Nat) (m : Word64) (t : Tag) (val : Nat → Word32) : (setVMask s n m t val).core = s.core := rfl
@[simp] theorem setVMask_cores (s : State) (n : Nat) (m : Word64) (t : Tag) (val : Nat → Word32) : (setVMask s n m t val).cores = s.cores := rfl
@[simp] theorem setVMask_mem (s : State) (n : Nat) (m : Word64) (t : Tag) (val : Nat → Word32) : (setVMask s n m t val).mem = s.mem := rfl
@[simp] theorem setVMask_backing (s : State) (n : Nat) (m : Word64) (t : Tag) (val : Nat → Word32) : (setVMask s n m t val).backing = s.backing := rfl
@[simp] theorem setVMask_lines (s : State) (n : Nat) (m : Word64) (t : Tag) (val : Nat → Word32) : (setVMask s n m t val).lines = s.lines := rfl
@[simp] theorem setVMask_evictH (s : State) (n : Nat) (m : Word64) (t : Tag) (val : Nat → Word32) : (setVMask s n m t val).evictH = s.evictH := rfl
@[simp] theorem setVMask_msc (s : State) (n : Nat) (m : Word64) (t : Tag) (val : Nat → Word32) : (setVMask s n m t val).msc = s.msc := rfl
@[simp] theorem setVMask_flight (s : State) (n : Nat) (m : Word64) (t : Tag) (val : Nat → Word32) : (setVMask s n m t val).flight = s.flight := rfl
@[simp] theorem setVMask_transit (s : State) (n : Nat) (m : Word64) (t : Tag) (val : Nat → Word32) : (setVMask s n m t val).transit = s.transit := rfl
@[simp] theorem setVMask_remote (s : State) (n : Nat) (m : Word64) (t : Tag) (val : Nat → Word32) : (setVMask s n m t val).remote = s.remote := rfl
@[simp] theorem setVMask_l2tlb (s : State) (n : Nat) (m : Word64) (t : Tag) (val : Nat → Word32) : (setVMask s n m t val).l2tlb = s.l2tlb := rfl
@[simp] theorem setVMask_pwc (s : State) (n : Nat) (m : Word64) (t : Tag) (val : Nat → Word32) : (setVMask s n m t val).pwc = s.pwc := rfl
@[simp] theorem setVMask_dev (s : State) (n : Nat) (m : Word64) (t : Tag) (val : Nat → Word32) : (setVMask s n m t val).dev = s.dev := rfl
@[simp] theorem setVMask_me_id (s : State) (n : Nat) (m : Word64) (t : Tag) (val : Nat → Word32) : (setVMask s n m t val).me.id = s.me.id := rfl
@[simp] theorem setVMask_me_task (s : State) (n : Nat) (m : Word64) (t : Tag) (val : Nat → Word32) : (setVMask s n m t val).me.task = s.me.task := rfl
@[simp] theorem setVMask_me_kind (s : State) (n : Nat) (m : Word64) (t : Tag) (val : Nat → Word32) : (setVMask s n m t val).me.kind = s.me.kind := rfl
@[simp] theorem setVMask_me_slotNo (s : State) (n : Nat) (m : Word64) (t : Tag) (val : Nat → Word32) : (setVMask s n m t val).me.slotNo = s.me.slotNo := rfl
@[simp] theorem setVMask_me_area (s : State) (n : Nat) (m : Word64) (t : Tag) (val : Nat → Word32) : (setVMask s n m t val).me.area = s.me.area := rfl
@[simp] theorem setVMask_me_file (s : State) (n : Nat) (m : Word64) (t : Tag) (val : Nat → Word32) : (setVMask s n m t val).me.file = s.me.file := rfl
@[simp] theorem setVMask_me_box (s : State) (n : Nat) (m : Word64) (t : Tag) (val : Nat → Word32) : (setVMask s n m t val).me.box = s.me.box := rfl
@[simp] theorem setVMask_me_cursor (s : State) (n : Nat) (m : Word64) (t : Tag) (val : Nat → Word32) : (setVMask s n m t val).me.cursor = s.me.cursor := rfl
@[simp] theorem setVMask_me_seams (s : State) (n : Nat) (m : Word64) (t : Tag) (val : Nat → Word32) : (setVMask s n m t val).me.seams = s.me.seams := rfl
@[simp] theorem setVMask_me_holder (s : State) (n : Nat) (m : Word64) (t : Tag) (val : Nat → Word32) : (setVMask s n m t val).me.holder = s.me.holder := rfl
@[simp] theorem setVMask_me_parkedAt (s : State) (n : Nat) (m : Word64) (t : Tag) (val : Nat → Word32) : (setVMask s n m t val).me.parkedAt = s.me.parkedAt := rfl
@[simp] theorem setVMask_me_sealedOnce (s : State) (n : Nat) (m : Word64) (t : Tag) (val : Nat → Word32) : (setVMask s n m t val).me.sealedOnce = s.me.sealedOnce := rfl
@[simp] theorem setVMask_me_paths (s : State) (n : Nat) (m : Word64) (t : Tag) (val : Nat → Word32) : (setVMask s n m t val).me.paths = s.me.paths := rfl
@[simp] theorem setVMask_me_recs (s : State) (n : Nat) (m : Word64) (t : Tag) (val : Nat → Word32) : (setVMask s n m t val).me.recs = s.me.recs := rfl
@[simp] theorem setVMask_me_nextPath (s : State) (n : Nat) (m : Word64) (t : Tag) (val : Nat → Word32) : (setVMask s n m t val).me.nextPath = s.me.nextPath := rfl
@[simp] theorem setVMask_me_nextRec (s : State) (n : Nat) (m : Word64) (t : Tag) (val : Nat → Word32) : (setVMask s n m t val).me.nextRec = s.me.nextRec := rfl
@[simp] theorem setVMask_me_frame (s : State) (n : Nat) (m : Word64) (t : Tag) (val : Nat → Word32) : (setVMask s n m t val).me.frame = s.me.frame := rfl
@[simp] theorem setVMask_me_copyBat (s : State) (n : Nat) (m : Word64) (t : Tag) (val : Nat → Word32) : (setVMask s n m t val).me.copyBat = s.me.copyBat := rfl
@[simp] theorem setVMask_me_matBat (s : State) (n : Nat) (m : Word64) (t : Tag) (val : Nat → Word32) : (setVMask s n m t val).me.matBat = s.me.matBat := rfl
@[simp] theorem setVMask_me_cause (s : State) (n : Nat) (m : Word64) (t : Tag) (val : Nat → Word32) : (setVMask s n m t val).me.cause = s.me.cause := rfl
@[simp] theorem setVMask_me_causeAddr (s : State) (n : Nat) (m : Word64) (t : Tag) (val : Nat → Word32) : (setVMask s n m t val).me.causeAddr = s.me.causeAddr := rfl
@[simp] theorem setVMask_me_causeLane (s : State) (n : Nat) (m : Word64) (t : Tag) (val : Nat → Word32) : (setVMask s n m t val).me.causeLane = s.me.causeLane := rfl
@[simp] theorem setVMask_me_lastTile (s : State) (n : Nat) (m : Word64) (t : Tag) (val : Nat → Word32) : (setVMask s n m t val).me.lastTile = s.me.lastTile := rfl
@[simp] theorem setVMask_me_lastMark (s : State) (n : Nat) (m : Word64) (t : Tag) (val : Nat → Word32) : (setVMask s n m t val).me.lastMark = s.me.lastMark := rfl
@[simp] theorem setVMask_me_callout (s : State) (n : Nat) (m : Word64) (t : Tag) (val : Nat → Word32) : (setVMask s n m t val).me.callout = s.me.callout := rfl
@[simp] theorem setVMask_me_loadAfter (s : State) (n : Nat) (m : Word64) (t : Tag) (val : Nat → Word32) : (setVMask s n m t val).me.loadAfter = s.me.loadAfter := rfl
@[simp] theorem setVMask_me_urgent (s : State) (n : Nat) (m : Word64) (t : Tag) (val : Nat → Word32) : (setVMask s n m t val).me.urgent = s.me.urgent := rfl
@[simp] theorem setVMask_me_test (s : State) (n : Nat) (m : Word64) (t : Tag) (val : Nat → Word32) : (setVMask s n m t val).me.test = s.me.test := rfl
@[simp] theorem setVMask_me_badWrites (s : State) (n : Nat) (m : Word64) (t : Tag) (val : Nat → Word32) : (setVMask s n m t val).me.badWrites = s.me.badWrites := rfl
@[simp] theorem setVMask_me_netError (s : State) (n : Nat) (m : Word64) (t : Tag) (val : Nat → Word32) : (setVMask s n m t val).me.netError = s.me.netError := rfl
@[simp] theorem setVMask_me_regs (s : State) (n : Nat) (m : Word64) (t : Tag) (val : Nat → Word32) : (setVMask s n m t val).me.regs = { s.me.regs with v := vset s.me.regs.v n ⟨vmask (vget s.me.regs.v n VReg.fresh).lanes m val, t⟩, errV := s.me.regs.errV.filter fun e => !(e.1 == n && m.getLsbD e.2.1) } := rfl
@[simp] theorem setVMask_me_path (s : State) (n : Nat) (m : Word64) (t : Tag) (val : Nat → Word32) : (setVMask s n m t val).me.path = s.me.path := rfl
@[simp] theorem setVMask_me_horizon (s : State) (n : Nat) (m : Word64) (t : Tag) (val : Nat → Word32) : (setVMask s n m t val).me.horizon = s.me.horizon := rfl
@[simp] theorem setVMask_me_calloutH (s : State) (n : Nat) (m : Word64) (t : Tag) (val : Nat → Word32) : (setVMask s n m t val).me.calloutH = s.me.calloutH := rfl

/-! ## setV -/

@[simp] theorem setV_power (s : State) (n : Nat) (t : Tag) (val : Nat → Word32) : (setV s n t val).power = s.power := rfl
@[simp] theorem setV_time (s : State) (n : Nat) (t : Tag) (val : Nat → Word32) : (setV s n t val).time = s.time := rfl
@[simp] theorem setV_skew (s : State) (n : Nat) (t : Tag) (val : Nat → Word32) : (setV s n t val).skew = s.skew := rfl
@[simp] theorem setV_pace (s : State) (n : Nat) (t : Tag) (val : Nat → Word32) : (setV s n t val).pace = s.pace := rfl
@[simp] theorem setV_agenda (s : State) (n : Nat) (t : Tag) (val : Nat → Word32) : (setV s n t val).agenda = s.agenda := rfl
@[simp] theorem setV_freeCtr (s : State) (n : Nat) (t : Tag) (val : Nat → Word32) : (setV s n t val).freeCtr = s.freeCtr := rfl
@[simp] theorem setV_cut (s : State) (n : Nat) (t : Tag) (val : Nat → Word32) : (setV s n t val).cut = s.cut := rfl
@[simp] theorem setV_ctxs (s : State) (n : Nat) (t : Tag) (val : Nat → Word32) : (setV s n t val).ctxs = s.ctxs := rfl
@[simp] theorem setV_nextCtx (s : State) (n : Nat) (t : Tag) (val : Nat → Word32) : (setV s n t val).nextCtx = s.nextCtx := rfl
@[simp] theorem setV_task (s : State) (n : Nat) (t : Tag) (val : Nat → Word32) : (setV s n t val).task = s.task := rfl
@[simp] theorem setV_tasks (s : State) (n : Nat) (t : Tag) (val : Nat → Word32) : (setV s n t val).tasks = s.tasks := rfl
@[simp] theorem setV_nextOp (s : State) (n : Nat) (t : Tag) (val : Nat → Word32) : (setV s n t val).nextOp = s.nextOp := rfl
@[simp] theorem setV_core (s : State) (n : Nat) (t : Tag) (val : Nat → Word32) : (setV s n t val).core = s.core := rfl
@[simp] theorem setV_cores (s : State) (n : Nat) (t : Tag) (val : Nat → Word32) : (setV s n t val).cores = s.cores := rfl
@[simp] theorem setV_mem (s : State) (n : Nat) (t : Tag) (val : Nat → Word32) : (setV s n t val).mem = s.mem := rfl
@[simp] theorem setV_backing (s : State) (n : Nat) (t : Tag) (val : Nat → Word32) : (setV s n t val).backing = s.backing := rfl
@[simp] theorem setV_lines (s : State) (n : Nat) (t : Tag) (val : Nat → Word32) : (setV s n t val).lines = s.lines := rfl
@[simp] theorem setV_evictH (s : State) (n : Nat) (t : Tag) (val : Nat → Word32) : (setV s n t val).evictH = s.evictH := rfl
@[simp] theorem setV_msc (s : State) (n : Nat) (t : Tag) (val : Nat → Word32) : (setV s n t val).msc = s.msc := rfl
@[simp] theorem setV_flight (s : State) (n : Nat) (t : Tag) (val : Nat → Word32) : (setV s n t val).flight = s.flight := rfl
@[simp] theorem setV_transit (s : State) (n : Nat) (t : Tag) (val : Nat → Word32) : (setV s n t val).transit = s.transit := rfl
@[simp] theorem setV_remote (s : State) (n : Nat) (t : Tag) (val : Nat → Word32) : (setV s n t val).remote = s.remote := rfl
@[simp] theorem setV_l2tlb (s : State) (n : Nat) (t : Tag) (val : Nat → Word32) : (setV s n t val).l2tlb = s.l2tlb := rfl
@[simp] theorem setV_pwc (s : State) (n : Nat) (t : Tag) (val : Nat → Word32) : (setV s n t val).pwc = s.pwc := rfl
@[simp] theorem setV_dev (s : State) (n : Nat) (t : Tag) (val : Nat → Word32) : (setV s n t val).dev = s.dev := rfl
@[simp] theorem setV_me_id (s : State) (n : Nat) (t : Tag) (val : Nat → Word32) : (setV s n t val).me.id = s.me.id := rfl
@[simp] theorem setV_me_task (s : State) (n : Nat) (t : Tag) (val : Nat → Word32) : (setV s n t val).me.task = s.me.task := rfl
@[simp] theorem setV_me_kind (s : State) (n : Nat) (t : Tag) (val : Nat → Word32) : (setV s n t val).me.kind = s.me.kind := rfl
@[simp] theorem setV_me_slotNo (s : State) (n : Nat) (t : Tag) (val : Nat → Word32) : (setV s n t val).me.slotNo = s.me.slotNo := rfl
@[simp] theorem setV_me_area (s : State) (n : Nat) (t : Tag) (val : Nat → Word32) : (setV s n t val).me.area = s.me.area := rfl
@[simp] theorem setV_me_file (s : State) (n : Nat) (t : Tag) (val : Nat → Word32) : (setV s n t val).me.file = s.me.file := rfl
@[simp] theorem setV_me_box (s : State) (n : Nat) (t : Tag) (val : Nat → Word32) : (setV s n t val).me.box = s.me.box := rfl
@[simp] theorem setV_me_cursor (s : State) (n : Nat) (t : Tag) (val : Nat → Word32) : (setV s n t val).me.cursor = s.me.cursor := rfl
@[simp] theorem setV_me_seams (s : State) (n : Nat) (t : Tag) (val : Nat → Word32) : (setV s n t val).me.seams = s.me.seams := rfl
@[simp] theorem setV_me_holder (s : State) (n : Nat) (t : Tag) (val : Nat → Word32) : (setV s n t val).me.holder = s.me.holder := rfl
@[simp] theorem setV_me_parkedAt (s : State) (n : Nat) (t : Tag) (val : Nat → Word32) : (setV s n t val).me.parkedAt = s.me.parkedAt := rfl
@[simp] theorem setV_me_sealedOnce (s : State) (n : Nat) (t : Tag) (val : Nat → Word32) : (setV s n t val).me.sealedOnce = s.me.sealedOnce := rfl
@[simp] theorem setV_me_paths (s : State) (n : Nat) (t : Tag) (val : Nat → Word32) : (setV s n t val).me.paths = s.me.paths := rfl
@[simp] theorem setV_me_recs (s : State) (n : Nat) (t : Tag) (val : Nat → Word32) : (setV s n t val).me.recs = s.me.recs := rfl
@[simp] theorem setV_me_nextPath (s : State) (n : Nat) (t : Tag) (val : Nat → Word32) : (setV s n t val).me.nextPath = s.me.nextPath := rfl
@[simp] theorem setV_me_nextRec (s : State) (n : Nat) (t : Tag) (val : Nat → Word32) : (setV s n t val).me.nextRec = s.me.nextRec := rfl
@[simp] theorem setV_me_frame (s : State) (n : Nat) (t : Tag) (val : Nat → Word32) : (setV s n t val).me.frame = s.me.frame := rfl
@[simp] theorem setV_me_copyBat (s : State) (n : Nat) (t : Tag) (val : Nat → Word32) : (setV s n t val).me.copyBat = s.me.copyBat := rfl
@[simp] theorem setV_me_matBat (s : State) (n : Nat) (t : Tag) (val : Nat → Word32) : (setV s n t val).me.matBat = s.me.matBat := rfl
@[simp] theorem setV_me_cause (s : State) (n : Nat) (t : Tag) (val : Nat → Word32) : (setV s n t val).me.cause = s.me.cause := rfl
@[simp] theorem setV_me_causeAddr (s : State) (n : Nat) (t : Tag) (val : Nat → Word32) : (setV s n t val).me.causeAddr = s.me.causeAddr := rfl
@[simp] theorem setV_me_causeLane (s : State) (n : Nat) (t : Tag) (val : Nat → Word32) : (setV s n t val).me.causeLane = s.me.causeLane := rfl
@[simp] theorem setV_me_lastTile (s : State) (n : Nat) (t : Tag) (val : Nat → Word32) : (setV s n t val).me.lastTile = s.me.lastTile := rfl
@[simp] theorem setV_me_lastMark (s : State) (n : Nat) (t : Tag) (val : Nat → Word32) : (setV s n t val).me.lastMark = s.me.lastMark := rfl
@[simp] theorem setV_me_callout (s : State) (n : Nat) (t : Tag) (val : Nat → Word32) : (setV s n t val).me.callout = s.me.callout := rfl
@[simp] theorem setV_me_loadAfter (s : State) (n : Nat) (t : Tag) (val : Nat → Word32) : (setV s n t val).me.loadAfter = s.me.loadAfter := rfl
@[simp] theorem setV_me_urgent (s : State) (n : Nat) (t : Tag) (val : Nat → Word32) : (setV s n t val).me.urgent = s.me.urgent := rfl
@[simp] theorem setV_me_test (s : State) (n : Nat) (t : Tag) (val : Nat → Word32) : (setV s n t val).me.test = s.me.test := rfl
@[simp] theorem setV_me_badWrites (s : State) (n : Nat) (t : Tag) (val : Nat → Word32) : (setV s n t val).me.badWrites = s.me.badWrites := rfl
@[simp] theorem setV_me_netError (s : State) (n : Nat) (t : Tag) (val : Nat → Word32) : (setV s n t val).me.netError = s.me.netError := rfl
@[simp] theorem setV_me_regs (s : State) (n : Nat) (t : Tag) (val : Nat → Word32) : (setV s n t val).me.regs = { s.me.regs with v := vset s.me.regs.v n ⟨vmask (vget s.me.regs.v n VReg.fresh).lanes s.me.path.mask val, t⟩, errV := s.me.regs.errV.filter fun e => !(e.1 == n && s.me.path.mask.getLsbD e.2.1) } := rfl
@[simp] theorem setV_me_path (s : State) (n : Nat) (t : Tag) (val : Nat → Word32) : (setV s n t val).me.path = s.me.path := rfl
@[simp] theorem setV_me_horizon (s : State) (n : Nat) (t : Tag) (val : Nat → Word32) : (setV s n t val).me.horizon = s.me.horizon := rfl
@[simp] theorem setV_me_calloutH (s : State) (n : Nat) (t : Tag) (val : Nat → Word32) : (setV s n t val).me.calloutH = s.me.calloutH := rfl

/-! ## setP -/

@[simp] theorem setP_power (s : State) (n : Nat) (val : Word64) : (setP s n val).power = s.power := rfl
@[simp] theorem setP_time (s : State) (n : Nat) (val : Word64) : (setP s n val).time = s.time := rfl
@[simp] theorem setP_skew (s : State) (n : Nat) (val : Word64) : (setP s n val).skew = s.skew := rfl
@[simp] theorem setP_pace (s : State) (n : Nat) (val : Word64) : (setP s n val).pace = s.pace := rfl
@[simp] theorem setP_agenda (s : State) (n : Nat) (val : Word64) : (setP s n val).agenda = s.agenda := rfl
@[simp] theorem setP_freeCtr (s : State) (n : Nat) (val : Word64) : (setP s n val).freeCtr = s.freeCtr := rfl
@[simp] theorem setP_cut (s : State) (n : Nat) (val : Word64) : (setP s n val).cut = s.cut := rfl
@[simp] theorem setP_ctxs (s : State) (n : Nat) (val : Word64) : (setP s n val).ctxs = s.ctxs := rfl
@[simp] theorem setP_nextCtx (s : State) (n : Nat) (val : Word64) : (setP s n val).nextCtx = s.nextCtx := rfl
@[simp] theorem setP_task (s : State) (n : Nat) (val : Word64) : (setP s n val).task = s.task := rfl
@[simp] theorem setP_tasks (s : State) (n : Nat) (val : Word64) : (setP s n val).tasks = s.tasks := rfl
@[simp] theorem setP_nextOp (s : State) (n : Nat) (val : Word64) : (setP s n val).nextOp = s.nextOp := rfl
@[simp] theorem setP_core (s : State) (n : Nat) (val : Word64) : (setP s n val).core = s.core := rfl
@[simp] theorem setP_cores (s : State) (n : Nat) (val : Word64) : (setP s n val).cores = s.cores := rfl
@[simp] theorem setP_mem (s : State) (n : Nat) (val : Word64) : (setP s n val).mem = s.mem := rfl
@[simp] theorem setP_backing (s : State) (n : Nat) (val : Word64) : (setP s n val).backing = s.backing := rfl
@[simp] theorem setP_lines (s : State) (n : Nat) (val : Word64) : (setP s n val).lines = s.lines := rfl
@[simp] theorem setP_evictH (s : State) (n : Nat) (val : Word64) : (setP s n val).evictH = s.evictH := rfl
@[simp] theorem setP_msc (s : State) (n : Nat) (val : Word64) : (setP s n val).msc = s.msc := rfl
@[simp] theorem setP_flight (s : State) (n : Nat) (val : Word64) : (setP s n val).flight = s.flight := rfl
@[simp] theorem setP_transit (s : State) (n : Nat) (val : Word64) : (setP s n val).transit = s.transit := rfl
@[simp] theorem setP_remote (s : State) (n : Nat) (val : Word64) : (setP s n val).remote = s.remote := rfl
@[simp] theorem setP_l2tlb (s : State) (n : Nat) (val : Word64) : (setP s n val).l2tlb = s.l2tlb := rfl
@[simp] theorem setP_pwc (s : State) (n : Nat) (val : Word64) : (setP s n val).pwc = s.pwc := rfl
@[simp] theorem setP_dev (s : State) (n : Nat) (val : Word64) : (setP s n val).dev = s.dev := rfl
@[simp] theorem setP_me_id (s : State) (n : Nat) (val : Word64) : (setP s n val).me.id = s.me.id := rfl
@[simp] theorem setP_me_task (s : State) (n : Nat) (val : Word64) : (setP s n val).me.task = s.me.task := rfl
@[simp] theorem setP_me_kind (s : State) (n : Nat) (val : Word64) : (setP s n val).me.kind = s.me.kind := rfl
@[simp] theorem setP_me_slotNo (s : State) (n : Nat) (val : Word64) : (setP s n val).me.slotNo = s.me.slotNo := rfl
@[simp] theorem setP_me_area (s : State) (n : Nat) (val : Word64) : (setP s n val).me.area = s.me.area := rfl
@[simp] theorem setP_me_file (s : State) (n : Nat) (val : Word64) : (setP s n val).me.file = s.me.file := rfl
@[simp] theorem setP_me_box (s : State) (n : Nat) (val : Word64) : (setP s n val).me.box = s.me.box := rfl
@[simp] theorem setP_me_cursor (s : State) (n : Nat) (val : Word64) : (setP s n val).me.cursor = s.me.cursor := rfl
@[simp] theorem setP_me_seams (s : State) (n : Nat) (val : Word64) : (setP s n val).me.seams = s.me.seams := rfl
@[simp] theorem setP_me_holder (s : State) (n : Nat) (val : Word64) : (setP s n val).me.holder = s.me.holder := rfl
@[simp] theorem setP_me_parkedAt (s : State) (n : Nat) (val : Word64) : (setP s n val).me.parkedAt = s.me.parkedAt := rfl
@[simp] theorem setP_me_sealedOnce (s : State) (n : Nat) (val : Word64) : (setP s n val).me.sealedOnce = s.me.sealedOnce := rfl
@[simp] theorem setP_me_paths (s : State) (n : Nat) (val : Word64) : (setP s n val).me.paths = s.me.paths := rfl
@[simp] theorem setP_me_recs (s : State) (n : Nat) (val : Word64) : (setP s n val).me.recs = s.me.recs := rfl
@[simp] theorem setP_me_nextPath (s : State) (n : Nat) (val : Word64) : (setP s n val).me.nextPath = s.me.nextPath := rfl
@[simp] theorem setP_me_nextRec (s : State) (n : Nat) (val : Word64) : (setP s n val).me.nextRec = s.me.nextRec := rfl
@[simp] theorem setP_me_frame (s : State) (n : Nat) (val : Word64) : (setP s n val).me.frame = s.me.frame := rfl
@[simp] theorem setP_me_copyBat (s : State) (n : Nat) (val : Word64) : (setP s n val).me.copyBat = s.me.copyBat := rfl
@[simp] theorem setP_me_matBat (s : State) (n : Nat) (val : Word64) : (setP s n val).me.matBat = s.me.matBat := rfl
@[simp] theorem setP_me_cause (s : State) (n : Nat) (val : Word64) : (setP s n val).me.cause = s.me.cause := rfl
@[simp] theorem setP_me_causeAddr (s : State) (n : Nat) (val : Word64) : (setP s n val).me.causeAddr = s.me.causeAddr := rfl
@[simp] theorem setP_me_causeLane (s : State) (n : Nat) (val : Word64) : (setP s n val).me.causeLane = s.me.causeLane := rfl
@[simp] theorem setP_me_lastTile (s : State) (n : Nat) (val : Word64) : (setP s n val).me.lastTile = s.me.lastTile := rfl
@[simp] theorem setP_me_lastMark (s : State) (n : Nat) (val : Word64) : (setP s n val).me.lastMark = s.me.lastMark := rfl
@[simp] theorem setP_me_callout (s : State) (n : Nat) (val : Word64) : (setP s n val).me.callout = s.me.callout := rfl
@[simp] theorem setP_me_loadAfter (s : State) (n : Nat) (val : Word64) : (setP s n val).me.loadAfter = s.me.loadAfter := rfl
@[simp] theorem setP_me_urgent (s : State) (n : Nat) (val : Word64) : (setP s n val).me.urgent = s.me.urgent := rfl
@[simp] theorem setP_me_test (s : State) (n : Nat) (val : Word64) : (setP s n val).me.test = s.me.test := rfl
@[simp] theorem setP_me_badWrites (s : State) (n : Nat) (val : Word64) : (setP s n val).me.badWrites = s.me.badWrites := rfl
@[simp] theorem setP_me_netError (s : State) (n : Nat) (val : Word64) : (setP s n val).me.netError = s.me.netError := rfl
@[simp] theorem setP_me_regs (s : State) (n : Nat) (val : Word64) : (setP s n val).me.regs = { s.me.regs with p := vset s.me.regs.p n ((vget s.me.regs.p n 0 &&& ~~~s.me.path.mask) ||| (val &&& s.me.path.mask)), errP := s.me.regs.errP.filter fun k => k != n } := rfl
@[simp] theorem setP_me_path (s : State) (n : Nat) (val : Word64) : (setP s n val).me.path = s.me.path := rfl
@[simp] theorem setP_me_horizon (s : State) (n : Nat) (val : Word64) : (setP s n val).me.horizon = s.me.horizon := rfl
@[simp] theorem setP_me_calloutH (s : State) (n : Nat) (val : Word64) : (setP s n val).me.calloutH = s.me.calloutH := rfl

/-! ## setMode -/

@[simp] theorem setMode_power (s : State) (m : Word64) : (setMode s m).power = s.power := rfl
@[simp] theorem setMode_time (s : State) (m : Word64) : (setMode s m).time = s.time := rfl
@[simp] theorem setMode_skew (s : State) (m : Word64) : (setMode s m).skew = s.skew := rfl
@[simp] theorem setMode_pace (s : State) (m : Word64) : (setMode s m).pace = s.pace := rfl
@[simp] theorem setMode_agenda (s : State) (m : Word64) : (setMode s m).agenda = s.agenda := rfl
@[simp] theorem setMode_freeCtr (s : State) (m : Word64) : (setMode s m).freeCtr = s.freeCtr := rfl
@[simp] theorem setMode_cut (s : State) (m : Word64) : (setMode s m).cut = s.cut := rfl
@[simp] theorem setMode_ctxs (s : State) (m : Word64) : (setMode s m).ctxs = s.ctxs := rfl
@[simp] theorem setMode_nextCtx (s : State) (m : Word64) : (setMode s m).nextCtx = s.nextCtx := rfl
@[simp] theorem setMode_task (s : State) (m : Word64) : (setMode s m).task = s.task := rfl
@[simp] theorem setMode_tasks (s : State) (m : Word64) : (setMode s m).tasks = s.tasks := rfl
@[simp] theorem setMode_nextOp (s : State) (m : Word64) : (setMode s m).nextOp = s.nextOp := rfl
@[simp] theorem setMode_core (s : State) (m : Word64) : (setMode s m).core = s.core := rfl
@[simp] theorem setMode_cores (s : State) (m : Word64) : (setMode s m).cores = s.cores := rfl
@[simp] theorem setMode_mem (s : State) (m : Word64) : (setMode s m).mem = s.mem := rfl
@[simp] theorem setMode_backing (s : State) (m : Word64) : (setMode s m).backing = s.backing := rfl
@[simp] theorem setMode_lines (s : State) (m : Word64) : (setMode s m).lines = s.lines := rfl
@[simp] theorem setMode_evictH (s : State) (m : Word64) : (setMode s m).evictH = s.evictH := rfl
@[simp] theorem setMode_msc (s : State) (m : Word64) : (setMode s m).msc = s.msc := rfl
@[simp] theorem setMode_flight (s : State) (m : Word64) : (setMode s m).flight = s.flight := rfl
@[simp] theorem setMode_transit (s : State) (m : Word64) : (setMode s m).transit = s.transit := rfl
@[simp] theorem setMode_remote (s : State) (m : Word64) : (setMode s m).remote = s.remote := rfl
@[simp] theorem setMode_l2tlb (s : State) (m : Word64) : (setMode s m).l2tlb = s.l2tlb := rfl
@[simp] theorem setMode_pwc (s : State) (m : Word64) : (setMode s m).pwc = s.pwc := rfl
@[simp] theorem setMode_dev (s : State) (m : Word64) : (setMode s m).dev = s.dev := rfl
@[simp] theorem setMode_me_id (s : State) (m : Word64) : (setMode s m).me.id = s.me.id := rfl
@[simp] theorem setMode_me_task (s : State) (m : Word64) : (setMode s m).me.task = s.me.task := rfl
@[simp] theorem setMode_me_kind (s : State) (m : Word64) : (setMode s m).me.kind = s.me.kind := rfl
@[simp] theorem setMode_me_slotNo (s : State) (m : Word64) : (setMode s m).me.slotNo = s.me.slotNo := rfl
@[simp] theorem setMode_me_area (s : State) (m : Word64) : (setMode s m).me.area = s.me.area := rfl
@[simp] theorem setMode_me_file (s : State) (m : Word64) : (setMode s m).me.file = s.me.file := rfl
@[simp] theorem setMode_me_box (s : State) (m : Word64) : (setMode s m).me.box = s.me.box := rfl
@[simp] theorem setMode_me_cursor (s : State) (m : Word64) : (setMode s m).me.cursor = s.me.cursor := rfl
@[simp] theorem setMode_me_seams (s : State) (m : Word64) : (setMode s m).me.seams = s.me.seams := rfl
@[simp] theorem setMode_me_holder (s : State) (m : Word64) : (setMode s m).me.holder = s.me.holder := rfl
@[simp] theorem setMode_me_parkedAt (s : State) (m : Word64) : (setMode s m).me.parkedAt = s.me.parkedAt := rfl
@[simp] theorem setMode_me_sealedOnce (s : State) (m : Word64) : (setMode s m).me.sealedOnce = s.me.sealedOnce := rfl
@[simp] theorem setMode_me_paths (s : State) (m : Word64) : (setMode s m).me.paths = s.me.paths := rfl
@[simp] theorem setMode_me_recs (s : State) (m : Word64) : (setMode s m).me.recs = s.me.recs := rfl
@[simp] theorem setMode_me_nextPath (s : State) (m : Word64) : (setMode s m).me.nextPath = s.me.nextPath := rfl
@[simp] theorem setMode_me_nextRec (s : State) (m : Word64) : (setMode s m).me.nextRec = s.me.nextRec := rfl
@[simp] theorem setMode_me_frame (s : State) (m : Word64) : (setMode s m).me.frame = s.me.frame := rfl
@[simp] theorem setMode_me_copyBat (s : State) (m : Word64) : (setMode s m).me.copyBat = s.me.copyBat := rfl
@[simp] theorem setMode_me_matBat (s : State) (m : Word64) : (setMode s m).me.matBat = s.me.matBat := rfl
@[simp] theorem setMode_me_cause (s : State) (m : Word64) : (setMode s m).me.cause = s.me.cause := rfl
@[simp] theorem setMode_me_causeAddr (s : State) (m : Word64) : (setMode s m).me.causeAddr = s.me.causeAddr := rfl
@[simp] theorem setMode_me_causeLane (s : State) (m : Word64) : (setMode s m).me.causeLane = s.me.causeLane := rfl
@[simp] theorem setMode_me_lastTile (s : State) (m : Word64) : (setMode s m).me.lastTile = s.me.lastTile := rfl
@[simp] theorem setMode_me_lastMark (s : State) (m : Word64) : (setMode s m).me.lastMark = s.me.lastMark := rfl
@[simp] theorem setMode_me_callout (s : State) (m : Word64) : (setMode s m).me.callout = s.me.callout := rfl
@[simp] theorem setMode_me_loadAfter (s : State) (m : Word64) : (setMode s m).me.loadAfter = s.me.loadAfter := rfl
@[simp] theorem setMode_me_urgent (s : State) (m : Word64) : (setMode s m).me.urgent = s.me.urgent := rfl
@[simp] theorem setMode_me_test (s : State) (m : Word64) : (setMode s m).me.test = s.me.test := rfl
@[simp] theorem setMode_me_badWrites (s : State) (m : Word64) : (setMode s m).me.badWrites = s.me.badWrites := rfl
@[simp] theorem setMode_me_netError (s : State) (m : Word64) : (setMode s m).me.netError = s.me.netError := rfl
@[simp] theorem setMode_me_regs (s : State) (m : Word64) : (setMode s m).me.regs = { s.me.regs with mode := m } := rfl
@[simp] theorem setMode_me_path (s : State) (m : Word64) : (setMode s m).me.path = s.me.path := rfl
@[simp] theorem setMode_me_horizon (s : State) (m : Word64) : (setMode s m).me.horizon = s.me.horizon := rfl
@[simp] theorem setMode_me_calloutH (s : State) (m : Word64) : (setMode s m).me.calloutH = s.me.calloutH := rfl

/-! ## raiseHorizon -/

@[simp] theorem raiseHorizon_power (s : State) (w : Nat) : (raiseHorizon s w).power = s.power := rfl
@[simp] theorem raiseHorizon_time (s : State) (w : Nat) : (raiseHorizon s w).time = s.time := rfl
@[simp] theorem raiseHorizon_skew (s : State) (w : Nat) : (raiseHorizon s w).skew = s.skew := rfl
@[simp] theorem raiseHorizon_pace (s : State) (w : Nat) : (raiseHorizon s w).pace = s.pace := rfl
@[simp] theorem raiseHorizon_agenda (s : State) (w : Nat) : (raiseHorizon s w).agenda = s.agenda := rfl
@[simp] theorem raiseHorizon_freeCtr (s : State) (w : Nat) : (raiseHorizon s w).freeCtr = s.freeCtr := rfl
@[simp] theorem raiseHorizon_cut (s : State) (w : Nat) : (raiseHorizon s w).cut = s.cut := rfl
@[simp] theorem raiseHorizon_ctxs (s : State) (w : Nat) : (raiseHorizon s w).ctxs = s.ctxs := rfl
@[simp] theorem raiseHorizon_nextCtx (s : State) (w : Nat) : (raiseHorizon s w).nextCtx = s.nextCtx := rfl
@[simp] theorem raiseHorizon_task (s : State) (w : Nat) : (raiseHorizon s w).task = { s.task with horizon := later s.task.horizon w } := rfl
@[simp] theorem raiseHorizon_tasks (s : State) (w : Nat) : (raiseHorizon s w).tasks = s.tasks := rfl
@[simp] theorem raiseHorizon_nextOp (s : State) (w : Nat) : (raiseHorizon s w).nextOp = s.nextOp := rfl
@[simp] theorem raiseHorizon_core (s : State) (w : Nat) : (raiseHorizon s w).core = s.core := rfl
@[simp] theorem raiseHorizon_cores (s : State) (w : Nat) : (raiseHorizon s w).cores = s.cores := rfl
@[simp] theorem raiseHorizon_mem (s : State) (w : Nat) : (raiseHorizon s w).mem = s.mem := rfl
@[simp] theorem raiseHorizon_backing (s : State) (w : Nat) : (raiseHorizon s w).backing = s.backing := rfl
@[simp] theorem raiseHorizon_lines (s : State) (w : Nat) : (raiseHorizon s w).lines = s.lines := rfl
@[simp] theorem raiseHorizon_evictH (s : State) (w : Nat) : (raiseHorizon s w).evictH = s.evictH := rfl
@[simp] theorem raiseHorizon_msc (s : State) (w : Nat) : (raiseHorizon s w).msc = s.msc := rfl
@[simp] theorem raiseHorizon_flight (s : State) (w : Nat) : (raiseHorizon s w).flight = s.flight := rfl
@[simp] theorem raiseHorizon_transit (s : State) (w : Nat) : (raiseHorizon s w).transit = s.transit := rfl
@[simp] theorem raiseHorizon_remote (s : State) (w : Nat) : (raiseHorizon s w).remote = s.remote := rfl
@[simp] theorem raiseHorizon_l2tlb (s : State) (w : Nat) : (raiseHorizon s w).l2tlb = s.l2tlb := rfl
@[simp] theorem raiseHorizon_pwc (s : State) (w : Nat) : (raiseHorizon s w).pwc = s.pwc := rfl
@[simp] theorem raiseHorizon_dev (s : State) (w : Nat) : (raiseHorizon s w).dev = s.dev := rfl
@[simp] theorem raiseHorizon_me_id (s : State) (w : Nat) : (raiseHorizon s w).me.id = s.me.id := rfl
@[simp] theorem raiseHorizon_me_task (s : State) (w : Nat) : (raiseHorizon s w).me.task = s.me.task := rfl
@[simp] theorem raiseHorizon_me_kind (s : State) (w : Nat) : (raiseHorizon s w).me.kind = s.me.kind := rfl
@[simp] theorem raiseHorizon_me_slotNo (s : State) (w : Nat) : (raiseHorizon s w).me.slotNo = s.me.slotNo := rfl
@[simp] theorem raiseHorizon_me_area (s : State) (w : Nat) : (raiseHorizon s w).me.area = s.me.area := rfl
@[simp] theorem raiseHorizon_me_file (s : State) (w : Nat) : (raiseHorizon s w).me.file = s.me.file := rfl
@[simp] theorem raiseHorizon_me_box (s : State) (w : Nat) : (raiseHorizon s w).me.box = s.me.box := rfl
@[simp] theorem raiseHorizon_me_cursor (s : State) (w : Nat) : (raiseHorizon s w).me.cursor = s.me.cursor := rfl
@[simp] theorem raiseHorizon_me_seams (s : State) (w : Nat) : (raiseHorizon s w).me.seams = s.me.seams := rfl
@[simp] theorem raiseHorizon_me_holder (s : State) (w : Nat) : (raiseHorizon s w).me.holder = s.me.holder := rfl
@[simp] theorem raiseHorizon_me_parkedAt (s : State) (w : Nat) : (raiseHorizon s w).me.parkedAt = s.me.parkedAt := rfl
@[simp] theorem raiseHorizon_me_sealedOnce (s : State) (w : Nat) : (raiseHorizon s w).me.sealedOnce = s.me.sealedOnce := rfl
@[simp] theorem raiseHorizon_me_paths (s : State) (w : Nat) : (raiseHorizon s w).me.paths = s.me.paths := rfl
@[simp] theorem raiseHorizon_me_recs (s : State) (w : Nat) : (raiseHorizon s w).me.recs = s.me.recs := rfl
@[simp] theorem raiseHorizon_me_nextPath (s : State) (w : Nat) : (raiseHorizon s w).me.nextPath = s.me.nextPath := rfl
@[simp] theorem raiseHorizon_me_nextRec (s : State) (w : Nat) : (raiseHorizon s w).me.nextRec = s.me.nextRec := rfl
@[simp] theorem raiseHorizon_me_frame (s : State) (w : Nat) : (raiseHorizon s w).me.frame = s.me.frame := rfl
@[simp] theorem raiseHorizon_me_copyBat (s : State) (w : Nat) : (raiseHorizon s w).me.copyBat = s.me.copyBat := rfl
@[simp] theorem raiseHorizon_me_matBat (s : State) (w : Nat) : (raiseHorizon s w).me.matBat = s.me.matBat := rfl
@[simp] theorem raiseHorizon_me_cause (s : State) (w : Nat) : (raiseHorizon s w).me.cause = s.me.cause := rfl
@[simp] theorem raiseHorizon_me_causeAddr (s : State) (w : Nat) : (raiseHorizon s w).me.causeAddr = s.me.causeAddr := rfl
@[simp] theorem raiseHorizon_me_causeLane (s : State) (w : Nat) : (raiseHorizon s w).me.causeLane = s.me.causeLane := rfl
@[simp] theorem raiseHorizon_me_lastTile (s : State) (w : Nat) : (raiseHorizon s w).me.lastTile = s.me.lastTile := rfl
@[simp] theorem raiseHorizon_me_lastMark (s : State) (w : Nat) : (raiseHorizon s w).me.lastMark = s.me.lastMark := rfl
@[simp] theorem raiseHorizon_me_callout (s : State) (w : Nat) : (raiseHorizon s w).me.callout = s.me.callout := rfl
@[simp] theorem raiseHorizon_me_loadAfter (s : State) (w : Nat) : (raiseHorizon s w).me.loadAfter = s.me.loadAfter := rfl
@[simp] theorem raiseHorizon_me_urgent (s : State) (w : Nat) : (raiseHorizon s w).me.urgent = s.me.urgent := rfl
@[simp] theorem raiseHorizon_me_test (s : State) (w : Nat) : (raiseHorizon s w).me.test = s.me.test := rfl
@[simp] theorem raiseHorizon_me_badWrites (s : State) (w : Nat) : (raiseHorizon s w).me.badWrites = s.me.badWrites := rfl
@[simp] theorem raiseHorizon_me_netError (s : State) (w : Nat) : (raiseHorizon s w).me.netError = s.me.netError := rfl
@[simp] theorem raiseHorizon_me_regs (s : State) (w : Nat) : (raiseHorizon s w).me.regs = s.me.regs := rfl
@[simp] theorem raiseHorizon_me_path (s : State) (w : Nat) : (raiseHorizon s w).me.path = s.me.path := rfl
@[simp] theorem raiseHorizon_me_horizon (s : State) (w : Nat) : (raiseHorizon s w).me.horizon = later s.me.horizon w := rfl
@[simp] theorem raiseHorizon_me_calloutH (s : State) (w : Nat) : (raiseHorizon s w).me.calloutH = s.me.calloutH := rfl

/-! ## expose -/

@[simp] theorem expose_power (s : State) : (expose s).power = s.power := rfl
@[simp] theorem expose_time (s : State) : (expose s).time = s.time := rfl
@[simp] theorem expose_skew (s : State) : (expose s).skew = s.skew := rfl
@[simp] theorem expose_pace (s : State) : (expose s).pace = s.pace := rfl
@[simp] theorem expose_agenda (s : State) : (expose s).agenda = s.agenda := rfl
@[simp] theorem expose_freeCtr (s : State) : (expose s).freeCtr = s.freeCtr := rfl
@[simp] theorem expose_cut (s : State) : (expose s).cut = s.cut := rfl
@[simp] theorem expose_ctxs (s : State) : (expose s).ctxs = s.ctxs := rfl
@[simp] theorem expose_nextCtx (s : State) : (expose s).nextCtx = s.nextCtx := rfl
@[simp] theorem expose_task (s : State) : (expose s).task = { s.task with exposed := true } := rfl
@[simp] theorem expose_tasks (s : State) : (expose s).tasks = s.tasks := rfl
@[simp] theorem expose_nextOp (s : State) : (expose s).nextOp = s.nextOp := rfl
@[simp] theorem expose_core (s : State) : (expose s).core = s.core := rfl
@[simp] theorem expose_cores (s : State) : (expose s).cores = s.cores := rfl
@[simp] theorem expose_mem (s : State) : (expose s).mem = s.mem := rfl
@[simp] theorem expose_backing (s : State) : (expose s).backing = s.backing := rfl
@[simp] theorem expose_lines (s : State) : (expose s).lines = s.lines := rfl
@[simp] theorem expose_evictH (s : State) : (expose s).evictH = s.evictH := rfl
@[simp] theorem expose_msc (s : State) : (expose s).msc = s.msc := rfl
@[simp] theorem expose_flight (s : State) : (expose s).flight = s.flight := rfl
@[simp] theorem expose_transit (s : State) : (expose s).transit = s.transit := rfl
@[simp] theorem expose_remote (s : State) : (expose s).remote = s.remote := rfl
@[simp] theorem expose_l2tlb (s : State) : (expose s).l2tlb = s.l2tlb := rfl
@[simp] theorem expose_pwc (s : State) : (expose s).pwc = s.pwc := rfl
@[simp] theorem expose_dev (s : State) : (expose s).dev = s.dev := rfl
@[simp] theorem expose_me_id (s : State) : (expose s).me.id = s.me.id := rfl
@[simp] theorem expose_me_task (s : State) : (expose s).me.task = s.me.task := rfl
@[simp] theorem expose_me_kind (s : State) : (expose s).me.kind = s.me.kind := rfl
@[simp] theorem expose_me_slotNo (s : State) : (expose s).me.slotNo = s.me.slotNo := rfl
@[simp] theorem expose_me_area (s : State) : (expose s).me.area = s.me.area := rfl
@[simp] theorem expose_me_file (s : State) : (expose s).me.file = s.me.file := rfl
@[simp] theorem expose_me_box (s : State) : (expose s).me.box = s.me.box := rfl
@[simp] theorem expose_me_cursor (s : State) : (expose s).me.cursor = s.me.cursor := rfl
@[simp] theorem expose_me_seams (s : State) : (expose s).me.seams = s.me.seams := rfl
@[simp] theorem expose_me_holder (s : State) : (expose s).me.holder = s.me.holder := rfl
@[simp] theorem expose_me_parkedAt (s : State) : (expose s).me.parkedAt = s.me.parkedAt := rfl
@[simp] theorem expose_me_sealedOnce (s : State) : (expose s).me.sealedOnce = s.me.sealedOnce := rfl
@[simp] theorem expose_me_paths (s : State) : (expose s).me.paths = s.me.paths := rfl
@[simp] theorem expose_me_recs (s : State) : (expose s).me.recs = s.me.recs := rfl
@[simp] theorem expose_me_nextPath (s : State) : (expose s).me.nextPath = s.me.nextPath := rfl
@[simp] theorem expose_me_nextRec (s : State) : (expose s).me.nextRec = s.me.nextRec := rfl
@[simp] theorem expose_me_frame (s : State) : (expose s).me.frame = s.me.frame := rfl
@[simp] theorem expose_me_copyBat (s : State) : (expose s).me.copyBat = s.me.copyBat := rfl
@[simp] theorem expose_me_matBat (s : State) : (expose s).me.matBat = s.me.matBat := rfl
@[simp] theorem expose_me_cause (s : State) : (expose s).me.cause = s.me.cause := rfl
@[simp] theorem expose_me_causeAddr (s : State) : (expose s).me.causeAddr = s.me.causeAddr := rfl
@[simp] theorem expose_me_causeLane (s : State) : (expose s).me.causeLane = s.me.causeLane := rfl
@[simp] theorem expose_me_lastTile (s : State) : (expose s).me.lastTile = s.me.lastTile := rfl
@[simp] theorem expose_me_lastMark (s : State) : (expose s).me.lastMark = s.me.lastMark := rfl
@[simp] theorem expose_me_callout (s : State) : (expose s).me.callout = s.me.callout := rfl
@[simp] theorem expose_me_loadAfter (s : State) : (expose s).me.loadAfter = s.me.loadAfter := rfl
@[simp] theorem expose_me_urgent (s : State) : (expose s).me.urgent = s.me.urgent := rfl
@[simp] theorem expose_me_test (s : State) : (expose s).me.test = s.me.test := rfl
@[simp] theorem expose_me_badWrites (s : State) : (expose s).me.badWrites = s.me.badWrites := rfl
@[simp] theorem expose_me_netError (s : State) : (expose s).me.netError = s.me.netError := rfl
@[simp] theorem expose_me_regs (s : State) : (expose s).me.regs = s.me.regs := rfl
@[simp] theorem expose_me_path (s : State) : (expose s).me.path = s.me.path := rfl
@[simp] theorem expose_me_horizon (s : State) : (expose s).me.horizon = s.me.horizon := rfl
@[simp] theorem expose_me_calloutH (s : State) : (expose s).me.calloutH = s.me.calloutH := rfl

/-! ## goTo -/

@[simp] theorem goTo_power (s : State) (target : BitVec 32) : (goTo s target).power = s.power := rfl
@[simp] theorem goTo_time (s : State) (target : BitVec 32) : (goTo s target).time = s.time := rfl
@[simp] theorem goTo_skew (s : State) (target : BitVec 32) : (goTo s target).skew = s.skew := rfl
@[simp] theorem goTo_pace (s : State) (target : BitVec 32) : (goTo s target).pace = s.pace := rfl
@[simp] theorem goTo_agenda (s : State) (target : BitVec 32) : (goTo s target).agenda = s.agenda := rfl
@[simp] theorem goTo_freeCtr (s : State) (target : BitVec 32) : (goTo s target).freeCtr = s.freeCtr := rfl
@[simp] theorem goTo_cut (s : State) (target : BitVec 32) : (goTo s target).cut = s.cut := rfl
@[simp] theorem goTo_ctxs (s : State) (target : BitVec 32) : (goTo s target).ctxs = s.ctxs := rfl
@[simp] theorem goTo_nextCtx (s : State) (target : BitVec 32) : (goTo s target).nextCtx = s.nextCtx := rfl
@[simp] theorem goTo_task (s : State) (target : BitVec 32) : (goTo s target).task = s.task := rfl
@[simp] theorem goTo_tasks (s : State) (target : BitVec 32) : (goTo s target).tasks = s.tasks := rfl
@[simp] theorem goTo_nextOp (s : State) (target : BitVec 32) : (goTo s target).nextOp = s.nextOp := rfl
@[simp] theorem goTo_core (s : State) (target : BitVec 32) : (goTo s target).core = s.core := rfl
@[simp] theorem goTo_cores (s : State) (target : BitVec 32) : (goTo s target).cores = s.cores := rfl
@[simp] theorem goTo_mem (s : State) (target : BitVec 32) : (goTo s target).mem = s.mem := rfl
@[simp] theorem goTo_backing (s : State) (target : BitVec 32) : (goTo s target).backing = s.backing := rfl
@[simp] theorem goTo_lines (s : State) (target : BitVec 32) : (goTo s target).lines = s.lines := rfl
@[simp] theorem goTo_evictH (s : State) (target : BitVec 32) : (goTo s target).evictH = s.evictH := rfl
@[simp] theorem goTo_msc (s : State) (target : BitVec 32) : (goTo s target).msc = s.msc := rfl
@[simp] theorem goTo_flight (s : State) (target : BitVec 32) : (goTo s target).flight = s.flight := rfl
@[simp] theorem goTo_transit (s : State) (target : BitVec 32) : (goTo s target).transit = s.transit := rfl
@[simp] theorem goTo_remote (s : State) (target : BitVec 32) : (goTo s target).remote = s.remote := rfl
@[simp] theorem goTo_l2tlb (s : State) (target : BitVec 32) : (goTo s target).l2tlb = s.l2tlb := rfl
@[simp] theorem goTo_pwc (s : State) (target : BitVec 32) : (goTo s target).pwc = s.pwc := rfl
@[simp] theorem goTo_dev (s : State) (target : BitVec 32) : (goTo s target).dev = s.dev := rfl
@[simp] theorem goTo_me_id (s : State) (target : BitVec 32) : (goTo s target).me.id = s.me.id := rfl
@[simp] theorem goTo_me_task (s : State) (target : BitVec 32) : (goTo s target).me.task = s.me.task := rfl
@[simp] theorem goTo_me_kind (s : State) (target : BitVec 32) : (goTo s target).me.kind = s.me.kind := rfl
@[simp] theorem goTo_me_slotNo (s : State) (target : BitVec 32) : (goTo s target).me.slotNo = s.me.slotNo := rfl
@[simp] theorem goTo_me_area (s : State) (target : BitVec 32) : (goTo s target).me.area = s.me.area := rfl
@[simp] theorem goTo_me_file (s : State) (target : BitVec 32) : (goTo s target).me.file = s.me.file := rfl
@[simp] theorem goTo_me_box (s : State) (target : BitVec 32) : (goTo s target).me.box = s.me.box := rfl
@[simp] theorem goTo_me_cursor (s : State) (target : BitVec 32) : (goTo s target).me.cursor = s.me.cursor := rfl
@[simp] theorem goTo_me_seams (s : State) (target : BitVec 32) : (goTo s target).me.seams = s.me.seams := rfl
@[simp] theorem goTo_me_holder (s : State) (target : BitVec 32) : (goTo s target).me.holder = s.me.holder := rfl
@[simp] theorem goTo_me_parkedAt (s : State) (target : BitVec 32) : (goTo s target).me.parkedAt = s.me.parkedAt := rfl
@[simp] theorem goTo_me_sealedOnce (s : State) (target : BitVec 32) : (goTo s target).me.sealedOnce = s.me.sealedOnce := rfl
@[simp] theorem goTo_me_paths (s : State) (target : BitVec 32) : (goTo s target).me.paths = s.me.paths := rfl
@[simp] theorem goTo_me_recs (s : State) (target : BitVec 32) : (goTo s target).me.recs = s.me.recs := rfl
@[simp] theorem goTo_me_nextPath (s : State) (target : BitVec 32) : (goTo s target).me.nextPath = s.me.nextPath := rfl
@[simp] theorem goTo_me_nextRec (s : State) (target : BitVec 32) : (goTo s target).me.nextRec = s.me.nextRec := rfl
@[simp] theorem goTo_me_frame (s : State) (target : BitVec 32) : (goTo s target).me.frame = s.me.frame := rfl
@[simp] theorem goTo_me_copyBat (s : State) (target : BitVec 32) : (goTo s target).me.copyBat = s.me.copyBat := rfl
@[simp] theorem goTo_me_matBat (s : State) (target : BitVec 32) : (goTo s target).me.matBat = s.me.matBat := rfl
@[simp] theorem goTo_me_cause (s : State) (target : BitVec 32) : (goTo s target).me.cause = s.me.cause := rfl
@[simp] theorem goTo_me_causeAddr (s : State) (target : BitVec 32) : (goTo s target).me.causeAddr = s.me.causeAddr := rfl
@[simp] theorem goTo_me_causeLane (s : State) (target : BitVec 32) : (goTo s target).me.causeLane = s.me.causeLane := rfl
@[simp] theorem goTo_me_lastTile (s : State) (target : BitVec 32) : (goTo s target).me.lastTile = s.me.lastTile := rfl
@[simp] theorem goTo_me_lastMark (s : State) (target : BitVec 32) : (goTo s target).me.lastMark = s.me.lastMark := rfl
@[simp] theorem goTo_me_callout (s : State) (target : BitVec 32) : (goTo s target).me.callout = s.me.callout := rfl
@[simp] theorem goTo_me_loadAfter (s : State) (target : BitVec 32) : (goTo s target).me.loadAfter = s.me.loadAfter := rfl
@[simp] theorem goTo_me_urgent (s : State) (target : BitVec 32) : (goTo s target).me.urgent = s.me.urgent := rfl
@[simp] theorem goTo_me_test (s : State) (target : BitVec 32) : (goTo s target).me.test = s.me.test := rfl
@[simp] theorem goTo_me_badWrites (s : State) (target : BitVec 32) : (goTo s target).me.badWrites = s.me.badWrites := rfl
@[simp] theorem goTo_me_netError (s : State) (target : BitVec 32) : (goTo s target).me.netError = s.me.netError := rfl
@[simp] theorem goTo_me_regs (s : State) (target : BitVec 32) : (goTo s target).me.regs = s.me.regs := rfl
@[simp] theorem goTo_me_path (s : State) (target : BitVec 32) : (goTo s target).me.path = { s.me.path with pc := target, slot := 0 } := rfl
@[simp] theorem goTo_me_horizon (s : State) (target : BitVec 32) : (goTo s target).me.horizon = s.me.horizon := rfl
@[simp] theorem goTo_me_calloutH (s : State) (target : BitVec 32) : (goTo s target).me.calloutH = s.me.calloutH := rfl

/-! ## setCause -/

theorem causeSet_id (c : Context) (x y z : Word64) :
    ({ c with cause := x, causeAddr := y, causeLane := z } : Context).id = c.id := rfl
@[simp] theorem setCause_id (c : Context) (k : Trap) (n : Nat) : (setCause c k n).id = c.id := causeSet_id c _ _ _
theorem causeSet_task (c : Context) (x y z : Word64) :
    ({ c with cause := x, causeAddr := y, causeLane := z } : Context).task = c.task := rfl
@[simp] theorem setCause_task (c : Context) (k : Trap) (n : Nat) : (setCause c k n).task = c.task := causeSet_task c _ _ _
theorem causeSet_kind (c : Context) (x y z : Word64) :
    ({ c with cause := x, causeAddr := y, causeLane := z } : Context).kind = c.kind := rfl
@[simp] theorem setCause_kind (c : Context) (k : Trap) (n : Nat) : (setCause c k n).kind = c.kind := causeSet_kind c _ _ _
theorem causeSet_slotNo (c : Context) (x y z : Word64) :
    ({ c with cause := x, causeAddr := y, causeLane := z } : Context).slotNo = c.slotNo := rfl
@[simp] theorem setCause_slotNo (c : Context) (k : Trap) (n : Nat) : (setCause c k n).slotNo = c.slotNo := causeSet_slotNo c _ _ _
theorem causeSet_area (c : Context) (x y z : Word64) :
    ({ c with cause := x, causeAddr := y, causeLane := z } : Context).area = c.area := rfl
@[simp] theorem setCause_area (c : Context) (k : Trap) (n : Nat) : (setCause c k n).area = c.area := causeSet_area c _ _ _
theorem causeSet_file (c : Context) (x y z : Word64) :
    ({ c with cause := x, causeAddr := y, causeLane := z } : Context).file = c.file := rfl
@[simp] theorem setCause_file (c : Context) (k : Trap) (n : Nat) : (setCause c k n).file = c.file := causeSet_file c _ _ _
theorem causeSet_box (c : Context) (x y z : Word64) :
    ({ c with cause := x, causeAddr := y, causeLane := z } : Context).box = c.box := rfl
@[simp] theorem setCause_box (c : Context) (k : Trap) (n : Nat) : (setCause c k n).box = c.box := causeSet_box c _ _ _
theorem causeSet_cursor (c : Context) (x y z : Word64) :
    ({ c with cause := x, causeAddr := y, causeLane := z } : Context).cursor = c.cursor := rfl
@[simp] theorem setCause_cursor (c : Context) (k : Trap) (n : Nat) : (setCause c k n).cursor = c.cursor := causeSet_cursor c _ _ _
theorem causeSet_seams (c : Context) (x y z : Word64) :
    ({ c with cause := x, causeAddr := y, causeLane := z } : Context).seams = c.seams := rfl
@[simp] theorem setCause_seams (c : Context) (k : Trap) (n : Nat) : (setCause c k n).seams = c.seams := causeSet_seams c _ _ _
theorem causeSet_holder (c : Context) (x y z : Word64) :
    ({ c with cause := x, causeAddr := y, causeLane := z } : Context).holder = c.holder := rfl
@[simp] theorem setCause_holder (c : Context) (k : Trap) (n : Nat) : (setCause c k n).holder = c.holder := causeSet_holder c _ _ _
theorem causeSet_parkedAt (c : Context) (x y z : Word64) :
    ({ c with cause := x, causeAddr := y, causeLane := z } : Context).parkedAt = c.parkedAt := rfl
@[simp] theorem setCause_parkedAt (c : Context) (k : Trap) (n : Nat) : (setCause c k n).parkedAt = c.parkedAt := causeSet_parkedAt c _ _ _
theorem causeSet_sealedOnce (c : Context) (x y z : Word64) :
    ({ c with cause := x, causeAddr := y, causeLane := z } : Context).sealedOnce = c.sealedOnce := rfl
@[simp] theorem setCause_sealedOnce (c : Context) (k : Trap) (n : Nat) : (setCause c k n).sealedOnce = c.sealedOnce := causeSet_sealedOnce c _ _ _
theorem causeSet_paths (c : Context) (x y z : Word64) :
    ({ c with cause := x, causeAddr := y, causeLane := z } : Context).paths = c.paths := rfl
@[simp] theorem setCause_paths (c : Context) (k : Trap) (n : Nat) : (setCause c k n).paths = c.paths := causeSet_paths c _ _ _
theorem causeSet_recs (c : Context) (x y z : Word64) :
    ({ c with cause := x, causeAddr := y, causeLane := z } : Context).recs = c.recs := rfl
@[simp] theorem setCause_recs (c : Context) (k : Trap) (n : Nat) : (setCause c k n).recs = c.recs := causeSet_recs c _ _ _
theorem causeSet_nextPath (c : Context) (x y z : Word64) :
    ({ c with cause := x, causeAddr := y, causeLane := z } : Context).nextPath = c.nextPath := rfl
@[simp] theorem setCause_nextPath (c : Context) (k : Trap) (n : Nat) : (setCause c k n).nextPath = c.nextPath := causeSet_nextPath c _ _ _
theorem causeSet_nextRec (c : Context) (x y z : Word64) :
    ({ c with cause := x, causeAddr := y, causeLane := z } : Context).nextRec = c.nextRec := rfl
@[simp] theorem setCause_nextRec (c : Context) (k : Trap) (n : Nat) : (setCause c k n).nextRec = c.nextRec := causeSet_nextRec c _ _ _
theorem causeSet_frame (c : Context) (x y z : Word64) :
    ({ c with cause := x, causeAddr := y, causeLane := z } : Context).frame = c.frame := rfl
@[simp] theorem setCause_frame (c : Context) (k : Trap) (n : Nat) : (setCause c k n).frame = c.frame := causeSet_frame c _ _ _
theorem causeSet_copyBat (c : Context) (x y z : Word64) :
    ({ c with cause := x, causeAddr := y, causeLane := z } : Context).copyBat = c.copyBat := rfl
@[simp] theorem setCause_copyBat (c : Context) (k : Trap) (n : Nat) : (setCause c k n).copyBat = c.copyBat := causeSet_copyBat c _ _ _
theorem causeSet_matBat (c : Context) (x y z : Word64) :
    ({ c with cause := x, causeAddr := y, causeLane := z } : Context).matBat = c.matBat := rfl
@[simp] theorem setCause_matBat (c : Context) (k : Trap) (n : Nat) : (setCause c k n).matBat = c.matBat := causeSet_matBat c _ _ _
theorem causeSet_lastTile (c : Context) (x y z : Word64) :
    ({ c with cause := x, causeAddr := y, causeLane := z } : Context).lastTile = c.lastTile := rfl
@[simp] theorem setCause_lastTile (c : Context) (k : Trap) (n : Nat) : (setCause c k n).lastTile = c.lastTile := causeSet_lastTile c _ _ _
theorem causeSet_lastMark (c : Context) (x y z : Word64) :
    ({ c with cause := x, causeAddr := y, causeLane := z } : Context).lastMark = c.lastMark := rfl
@[simp] theorem setCause_lastMark (c : Context) (k : Trap) (n : Nat) : (setCause c k n).lastMark = c.lastMark := causeSet_lastMark c _ _ _
theorem causeSet_callout (c : Context) (x y z : Word64) :
    ({ c with cause := x, causeAddr := y, causeLane := z } : Context).callout = c.callout := rfl
@[simp] theorem setCause_callout (c : Context) (k : Trap) (n : Nat) : (setCause c k n).callout = c.callout := causeSet_callout c _ _ _
theorem causeSet_loadAfter (c : Context) (x y z : Word64) :
    ({ c with cause := x, causeAddr := y, causeLane := z } : Context).loadAfter = c.loadAfter := rfl
@[simp] theorem setCause_loadAfter (c : Context) (k : Trap) (n : Nat) : (setCause c k n).loadAfter = c.loadAfter := causeSet_loadAfter c _ _ _
theorem causeSet_urgent (c : Context) (x y z : Word64) :
    ({ c with cause := x, causeAddr := y, causeLane := z } : Context).urgent = c.urgent := rfl
@[simp] theorem setCause_urgent (c : Context) (k : Trap) (n : Nat) : (setCause c k n).urgent = c.urgent := causeSet_urgent c _ _ _
theorem causeSet_test (c : Context) (x y z : Word64) :
    ({ c with cause := x, causeAddr := y, causeLane := z } : Context).test = c.test := rfl
@[simp] theorem setCause_test (c : Context) (k : Trap) (n : Nat) : (setCause c k n).test = c.test := causeSet_test c _ _ _
theorem causeSet_badWrites (c : Context) (x y z : Word64) :
    ({ c with cause := x, causeAddr := y, causeLane := z } : Context).badWrites = c.badWrites := rfl
@[simp] theorem setCause_badWrites (c : Context) (k : Trap) (n : Nat) : (setCause c k n).badWrites = c.badWrites := causeSet_badWrites c _ _ _
theorem causeSet_netError (c : Context) (x y z : Word64) :
    ({ c with cause := x, causeAddr := y, causeLane := z } : Context).netError = c.netError := rfl
@[simp] theorem setCause_netError (c : Context) (k : Trap) (n : Nat) : (setCause c k n).netError = c.netError := causeSet_netError c _ _ _
theorem causeSet_regs (c : Context) (x y z : Word64) :
    ({ c with cause := x, causeAddr := y, causeLane := z } : Context).regs = c.regs := rfl
@[simp] theorem setCause_regs (c : Context) (k : Trap) (n : Nat) : (setCause c k n).regs = c.regs := causeSet_regs c _ _ _
theorem causeSet_path (c : Context) (x y z : Word64) :
    ({ c with cause := x, causeAddr := y, causeLane := z } : Context).path = c.path := rfl
@[simp] theorem setCause_path (c : Context) (k : Trap) (n : Nat) : (setCause c k n).path = c.path := causeSet_path c _ _ _
theorem causeSet_horizon (c : Context) (x y z : Word64) :
    ({ c with cause := x, causeAddr := y, causeLane := z } : Context).horizon = c.horizon := rfl
@[simp] theorem setCause_horizon (c : Context) (k : Trap) (n : Nat) : (setCause c k n).horizon = c.horizon := causeSet_horizon c _ _ _
theorem causeSet_calloutH (c : Context) (x y z : Word64) :
    ({ c with cause := x, causeAddr := y, causeLane := z } : Context).calloutH = c.calloutH := rfl
@[simp] theorem setCause_calloutH (c : Context) (k : Trap) (n : Nat) : (setCause c k n).calloutH = c.calloutH := causeSet_calloutH c _ _ _

end Sys2Proof.Machine
end

