-- ==== Sys2Proof/Laws/Words.lean ====
section
/-! SUPPORT. What running a word comes to: the end of a word, the issue checks, traps, stalls, and the delivery of lane results.
A proof about a word cites these and unfolds none of them. -/

namespace Sys2Proof.Machine

open Sys2Proof

/-! ## The end of a word -/

theorem endChain_of_no_trap {s : State} (h : s.me.path.pend = none) :
    endChain s = { s with me := { s.me with path := s.me.path.settled } } := by
  simp [endChain, h, mapPath]

/-- A word without a trap in its chain leaves its path past it. -/
theorem wordDone_eq {s : State} (h : s.me.path.pend = none) : wordDone s = past s := by
  unfold wordDone nextWord past stepPast
  rcases s.me.path.run with _ | ⟨k, _ | ⟨c, _ | ⟨r, rest⟩⟩⟩
  · exact endChain_of_no_trap h
  · exact endChain_of_no_trap h
  · exact endChain_of_no_trap h
  · rfl

@[simp] theorem wordEnd_ok (s t : State) : wordEnd s (.ok t) = wordDone t := rfl
@[simp] theorem wordEnd_trap (s : State) (k : Trap) : wordEnd s (.trap k) = wordTrap s k := rfl
@[simp] theorem wordEnd_stall (s : State) (w : Stall) : wordEnd s (.stall w) = wordStall s w := rfl

/-- A word that ends in a new state, with no trap in its chain. -/
theorem wordEnd_done {s t : State} (h : t.me.path.pend = none) : wordEnd s (.ok t) = past t := wordDone_eq h

/-! ## Sequencing -/

@[simp] theorem bind_ok {α β : Type} (a : α) (f : α → Res β) : (Res.ok a).bind f = f a := rfl
@[simp] theorem bind_trap {α β : Type} (k : Trap) (f : α → Res β) : (Res.trap k : Res α).bind f = .trap k := rfl
@[simp] theorem bind_stall {α β : Type} (w : Stall) (f : α → Res β) : (Res.stall w : Res α).bind f = .stall w := rfl
@[simp] theorem check_none : Res.check none = .ok () := rfl
@[simp] theorem check_some (k : Trap) : Res.check (some k) = .trap k := rfl
@[simp] theorem need_true (k : Trap) : Res.need true k = .ok () := rfl
@[simp] theorem need_false (k : Trap) : Res.need false k = .trap k := rfl
@[simp] theorem wait_true (w : Stall) : Res.wait true w = .ok () := rfl
@[simp] theorem wait_false (w : Stall) : Res.wait false w = .stall w := rfl

/-- A sequence succeeds exactly when each of its parts does. -/
theorem bind_eq_ok {α β : Type} {x : Res α} {f : α → Res β} {b : β} : x.bind f = .ok b ↔ ∃ a, x = .ok a ∧ f a = .ok b := by
  cases x <;> simp

/-! ## Issue -/

/-- A word that issues goes on to what it does. -/
theorem runChecked_issues {i : Instr} {s : State} (h : Issues i s) (go : State → State) : runChecked i s go = .next (go s) := by
  simp [runChecked, h.1, h.2.1, h.2.2.1]

/-- A word that issues has the effect of its body. -/
theorem runWord_issues {i : Instr} {s : State} (h : Issues i s) (body : State → Res State) :
    runWord i s body = .next (wordEnd s (body s)) := runChecked_issues h _

/-- A word that moves or ends its path, likewise. -/
theorem runFlow_issues {i : Instr} {s : State} (h : Issues i s) (body : State → State) :
    runFlow i s body = .next (body s) := runChecked_issues h _

/-- A word that fails an issue check traps, and has no other effect. -/
theorem runWord_trap {i : Instr} {s : State} {k : Trap} (h : issueTrap i s = some k) (body : State → Res State) :
    runWord i s body = .next (wordTrap s k) := by
  simp [runWord, runChecked, h]

theorem runFlow_trap {i : Instr} {s : State} {k : Trap} (h : issueTrap i s = some k) (body : State → State) :
    runFlow i s body = .next (wordTrap s k) := by
  simp [runFlow, runChecked, h]

/-- A word that writes registers alone. -/
theorem runWord_regs {i : Instr} {s : State} (h : Issues i s) {body : State → Res State} {r : Regs}
    (hb : body s = .ok { s with me := { s.me with regs := r } }) : runWord i s body = .next (wrote s r) := by
  rw [runWord_issues h, hb, wordEnd_done (by exact h.2.2.2.1)]
  rfl

/-! ## Lane results -/

/-- A result delivered to a v register. -/
theorem setDest_vector {s : State} {d : BitVec 7} {t : Tag} {g : Bool} {val : Nat → Word32} (h : isA d = false) :
    setDest s d t g val = .ok { s with me := { s.me with regs := lanesInto s d.toNat t val } } := by
  simp [setDest, h]; rfl

/-- A result delivered to an a-register. -/
theorem setDest_form {s : State} {d : BitVec 7} {t : Tag} {g : Bool} {val : Nat → Word32} (h : isA d = true) :
    setDest s d t g val = match laneForm s t g val with
      | some f => .ok { s with me := { s.me with regs := formInto s d f } }
      | none => .trap (trapHere s 0x04 0) := by
  simp only [setDest, h, if_true]; rfl

/-- A word that delivers lane results. -/
theorem runWord_delivers {i : Instr} {s : State} (h : Issues i s) {body : State → Res State} {d : BitVec 7} {t : Tag} {g : Bool}
    {val : Nat → Word32} (he : exec i s = runWord i s body) (hb : body s = setDest s d t g val) : Delivers i s d t g val := by
  refine ⟨fun hd => ?_, fun hd f hf => ?_, fun hd hf => ?_⟩
  · rw [he]; exact runWord_regs h (by rw [hb, setDest_vector hd])
  · rw [he]; exact runWord_regs h (by rw [hb, setDest_form hd, hf])
  · rw [he, runWord_issues h, hb, setDest_form hd, hf]; rfl

/-! ## Floating-point words -/

theorem groupInto_rest (s : State) (t : Tag) (n : Nat) : ∀ (val : Nat → Nat) (reg : Nat) (r : Regs),
    groupInto s t val reg n r = { r with v := (groupInto s t val reg n r).v, errV := (groupInto s t val reg n r).errV } := by
  induction n with
  | zero => intro val reg r; rfl
  | succ n ih => intro val reg r; simp only [groupInto]; rw [ih]; rfl

theorem floatEnd_of_ok {s : State} {res : Nat → LaneRes} {dest : State → Res State} {r : Regs}
    (hp : s.me.path.pend = none ∧ s.me.path.reseed = false)
    (hd : dest s = .ok { s with me := { s.me with regs := r } }) (_hm : r.mode = s.me.regs.mode) (hl : r.lfsr = s.me.regs.lfsr)
    (hn : NoneEnabled s fun l => (res l).flags) :
    floatEnd s res dest = wrote s (flagged { r with lfsr := vmask s.me.regs.lfsr s.me.path.mask fun l => (res l).lfsr } (flagsOf s fun l => (res l).flags)) := by
  have hf : (lanesOf (p0 s)).find? (fun l => (res l).flags &&& modeTen (readRegs s).mode != 0) = none := by
    rw [List.find?_eq_none]; intro l hl; simpa using hn l hl
  simp only [floatEnd, hd, hf, lfsrOf, setLfsr, hp.2, Bool.false_eq_true, if_false]
  rw [wordDone_eq (by exact hp.1)]
  simp only [raiseFlags, setMode, mapRegs, past, wrote, flagged, hl, p0, flagsOf]

theorem floatEnd_of_flag {s : State} {res : Nat → LaneRes} {dest : State → Res State} {t : State} {l : Nat}
    (hd : dest s = .ok t) (hn : FirstEnabled s (fun l => (res l).flags) l) :
    floatEnd s res dest = wordTrap { s with me := { s.me with regs := flagged s.me.regs (flagsOf s fun l => (res l).flags) } }
      (trapLane 0x10 (res l).flags (wordAddr s) l) := by
  have hf : (lanesOf (p0 s)).find? (fun l => (res l).flags &&& modeTen (readRegs s).mode != 0) = some l := hn
  simp only [floatEnd, hd, hf]
  rfl

theorem runFlow_floats {i : Instr} {s : State} {res : Nat → LaneRes} {d : BitVec 7} {n : Nat} {t : Tag} {g : Bool} {dest : State → Res State}
    (h : Issues i s) {body : State → State} (he : exec i s = runFlow i s body) (hb : body s = floatEnd s res dest)
    (hv : isA d = false → dest s = .ok { s with me := { s.me with regs := groupInto s t (fun l => (res l).val) d.toNat n s.me.regs } })
    (ha : isA d = true → dest s = setDest s d t g fun l => BitVec.ofNat 32 (res l).val) : FloatEnds i s res d n t g := by
  have hx : exec i s = .next (floatEnd s res dest) := by rw [he, runFlow_issues h, hb]
  refine ⟨fun hd hn => ?_, fun hd hn f hf => ?_, fun hd hf => ?_, fun l hl hf => ?_⟩
  · rw [hx, floatEnd_of_ok h.2.2.2 (hv hd) ?_ ?_ hn]
    · rw [groupInto_rest]
    · rw [groupInto_rest]
  · have h1 := ha hd; rw [setDest_form hd, hf] at h1
    rw [hx, floatEnd_of_ok h.2.2.2 h1 rfl rfl hn]
  · have h1 := ha hd; rw [setDest_form hd, hf] at h1
    rw [hx]; simp only [floatEnd, h1]
  · rw [hx]
    cases hd : isA d with
    | false => rw [floatEnd_of_flag (hv hd) hl]
    | true =>
      obtain ⟨f, hf⟩ := Option.isSome_iff_exists.1 (hf hd)
      have h1 := ha hd; rw [setDest_form hd, hf] at h1
      rw [floatEnd_of_flag h1 hl]

/-! ## Vectors and lanes -/

theorem vget_vset_same {α : Type} {n : Nat} (v : Vector α n) (i : Nat) (x d : α) (h : i < n) : vget (vset v i x) i d = x := by
  simp [vget, vset, Vector.getD, h]

theorem vget_vset_other {α : Type} {n : Nat} (v : Vector α n) (i j : Nat) (x d : α) (h : i ≠ j) :
    vget (vset v i x) j d = vget v j d := by
  by_cases hj : j < n <;> simp [vget, vset, Vector.getD, hj, h]

theorem vget_vmask {α : Type} (v : Vector α 64) (p : Word64) (f : Nat → α) (l : Nat) (d : α) (h : l < 64) :
    vget (vmask v p f) l d = if p.getLsbD l then f l else vget v l d := by
  simp [vget, vmask, Vector.getD, h]

end Sys2Proof.Machine
end

