-- ==== Sys2Proof/Laws/Exec.lean ====
section
/-! SUPPORT. The issue checks of every word of the table, but for XPFX: a word that fails one traps and does nothing else. -/

set_option Elab.async false
set_option linter.unusedSimpArgs false

namespace Sys2Proof.Machine

open Sys2Proof

/-! ## The meaning of each instruction -/

theorem exec_nop (s : State) : exec (.nop) s = execNop s := by simp only [exec]
theorem exec_ret (s : State) : exec (.ret) s = execRet s := by simp only [exec]
theorem exec_matl (s : State) : exec (.matl) s = execMatl s := by simp only [exec]
theorem exec_rjoin (a : BitVec 7) (b : BitVec 7) (s : State) : exec (.rjoin a b) s = execRjoin a b s := by simp only [exec]
theorem exec_join (s : State) : exec (.join) s = execJoin s := by simp only [exec]
theorem exec_yield (s : State) : exec (.yield) s = execYield s := by simp only [exec]
theorem exec_exit (s : State) : exec (.exit) s = execExit s := by simp only [exec]
theorem exec_hret (s : State) : exec (.hret) s = execHret s := by simp only [exec]
theorem exec_time (d : BitVec 7) (s : State) : exec (.time d) s = execTime d s := by simp only [exec]
theorem exec_laneid (d : BitVec 7) (s : State) : exec (.laneid d) s = execLaneid d s := by simp only [exec]
theorem exec_idx (d : BitVec 7) (b : BitVec 7) (s : State) : exec (.idx d b) s = execIdx d b s := by simp only [exec]
theorem exec_locq (d : BitVec 7) (a : BitVec 7) (s : State) : exec (.locq d a) s = execLocq d a s := by simp only [exec]
theorem exec_trap (b : BitVec 7) (s : State) : exec (.trap b) s = execTrap b s := by simp only [exec]
theorem exec_launch (d : BitVec 7) (a : BitVec 7) (b : BitVec 7) (s : State) : exec (.launch d a b) s = execLaunch d a b s := by simp only [exec]
theorem exec_xset (d : BitVec 7) (b : BitVec 7) (s : State) : exec (.xset d b) s = execXset d b s := by simp only [exec]
theorem exec_bra (disp : BitVec 16) (s : State) : exec (.bra disp) s = execBra disp s := by simp only [exec]
theorem exec_call (disp : BitVec 16) (s : State) : exec (.call disp) s = execCall disp s := by simp only [exec]
theorem exec_loop (reg : BitVec 5) (disp : BitVec 16) (s : State) : exec (.loop reg disp) s = execLoop reg disp s := by simp only [exec]
theorem exec_brc (cond : BitVec 4) (reg : BitVec 5) (disp : BitVec 16) (s : State) : exec (.brc cond reg disp) s = execBrc cond reg disp s := by simp only [exec]
theorem exec_brv (sense : BitVec 1) (preg : BitVec 3) (disp : BitVec 16) (s : State) : exec (.brv sense preg disp) s = execBrv sense preg disp s := by simp only [exec]
theorem exec_brx (a : BitVec 7) (s : State) : exec (.brx a) s = execBrx a s := by simp only [exec]
theorem exec_aadd (d : BitVec 7) (a : BitVec 7) (b : BitVec 7) (s : State) : exec (.aadd d a b) s = execAadd d a b s := by simp only [exec]
theorem exec_asub (d : BitVec 7) (a : BitVec 7) (b : BitVec 7) (s : State) : exec (.asub d a b) s = execAsub d a b s := by simp only [exec]
theorem exec_amul (d : BitVec 7) (a : BitVec 7) (b : BitVec 7) (s : State) : exec (.amul d a b) s = execAmul d a b s := by simp only [exec]
theorem exec_ashl (d : BitVec 7) (a : BitVec 7) (b : BitVec 7) (s : State) : exec (.ashl d a b) s = execAshl d a b s := by simp only [exec]
theorem exec_ashr (d : BitVec 7) (a : BitVec 7) (b : BitVec 7) (s : State) : exec (.ashr d a b) s = execAshr d a b s := by simp only [exec]
theorem exec_aand (d : BitVec 7) (a : BitVec 7) (b : BitVec 7) (s : State) : exec (.aand d a b) s = execAand d a b s := by simp only [exec]
theorem exec_aor (d : BitVec 7) (a : BitVec 7) (b : BitVec 7) (s : State) : exec (.aor d a b) s = execAor d a b s := by simp only [exec]
theorem exec_axor (d : BitVec 7) (a : BitVec 7) (b : BitVec 7) (s : State) : exec (.axor d a b) s = execAxor d a b s := by simp only [exec]
theorem exec_amin (d : BitVec 7) (a : BitVec 7) (b : BitVec 7) (s : State) : exec (.amin d a b) s = execAmin d a b s := by simp only [exec]
theorem exec_amax (d : BitVec 7) (a : BitVec 7) (b : BitVec 7) (s : State) : exec (.amax d a b) s = execAmax d a b s := by simp only [exec]
theorem exec_acmpEq (d : BitVec 7) (a : BitVec 7) (b : BitVec 7) (s : State) : exec (.acmpEq d a b) s = execAcmpEq d a b s := by simp only [exec]
theorem exec_acmpNe (d : BitVec 7) (a : BitVec 7) (b : BitVec 7) (s : State) : exec (.acmpNe d a b) s = execAcmpNe d a b s := by simp only [exec]
theorem exec_acmpLt (d : BitVec 7) (a : BitVec 7) (b : BitVec 7) (s : State) : exec (.acmpLt d a b) s = execAcmpLt d a b s := by simp only [exec]
theorem exec_acmpLe (d : BitVec 7) (a : BitVec 7) (b : BitVec 7) (s : State) : exec (.acmpLe d a b) s = execAcmpLe d a b s := by simp only [exec]
theorem exec_acmpLtu (d : BitVec 7) (a : BitVec 7) (b : BitVec 7) (s : State) : exec (.acmpLtu d a b) s = execAcmpLtu d a b s := by simp only [exec]
theorem exec_acmpLeu (d : BitVec 7) (a : BitVec 7) (b : BitVec 7) (s : State) : exec (.acmpLeu d a b) s = execAcmpLeu d a b s := by simp only [exec]
theorem exec_aaddi (d : BitVec 7) (a : BitVec 7) (imm : BitVec 11) (s : State) : exec (.aaddi d a imm) s = execAaddi d a imm s := by simp only [exec]
theorem exec_amuli (d : BitVec 7) (a : BitVec 7) (imm : BitVec 11) (s : State) : exec (.amuli d a imm) s = execAmuli d a imm s := by simp only [exec]
theorem exec_ashli (d : BitVec 7) (a : BitVec 7) (imm : BitVec 11) (s : State) : exec (.ashli d a imm) s = execAshli d a imm s := by simp only [exec]
theorem exec_ashri (d : BitVec 7) (a : BitVec 7) (imm : BitVec 11) (s : State) : exec (.ashri d a imm) s = execAshri d a imm s := by simp only [exec]
theorem exec_amovi (d : BitVec 7) (imm : BitVec 11) (s : State) : exec (.amovi d imm) s = execAmovi d imm s := by simp only [exec]
theorem exec_aandi (d : BitVec 7) (a : BitVec 7) (imm : BitVec 11) (s : State) : exec (.aandi d a imm) s = execAandi d a imm s := by simp only [exec]
theorem exec_ald (data : BitVec 7) (base : BitVec 5) (disp6 : BitVec 6) (s : State) : exec (.ald data base disp6) s = execAld data base disp6 s := by simp only [exec]
theorem exec_pand (pd : BitVec 3) (pa : BitVec 3) (pb : BitVec 3) (s : State) : exec (.pand pd pa pb) s = execPand pd pa pb s := by simp only [exec]
theorem exec_por (pd : BitVec 3) (pa : BitVec 3) (pb : BitVec 3) (s : State) : exec (.por pd pa pb) s = execPor pd pa pb s := by simp only [exec]
theorem exec_pxor (pd : BitVec 3) (pa : BitVec 3) (pb : BitVec 3) (s : State) : exec (.pxor pd pa pb) s = execPxor pd pa pb s := by simp only [exec]
theorem exec_pnot (pd : BitVec 3) (pa : BitVec 3) (s : State) : exec (.pnot pd pa) s = execPnot pd pa s := by simp only [exec]
theorem exec_pcnt (d : BitVec 7) (pa : BitVec 3) (s : State) : exec (.pcnt d pa) s = execPcnt d pa s := by simp only [exec]
theorem exec_pfirstA (d : BitVec 7) (pa : BitVec 3) (s : State) : exec (.pfirstA d pa) s = execPfirstA d pa s := by simp only [exec]
theorem exec_pfirstP (pd : BitVec 3) (pa : BitVec 3) (s : State) : exec (.pfirstP pd pa) s = execPfirstP pd pa s := by simp only [exec]
theorem exec_ballot (d : BitVec 7) (a : BitVec 7) (s : State) : exec (.ballot d a) s = execBallot d a s := by simp only [exec]
theorem exec_gets (d : BitVec 7) (b : BitVec 7) (s : State) : exec (.gets d b) s = execGets d b s := by simp only [exec]
theorem exec_sets (a : BitVec 7) (b : BitVec 7) (s : State) : exec (.sets a b) s = execSets a b s := by simp only [exec]
theorem exec_lread (d : BitVec 7) (a : BitVec 7) (b : BitVec 7) (s : State) : exec (.lread d a b) s = execLread d a b s := by simp only [exec]
theorem exec_lwrite (d : BitVec 7) (a : BitVec 7) (b : BitVec 7) (s : State) : exec (.lwrite d a b) s = execLwrite d a b s := by simp only [exec]
theorem exec_iadd (d : BitVec 7) (a : BitVec 7) (b : BitVec 7) (f : BitVec 4) (s : State) : exec (.iadd d a b f) s = execIadd d a b f s := by simp only [exec]
theorem exec_isub (d : BitVec 7) (a : BitVec 7) (b : BitVec 7) (f : BitVec 4) (s : State) : exec (.isub d a b f) s = execIsub d a b f s := by simp only [exec]
theorem exec_imul (d : BitVec 7) (a : BitVec 7) (b : BitVec 7) (f : BitVec 4) (s : State) : exec (.imul d a b f) s = execImul d a b f s := by simp only [exec]
theorem exec_imulh (d : BitVec 7) (a : BitVec 7) (b : BitVec 7) (f3 : BitVec 3) (s : State) : exec (.imulh d a b f3) s = execImulh d a b f3 s := by simp only [exec]
theorem exec_imad (d : BitVec 7) (a : BitVec 7) (b : BitVec 7) (f : BitVec 4) (s : State) : exec (.imad d a b f) s = execImad d a b f s := by simp only [exec]
theorem exec_imin (d : BitVec 7) (a : BitVec 7) (b : BitVec 7) (f3 : BitVec 3) (s : State) : exec (.imin d a b f3) s = execImin d a b f3 s := by simp only [exec]
theorem exec_imax (d : BitVec 7) (a : BitVec 7) (b : BitVec 7) (f3 : BitVec 3) (s : State) : exec (.imax d a b f3) s = execImax d a b f3 s := by simp only [exec]
theorem exec_iabs (d : BitVec 7) (a : BitVec 7) (f : BitVec 4) (s : State) : exec (.iabs d a f) s = execIabs d a f s := by simp only [exec]
theorem exec_icmp (d : BitVec 7) (a : BitVec 7) (b : BitVec 7) (f3 : BitVec 3) (s : State) : exec (.icmp d a b f3) s = execIcmp d a b f3 s := by simp only [exec]
theorem exec_sel (d : BitVec 7) (a : BitVec 7) (b : BitVec 7) (f3 : BitVec 3) (s : State) : exec (.sel d a b f3) s = execSel d a b f3 s := by simp only [exec]
theorem exec_and (d : BitVec 7) (a : BitVec 7) (b : BitVec 7) (s : State) : exec (.and d a b) s = execAnd d a b s := by simp only [exec]
theorem exec_or (d : BitVec 7) (a : BitVec 7) (b : BitVec 7) (s : State) : exec (.or d a b) s = execOr d a b s := by simp only [exec]
theorem exec_xor (d : BitVec 7) (a : BitVec 7) (b : BitVec 7) (s : State) : exec (.xor d a b) s = execXor d a b s := by simp only [exec]
theorem exec_andn (d : BitVec 7) (a : BitVec 7) (b : BitVec 7) (s : State) : exec (.andn d a b) s = execAndn d a b s := by simp only [exec]
theorem exec_shl (d : BitVec 7) (a : BitVec 7) (b : BitVec 7) (s : State) : exec (.shl d a b) s = execShl d a b s := by simp only [exec]
theorem exec_shr (d : BitVec 7) (a : BitVec 7) (b : BitVec 7) (s : State) : exec (.shr d a b) s = execShr d a b s := by simp only [exec]
theorem exec_sar (d : BitVec 7) (a : BitVec 7) (b : BitVec 7) (s : State) : exec (.sar d a b) s = execSar d a b s := by simp only [exec]
theorem exec_rotl (d : BitVec 7) (a : BitVec 7) (b : BitVec 7) (s : State) : exec (.rotl d a b) s = execRotl d a b s := by simp only [exec]
theorem exec_popc (d : BitVec 7) (a : BitVec 7) (s : State) : exec (.popc d a) s = execPopc d a s := by simp only [exec]
theorem exec_clz (d : BitVec 7) (a : BitVec 7) (s : State) : exec (.clz d a) s = execClz d a s := by simp only [exec]
theorem exec_brev (d : BitVec 7) (a : BitVec 7) (s : State) : exec (.brev d a) s = execBrev d a s := by simp only [exec]
theorem exec_blut (d : BitVec 7) (a : BitVec 7) (b : BitVec 7) (s : State) : exec (.blut d a b) s = execBlut d a b s := by simp only [exec]
theorem exec_bshuf (d : BitVec 7) (a : BitVec 7) (b : BitVec 7) (s : State) : exec (.bshuf d a b) s = execBshuf d a b s := by simp only [exec]
theorem exec_bcmpEq (d : BitVec 7) (a : BitVec 7) (b : BitVec 7) (s : State) : exec (.bcmpEq d a b) s = execBcmpEq d a b s := by simp only [exec]
theorem exec_bcmpLt (d : BitVec 7) (a : BitVec 7) (b : BitVec 7) (s : State) : exec (.bcmpLt d a b) s = execBcmpLt d a b s := by simp only [exec]
theorem exec_bcmpLtu (d : BitVec 7) (a : BitVec 7) (b : BitVec 7) (s : State) : exec (.bcmpLtu d a b) s = execBcmpLtu d a b s := by simp only [exec]
theorem exec_baddsI8 (d : BitVec 7) (a : BitVec 7) (b : BitVec 7) (s : State) : exec (.baddsI8 d a b) s = execBaddsI8 d a b s := by simp only [exec]
theorem exec_baddsN8 (d : BitVec 7) (a : BitVec 7) (b : BitVec 7) (s : State) : exec (.baddsN8 d a b) s = execBaddsN8 d a b s := by simp only [exec]
theorem exec_lshc (d : BitVec 7) (a : BitVec 7) (b : BitVec 7) (f : BitVec 4) (s : State) : exec (.lshc d a b f) s = execLshc d a b f s := by simp only [exec]
theorem exec_xperm (d : BitVec 7) (a : BitVec 7) (b : BitVec 7) (s : State) : exec (.xperm d a b) s = execXperm d a b s := by simp only [exec]
theorem exec_vscan (d : BitVec 7) (a : BitVec 7) (f : BitVec 4) (s : State) : exec (.vscan d a f) s = execVscan d a f s := by simp only [exec]
theorem exec_vred (d : BitVec 7) (a : BitVec 7) (f : BitVec 4) (s : State) : exec (.vred d a f) s = execVred d a f s := by simp only [exec]
theorem exec_fadd (d : BitVec 7) (a : BitVec 7) (b : BitVec 7) (f : BitVec 4) (s : State) : exec (.fadd d a b f) s = execFadd d a b f s := by simp only [exec]
theorem exec_fsub (d : BitVec 7) (a : BitVec 7) (b : BitVec 7) (f : BitVec 4) (s : State) : exec (.fsub d a b f) s = execFsub d a b f s := by simp only [exec]
theorem exec_fmul (d : BitVec 7) (a : BitVec 7) (b : BitVec 7) (f : BitVec 4) (s : State) : exec (.fmul d a b f) s = execFmul d a b f s := by simp only [exec]
theorem exec_fma (d : BitVec 7) (a : BitVec 7) (b : BitVec 7) (f : BitVec 4) (s : State) : exec (.fma d a b f) s = execFma d a b f s := by simp only [exec]
theorem exec_fmin (d : BitVec 7) (a : BitVec 7) (b : BitVec 7) (s : State) : exec (.fmin d a b) s = execFmin d a b s := by simp only [exec]
theorem exec_fmax (d : BitVec 7) (a : BitVec 7) (b : BitVec 7) (s : State) : exec (.fmax d a b) s = execFmax d a b s := by simp only [exec]
theorem exec_fcmp (d : BitVec 7) (a : BitVec 7) (b : BitVec 7) (s : State) : exec (.fcmp d a b) s = execFcmp d a b s := by simp only [exec]
theorem exec_fdiv (d : BitVec 7) (a : BitVec 7) (b : BitVec 7) (f : BitVec 4) (s : State) : exec (.fdiv d a b f) s = execFdiv d a b f s := by simp only [exec]
theorem exec_fsqrt (d : BitVec 7) (a : BitVec 7) (f : BitVec 4) (s : State) : exec (.fsqrt d a f) s = execFsqrt d a f s := by simp only [exec]
theorem exec_frcp (d : BitVec 7) (a : BitVec 7) (f : BitVec 4) (s : State) : exec (.frcp d a f) s = execFrcp d a f s := by simp only [exec]
theorem exec_frsq (d : BitVec 7) (a : BitVec 7) (f : BitVec 4) (s : State) : exec (.frsq d a f) s = execFrsq d a f s := by simp only [exec]
theorem exec_fexp2 (d : BitVec 7) (a : BitVec 7) (f : BitVec 4) (s : State) : exec (.fexp2 d a f) s = execFexp2 d a f s := by simp only [exec]
theorem exec_flog2 (d : BitVec 7) (a : BitVec 7) (f : BitVec 4) (s : State) : exec (.flog2 d a f) s = execFlog2 d a f s := by simp only [exec]
theorem exec_fsin (d : BitVec 7) (a : BitVec 7) (f : BitVec 4) (s : State) : exec (.fsin d a f) s = execFsin d a f s := by simp only [exec]
theorem exec_fcos (d : BitVec 7) (a : BitVec 7) (f : BitVec 4) (s : State) : exec (.fcos d a f) s = execFcos d a f s := by simp only [exec]
theorem exec_fclass (d : BitVec 7) (a : BitVec 7) (s : State) : exec (.fclass d a) s = execFclass d a s := by simp only [exec]
theorem exec_cvt (d : BitVec 7) (a : BitVec 7) (dt : BitVec 5) (f : BitVec 4) (s : State) : exec (.cvt d a dt f) s = execCvt d a dt f s := by simp only [exec]
theorem exec_xsum (data : BitVec 7) (base : BitVec 5) (index : BitVec 5) (scale : BitVec 2) (disp6 : BitVec 6) (s : State) : exec (.xsum data base index scale disp6) s = execXsum data base index scale disp6 s := by simp only [exec]
theorem exec_sumrd (data : BitVec 7) (base : BitVec 5) (index : BitVec 5) (scale : BitVec 2) (disp6 : BitVec 6) (s : State) : exec (.sumrd data base index scale disp6) s = execSumrd data base index scale disp6 s := by simp only [exec]
theorem exec_ldg (data : BitVec 7) (base : BitVec 5) (index : BitVec 5) (scale : BitVec 2) (disp6 : BitVec 6) (s : State) : exec (.ldg data base index scale disp6) s = execLdg data base index scale disp6 s := by simp only [exec]
theorem exec_ldgF (data : BitVec 7) (base : BitVec 5) (index : BitVec 5) (scale : BitVec 2) (disp6 : BitVec 6) (s : State) : exec (.ldgF data base index scale disp6) s = execLdgF data base index scale disp6 s := by simp only [exec]
theorem exec_stg (data : BitVec 7) (base : BitVec 5) (index : BitVec 5) (scale : BitVec 2) (disp6 : BitVec 6) (s : State) : exec (.stg data base index scale disp6) s = execStg data base index scale disp6 s := by simp only [exec]
theorem exec_ldk (data : BitVec 7) (base : BitVec 5) (scale : BitVec 2) (disp6 : BitVec 6) (s : State) : exec (.ldk data base scale disp6) s = execLdk data base scale disp6 s := by simp only [exec]
theorem exec_pref (base : BitVec 5) (index : BitVec 5) (scale : BitVec 2) (disp6 : BitVec 6) (s : State) : exec (.pref base index scale disp6) s = execPref base index scale disp6 s := by simp only [exec]
theorem exec_ldp (data : BitVec 7) (base : BitVec 5) (index : BitVec 5) (scale : BitVec 2) (disp6 : BitVec 6) (s : State) : exec (.ldp data base index scale disp6) s = execLdp data base index scale disp6 s := by simp only [exec]
theorem exec_stp (data : BitVec 7) (base : BitVec 5) (index : BitVec 5) (scale : BitVec 2) (disp6 : BitVec 6) (s : State) : exec (.stp data base index scale disp6) s = execStp data base index scale disp6 s := by simp only [exec]
theorem exec_atomg (d : BitVec 7) (areg : BitVec 5) (b : BitVec 7) (f : BitVec 4) (s : State) : exec (.atomg d areg b f) s = execAtomg d areg b f s := by simp only [exec]
theorem exec_atomp (d : BitVec 7) (areg : BitVec 5) (b : BitVec 7) (f : BitVec 4) (s : State) : exec (.atomp d areg b f) s = execAtomp d areg b f s := by simp only [exec]
theorem exec_atomr (d : BitVec 7) (areg : BitVec 5) (b : BitVec 7) (f : BitVec 4) (s : State) : exec (.atomr d areg b f) s = execAtomr d areg b f s := by simp only [exec]
theorem exec_cpy (d : BitVec 7) (a : BitVec 7) (b : BitVec 7) (ch : BitVec 2) (s : State) : exec (.cpy d a b ch) s = execCpy d a b ch s := by simp only [exec]
theorem exec_cpyi (d : BitVec 7) (a : BitVec 7) (b : BitVec 7) (ch : BitVec 2) (s : State) : exec (.cpyi d a b ch) s = execCpyi d a b ch s := by simp only [exec]
theorem exec_cseal (s : State) : exec (.cseal) s = execCseal s := by simp only [exec]
theorem exec_cwait (b : BitVec 7) (s : State) : exec (.cwait b) s = execCwait b s := by simp only [exec]
theorem exec_pempty (a : BitVec 7) (b : BitVec 7) (s : State) : exec (.pempty a b) s = execPempty a b s := by simp only [exec]
theorem exec_fence (s : State) : exec (.fence) s = execFence s := by simp only [exec]
theorem exec_barinit (a : BitVec 7) (b : BitVec 7) (s : State) : exec (.barinit a b) s = execBarinit a b s := by simp only [exec]
theorem exec_bararr (d : BitVec 7) (a : BitVec 7) (s : State) : exec (.bararr d a) s = execBararr d a s := by simp only [exec]
theorem exec_barwait (a : BitVec 7) (b : BitVec 7) (s : State) : exec (.barwait a b) s = execBarwait a b s := by simp only [exec]
theorem exec_barinv (a : BitVec 7) (s : State) : exec (.barinv a) s = execBarinv a s := by simp only [exec]
theorem exec_semw (d : BitVec 7) (a : BitVec 7) (b : BitVec 7) (s : State) : exec (.semw d a b) s = execSemw d a b s := by simp only [exec]
theorem exec_sems (a : BitVec 7) (b : BitVec 7) (s : State) : exec (.sems a b) s = execSems a b s := by simp only [exec]
theorem exec_tlbinv (a : BitVec 7) (b : BitVec 7) (s : State) : exec (.tlbinv a b) s = execTlbinv a b s := by simp only [exec]
theorem exec_sendq (d : BitVec 7) (a : BitVec 7) (b : BitVec 7) (s : State) : exec (.sendq d a b) s = execSendq d a b s := by simp only [exec]
theorem exec_recvq (d : BitVec 7) (a : BitVec 7) (s : State) : exec (.recvq d a) s = execRecvq d a s := by simp only [exec]
theorem exec_padopen (win : BitVec 2) (rights : BitVec 2) (a : BitVec 7) (b : BitVec 7) (s : State) : exec (.padopen win rights a b) s = execPadopen win rights a b s := by simp only [exec]
theorem exec_poolset (d : BitVec 7) (src : BitVec 3) (dst : BitVec 3) (b : BitVec 7) (f3 : BitVec 3) (s : State) : exec (.poolset d src dst b f3) s = execPoolset d src dst b f3 s := by simp only [exec]
theorem exec_poolq (d : BitVec 7) (src : BitVec 3) (dst : BitVec 3) (s : State) : exec (.poolq d src dst) s = execPoolq d src dst s := by simp only [exec]
theorem exec_mma (tile : BitVec 3) (ka : BitVec 7) (kb : BitVec 7) (fmt : BitVec 4) (step : BitVec 2) (s : State) : exec (.mma tile ka kb fmt step) s = execMma tile ka kb fmt step s := by simp only [exec]
theorem exec_mmas (tile : BitVec 3) (ka : BitVec 7) (kb : BitVec 7) (fmt : BitVec 4) (step : BitVec 2) (s : State) : exec (.mmas tile ka kb fmt step) s = execMmas tile ka kb fmt step s := by simp only [exec]
theorem exec_mzero (tile : BitVec 3) (i32 : BitVec 1) (s : State) : exec (.mzero tile i32) s = execMzero tile i32 s := by simp only [exec]
theorem exec_mload (tile : BitVec 3) (ka : BitVec 7) (i32 : BitVec 1) (s : State) : exec (.mload tile ka i32) s = execMload tile ka i32 s := by simp only [exec]
theorem exec_mdrain (tile : BitVec 3) (ka : BitVec 7) (flags : BitVec 4) (s : State) : exec (.mdrain tile ka flags) s = execMdrain tile ka flags s := by simp only [exec]
theorem exec_mseal (s : State) : exec (.mseal) s = execMseal s := by simp only [exec]
theorem exec_mwait (flags : BitVec 4) (s : State) : exec (.mwait flags) s = execMwait flags s := by simp only [exec]
theorem exec_epload (tile : BitVec 3) (ka : BitVec 7) (s : State) : exec (.epload tile ka) s = execEpload tile ka s := by simp only [exec]
theorem exec_rset (d : BitVec 7) (a : BitVec 7) (b : BitVec 7) (ch : BitVec 2) (s : State) : exec (.rset d a b ch) s = execRset d a b ch s := by simp only [exec]
theorem exec_rast (d : BitVec 7) (a : BitVec 7) (bw : BitVec 3) (bp : BitVec 3) (s : State) : exec (.rast d a bw bp) s = execRast d a bw bp s := by simp only [exec]
theorem exec_travset (d : BitVec 7) (bpair : BitVec 4) (s : State) : exec (.travset d bpair) s = execTravset d bpair s := by simp only [exec]
theorem exec_travRay (d : BitVec 7) (a : BitVec 7) (bpair : BitVec 4) (bp : BitVec 3) (s : State) : exec (.travRay d a bpair bp) s = execTravRay d a bpair bp s := by simp only [exec]
theorem exec_travBox (d : BitVec 7) (a : BitVec 7) (bpair : BitVec 4) (bp : BitVec 3) (s : State) : exec (.travBox d a bpair bp) s = execTravBox d a bpair bp s := by simp only [exec]
theorem exec_fbload (dch : BitVec 2) (a : BitVec 7) (b : BitVec 7) (s : State) : exec (.fbload dch a b) s = execFbload dch a b s := by simp only [exec]
theorem exec_fbstore (dch : BitVec 2) (a : BitVec 7) (b : BitVec 7) (s : State) : exec (.fbstore dch a b) s = execFbstore dch a b s := by simp only [exec]
theorem exec_fbdone (a : BitVec 7) (b : BitVec 7) (s : State) : exec (.fbdone a b) s = execFbdone a b s := by simp only [exec]
theorem exec_vtest (pd : BitVec 3) (pa : BitVec 3) (b : BitVec 7) (f : BitVec 4) (s : State) : exec (.vtest pd pa b f) s = execVtest pd pa b f s := by simp only [exec]
theorem exec_fbw (d : BitVec 7) (pa : BitVec 3) (b : BitVec 7) (f : BitVec 4) (s : State) : exec (.fbw d pa b f) s = execFbw d pa b f s := by simp only [exec]
theorem exec_vsplit (wd : BitVec 3) (wr : BitVec 3) (pa : BitVec 3) (s : State) : exec (.vsplit wd wr pa) s = execVsplit wd wr pa s := by simp only [exec]
theorem exec_vends (d : BitVec 7) (pa : BitVec 3) (s : State) : exec (.vends d pa) s = execVends d pa s := by simp only [exec]
theorem exec_vmask (pd : BitVec 3) (pa : BitVec 3) (b : BitVec 7) (s : State) : exec (.vmask pd pa b) s = execVmask pd pa b s := by simp only [exec]
theorem exec_vagree (gwd : BitVec 3) (gws : BitVec 3) (gt : BitVec 5) (gva : BitVec 5) (gvb : BitVec 5) (s : State) : exec (.vagree gwd gws gt gva gvb) s = execVagree gwd gws gt gva gvb s := by simp only [exec]
theorem exec_vhalve (wd : BitVec 3) (wr : BitVec 3) (pa : BitVec 3) (s : State) : exec (.vhalve wd wr pa) s = execVhalve wd wr pa s := by simp only [exec]
theorem exec_xpfx (kind : BitVec 3) (payload : BitVec 22) (s : State) : exec (.xpfx kind payload) s = execXpfx kind payload s := by simp only [exec]
theorem exec_parkedTractServe (core : Nat) (s : State) : exec (.parkedTractServe core) s = execParkedTractServe core s := by simp only [exec]
theorem exec_pendingPieceStart (ctx : Nat) (s : State) : exec (.pendingPieceStart ctx) s = execPendingPieceStart ctx s := by simp only [exec]
theorem exec_rjoinWaitExpire (ctx : Nat) (s : State) : exec (.rjoinWaitExpire ctx) s = execRjoinWaitExpire ctx s := by simp only [exec]
theorem exec_versionCommit (task : Nat) (s : State) : exec (.versionCommit task) s = execVersionCommit task s := by simp only [exec]
theorem exec_standSpill (core : Nat) (s : State) : exec (.standSpill core) s = execStandSpill core s := by simp only [exec]
theorem exec_spillReturn (core : Nat) (s : State) : exec (.spillReturn core) s = execSpillReturn core s := by simp only [exec]
theorem exec_clearingComplete (core : Nat) (s : State) : exec (.clearingComplete core) s = execClearingComplete core s := by simp only [exec]
theorem exec_waitLimitExpire (ctx : Nat) (pathNo : Nat) (s : State) : exec (.waitLimitExpire ctx pathNo) s = execWaitLimitExpire ctx pathNo s := by simp only [exec]
theorem exec_semwWaitLimit (ctx : Nat) (pathNo : Nat) (s : State) : exec (.semwWaitLimit ctx pathNo) s = execSemwWaitLimit ctx pathNo s := by simp only [exec]
theorem exec_yieldHoldExpire (ctx : Nat) (pathNo : Nat) (s : State) : exec (.yieldHoldExpire ctx pathNo) s = execYieldHoldExpire ctx pathNo s := by simp only [exec]
theorem exec_bankPortUrgent (ctx : Nat) (s : State) : exec (.bankPortUrgent ctx) s = execBankPortUrgent ctx s := by simp only [exec]
theorem exec_homeLoad (n : Nat) (s : State) : exec (.homeLoad n) s = execHomeLoad n s := by simp only [exec]
theorem exec_homeStore (n : Nat) (s : State) : exec (.homeStore n) s = execHomeStore n s := by simp only [exec]
theorem exec_homeAtomic (n : Nat) (s : State) : exec (.homeAtomic n) s = execHomeAtomic n s := by simp only [exec]
theorem exec_copyStart (core : Nat) (ch : Nat) (n : Nat) (s : State) : exec (.copyStart core ch n) s = execCopyStart core ch n s := by simp only [exec]
theorem exec_copyComplete (core : Nat) (ch : Nat) (s : State) : exec (.copyComplete core ch) s = execCopyComplete core ch s := by simp only [exec]
theorem exec_matrixOpExecute (core : Nat) (n : Nat) (s : State) : exec (.matrixOpExecute core n) s = execMatrixOpExecute core n s := by simp only [exec]
theorem exec_drainExecute (core : Nat) (n : Nat) (s : State) : exec (.drainExecute core n) s = execDrainExecute core n s := by simp only [exec]
theorem exec_inboxMessageArrive (n : Nat) (s : State) : exec (.inboxMessageArrive n) s = execInboxMessageArrive n s := by simp only [exec]
theorem exec_atomrExecute (n : Nat) (s : State) : exec (.atomrExecute n) s = execAtomrExecute n s := by simp only [exec]
theorem exec_preemptRequest (task : Nat) (s : State) : exec (.preemptRequest task) s = execPreemptRequest task s := by simp only [exec]
theorem exec_preemptDeferTimeout (task : Nat) (s : State) : exec (.preemptDeferTimeout task) s = execPreemptDeferTimeout task s := by simp only [exec]
theorem exec_contextSave (task : Nat) (s : State) : exec (.contextSave task) s = execContextSave task s := by simp only [exec]
theorem exec_contextRestore (task : Nat) (core : Nat) (s : State) : exec (.contextRestore task core) s = execContextRestore task core s := by simp only [exec]
theorem exec_selfTestComplete (core : Nat) (unit : Nat) (lasting : Bool) (residue : Bool) (ctx : Nat) (s : State) : exec (.selfTestComplete core unit lasting residue ctx) s = execSelfTestComplete core unit lasting residue ctx s := by simp only [exec]
theorem exec_pageWalk (core : Nat) (part : Nat) (va : Nat) (write : Bool) (s : State) : exec (.pageWalk core part va write) s = execPageWalk core part va write s := by simp only [exec]
theorem exec_trackerEpochEnd (s : State) : exec (.trackerEpochEnd) s = execTrackerEpochEnd s := by simp only [exec]
theorem exec_swapLineMove (pair : Nat) (bad : Bool) (s : State) : exec (.swapLineMove pair bad) s = execSwapLineMove pair bad s := by simp only [exec]
theorem exec_regload (resv : BitVec 56) (arg0 : BitVec 64) (arg1 : BitVec 64) (seq : BitVec 64) (s : State) : exec (.regload resv arg0 arg1 seq) s = execRegload resv arg0 arg1 seq s := by simp only [exec]
theorem exec_regfree (resv : BitVec 56) (arg0 : BitVec 64) (arg1 : BitVec 64) (seq : BitVec 64) (s : State) : exec (.regfree resv arg0 arg1 seq) s = execRegfree resv arg0 arg1 seq s := by simp only [exec]
theorem exec_qset (resv : BitVec 56) (arg0 : BitVec 64) (arg1 : BitVec 64) (seq : BitVec 64) (s : State) : exec (.qset resv arg0 arg1 seq) s = execQset resv arg0 arg1 seq s := by simp only [exec]
theorem exec_qstop (resv : BitVec 56) (arg0 : BitVec 64) (arg1 : BitVec 64) (seq : BitVec 64) (s : State) : exec (.qstop resv arg0 arg1 seq) s = execQstop resv arg0 arg1 seq s := by simp only [exec]
theorem exec_semset (resv : BitVec 56) (arg0 : BitVec 64) (arg1 : BitVec 64) (seq : BitVec 64) (s : State) : exec (.semset resv arg0 arg1 seq) s = execSemset resv arg0 arg1 seq s := by simp only [exec]
theorem exec_hostSlotWrite (q : Nat) (rec : Nat × List (BitVec 8)) (s : State) : exec (.hostSlotWrite q rec) s = execHostSlotWrite q rec s := by simp only [exec]
theorem exec_launchDequeue (s : State) : exec (.launchDequeue) s = execLaunchDequeue s := by simp only [exec]
theorem exec_launchSemaphoreWait (serial : Nat) (s : State) : exec (.launchSemaphoreWait serial) s = execLaunchSemaphoreWait serial s := by simp only [exec]
theorem exec_piecePlacement (die : Nat) (s : State) : exec (.piecePlacement die) s = execPiecePlacement die s := by simp only [exec]
theorem exec_completionRecordWrite (serial : Nat) (s : State) : exec (.completionRecordWrite serial) s = execCompletionRecordWrite serial s := by simp only [exec]
theorem exec_dieResetOrderly (die : Nat) (s : State) : exec (.dieResetOrderly die) s = execDieResetOrderly die s := by simp only [exec]
theorem exec_dieResetUnplanned (die : Nat) (s : State) : exec (.dieResetUnplanned die) s = execDieResetUnplanned die s := by simp only [exec]
theorem exec_dieResetReturn (die : Nat) (s : State) : exec (.dieResetReturn die) s = execDieResetReturn die s := by simp only [exec]
theorem exec_moduleReset (s : State) : exec (.moduleReset) s = execModuleReset s := by simp only [exec]
theorem exec_bringupRom (ok : Bool) (s : State) : exec (.bringupRom ok) s = execBringupRom ok s := by simp only [exec]
theorem exec_bringupFw (ok : Bool) (s : State) : exec (.bringupFw ok) s = execBringupFw ok s := by simp only [exec]
theorem exec_bringupConfig (image : List (BitVec 8)) (sigOk : Bool) (s : State) : exec (.bringupConfig image sigOk) s = execBringupConfig image sigOk s := by simp only [exec]
theorem exec_bringupMemory (ok : Bool) (s : State) : exec (.bringupMemory ok) s = execBringupMemory ok s := by simp only [exec]
theorem exec_bringupDies (ok : Bool) (s : State) : exec (.bringupDies ok) s = execBringupDies ok s := by simp only [exec]
theorem exec_bringupHost (ok : Bool) (s : State) : exec (.bringupHost ok) s = execBringupHost ok s := by simp only [exec]
theorem exec_configRecordLoad (image : List (BitVec 8)) (sigOk : Bool) (s : State) : exec (.configRecordLoad image sigOk) s = execConfigRecordLoad image sigOk s := by simp only [exec]
theorem exec_rootRegisterSet (part : Nat) (val : BitVec 64) (s : State) : exec (.rootRegisterSet part val) s = execRootRegisterSet part val s := by simp only [exec]
theorem exec_capabilityRegisterSet (part : Nat) (val : BitVec 64) (s : State) : exec (.capabilityRegisterSet part val) s = execCapabilityRegisterSet part val s := by simp only [exec]
theorem exec_attestationRequest (part : Nat) (nonce : BitVec 256) (s : State) : exec (.attestationRequest part nonce) s = execAttestationRequest part nonce s := by simp only [exec]
theorem exec_hostMemWrite (pa : Nat) (data : List (BitVec 8)) (s : State) : exec (.hostMemWrite pa data) s = execHostMemWrite pa data s := by simp only [exec]
theorem exec_hostMemRead (pa : Nat) (size : Nat) (s : State) : exec (.hostMemRead pa size) s = execHostMemRead pa size s := by simp only [exec]
theorem exec_backInvalidateResponse (n : Nat) (s : State) : exec (.backInvalidateResponse n) s = execBackInvalidateResponse n s := by simp only [exec]
theorem exec_droopReport (die : Nat) (steps : Nat) (s : State) : exec (.droopReport die steps) s = execDroopReport die steps s := by simp only [exec]
theorem exec_clockStepRise (die : Nat) (s : State) : exec (.clockStepRise die) s = execClockStepRise die s := by simp only [exec]
theorem exec_sagCounterClear (die : Nat) (val : BitVec 64) (s : State) : exec (.sagCounterClear die val) s = execSagCounterClear die val s := by simp only [exec]
theorem exec_trackerControlWrite (part : Nat) (val : BitVec 64) (s : State) : exec (.trackerControlWrite part val) s = execTrackerControlWrite part val s := by simp only [exec]
theorem exec_registerWrite (part : Nat) (reg : Nat) (val : BitVec 64) (s : State) : exec (.registerWrite part reg val) s = execRegisterWrite part reg val s := by simp only [exec]
theorem exec_pendingHorizonGuardReached (ctx : Nat) (pathNo : Nat) (s : State) : exec (.pendingHorizonGuardReached ctx pathNo) s = execPendingHorizonGuardReached ctx pathNo s := by simp only [exec]
theorem exec_powerLoss (s : State) : exec (.powerLoss) s = execPowerLoss s := by simp only [exec]
theorem exec_hostLineAccess (pa : Nat) (data : List (BitVec 8)) (write : Bool) (s : State) : exec (.hostLineAccess pa data write) s = execHostLineAccess pa data write s := by simp only [exec]

/-! ## Issue checks -/

theorem trap_nop {s : State} {k : Trap} (h : issueTrap .nop s = some k) :
    exec .nop s = .next (wordTrap s k) := by
  simp only [exec, execNop]
  exact runWord_trap h _

theorem trap_ret {s : State} {k : Trap} (h : issueTrap .ret s = some k) :
    exec .ret s = .next (wordTrap s k) := by
  simp only [exec, execRet]
  exact runWord_trap h _

theorem trap_matl {s : State} {k : Trap} (h : issueTrap .matl s = some k) :
    exec .matl s = .next (wordTrap s k) := by
  simp only [exec, execMatl]
  exact runWord_trap h _

theorem trap_rjoin (a : BitVec 7) (b : BitVec 7) {s : State} {k : Trap} (h : issueTrap (.rjoin a b) s = some k) :
    exec (.rjoin a b) s = .next (wordTrap s k) := by
  simp only [exec, execRjoin]
  exact runFlow_trap h _

theorem trap_join {s : State} {k : Trap} (h : issueTrap .join s = some k) :
    exec .join s = .next (wordTrap s k) := by
  simp only [exec, execJoin]
  exact runFlow_trap h _

theorem trap_yield {s : State} {k : Trap} (h : issueTrap .yield s = some k) :
    exec .yield s = .next (wordTrap s k) := by
  simp only [exec, execYield]
  exact runWord_trap h _

theorem trap_exit {s : State} {k : Trap} (h : issueTrap .exit s = some k) :
    exec .exit s = .next (wordTrap s k) := by
  simp only [exec, execExit]
  exact runFlow_trap h _

theorem trap_hret {s : State} {k : Trap} (h : issueTrap .hret s = some k) :
    exec .hret s = .next (wordTrap s k) := by
  simp only [exec, execHret]
  exact runFlow_trap h _

theorem trap_time (d : BitVec 7) {s : State} {k : Trap} (h : issueTrap (.time d) s = some k) :
    exec (.time d) s = .next (wordTrap s k) := by
  simp only [exec, execTime]
  exact runWord_trap h _

theorem trap_laneid (d : BitVec 7) {s : State} {k : Trap} (h : issueTrap (.laneid d) s = some k) :
    exec (.laneid d) s = .next (wordTrap s k) := by
  simp only [exec, execLaneid]
  exact runWord_trap h _

theorem trap_idx (d : BitVec 7) (b : BitVec 7) {s : State} {k : Trap} (h : issueTrap (.idx d b) s = some k) :
    exec (.idx d b) s = .next (wordTrap s k) := by
  simp only [exec, execIdx]
  exact runWord_trap h _

theorem trap_locq (d : BitVec 7) (a : BitVec 7) {s : State} {k : Trap} (h : issueTrap (.locq d a) s = some k) :
    exec (.locq d a) s = .next (wordTrap s k) := by
  simp only [exec, execLocq]
  exact runWord_trap h _

theorem trap_trap (b : BitVec 7) {s : State} {k : Trap} (h : issueTrap (.trap b) s = some k) :
    exec (.trap b) s = .next (wordTrap s k) := by
  simp only [exec, execTrap]
  exact runWord_trap h _

theorem trap_launch (d : BitVec 7) (a : BitVec 7) (b : BitVec 7) {s : State} {k : Trap} (h : issueTrap (.launch d a b) s = some k) :
    exec (.launch d a b) s = .next (wordTrap s k) := by
  simp only [exec, execLaunch]
  exact runWord_trap h _

theorem trap_xset (d : BitVec 7) (b : BitVec 7) {s : State} {k : Trap} (h : issueTrap (.xset d b) s = some k) :
    exec (.xset d b) s = .next (wordTrap s k) := by
  simp only [exec, execXset]
  exact runWord_trap h _

theorem trap_bra (disp : BitVec 16) {s : State} {k : Trap} (h : issueTrap (.bra disp) s = some k) :
    exec (.bra disp) s = .next (wordTrap s k) := by
  simp only [exec, execBra]
  exact runWord_trap h _

theorem trap_call (disp : BitVec 16) {s : State} {k : Trap} (h : issueTrap (.call disp) s = some k) :
    exec (.call disp) s = .next (wordTrap s k) := by
  simp only [exec, execCall]
  exact runWord_trap h _

theorem trap_loop (reg : BitVec 5) (disp : BitVec 16) {s : State} {k : Trap} (h : issueTrap (.loop reg disp) s = some k) :
    exec (.loop reg disp) s = .next (wordTrap s k) := by
  simp only [exec, execLoop]
  exact runWord_trap h _

theorem trap_brc (cond : BitVec 4) (reg : BitVec 5) (disp : BitVec 16) {s : State} {k : Trap} (h : issueTrap (.brc cond reg disp) s = some k) :
    exec (.brc cond reg disp) s = .next (wordTrap s k) := by
  simp only [exec, execBrc]
  exact runFlow_trap h _

theorem trap_brv (sense : BitVec 1) (preg : BitVec 3) (disp : BitVec 16) {s : State} {k : Trap} (h : issueTrap (.brv sense preg disp) s = some k) :
    exec (.brv sense preg disp) s = .next (wordTrap s k) := by
  simp only [exec, execBrv]
  exact runFlow_trap h _

theorem trap_brx (a : BitVec 7) {s : State} {k : Trap} (h : issueTrap (.brx a) s = some k) :
    exec (.brx a) s = .next (wordTrap s k) := by
  simp only [exec, execBrx]
  exact runFlow_trap h _

theorem trap_aadd (d : BitVec 7) (a : BitVec 7) (b : BitVec 7) {s : State} {k : Trap} (h : issueTrap (.aadd d a b) s = some k) :
    exec (.aadd d a b) s = .next (wordTrap s k) := by
  simp only [exec, execAadd, affineWord]
  exact runFlow_trap h _

theorem trap_asub (d : BitVec 7) (a : BitVec 7) (b : BitVec 7) {s : State} {k : Trap} (h : issueTrap (.asub d a b) s = some k) :
    exec (.asub d a b) s = .next (wordTrap s k) := by
  simp only [exec, execAsub, affineWord]
  exact runFlow_trap h _

theorem trap_amul (d : BitVec 7) (a : BitVec 7) (b : BitVec 7) {s : State} {k : Trap} (h : issueTrap (.amul d a b) s = some k) :
    exec (.amul d a b) s = .next (wordTrap s k) := by
  simp only [exec, execAmul, affineWord]
  exact runFlow_trap h _

theorem trap_ashl (d : BitVec 7) (a : BitVec 7) (b : BitVec 7) {s : State} {k : Trap} (h : issueTrap (.ashl d a b) s = some k) :
    exec (.ashl d a b) s = .next (wordTrap s k) := by
  simp only [exec, execAshl, affineWord]
  exact runFlow_trap h _

theorem trap_ashr (d : BitVec 7) (a : BitVec 7) (b : BitVec 7) {s : State} {k : Trap} (h : issueTrap (.ashr d a b) s = some k) :
    exec (.ashr d a b) s = .next (wordTrap s k) := by
  simp only [exec, execAshr, affineWord]
  exact runFlow_trap h _

theorem trap_aand (d : BitVec 7) (a : BitVec 7) (b : BitVec 7) {s : State} {k : Trap} (h : issueTrap (.aand d a b) s = some k) :
    exec (.aand d a b) s = .next (wordTrap s k) := by
  simp only [exec, execAand, affineWord]
  exact runFlow_trap h _

theorem trap_aor (d : BitVec 7) (a : BitVec 7) (b : BitVec 7) {s : State} {k : Trap} (h : issueTrap (.aor d a b) s = some k) :
    exec (.aor d a b) s = .next (wordTrap s k) := by
  simp only [exec, execAor, affineWord]
  exact runFlow_trap h _

theorem trap_axor (d : BitVec 7) (a : BitVec 7) (b : BitVec 7) {s : State} {k : Trap} (h : issueTrap (.axor d a b) s = some k) :
    exec (.axor d a b) s = .next (wordTrap s k) := by
  simp only [exec, execAxor, affineWord]
  exact runFlow_trap h _

theorem trap_amin (d : BitVec 7) (a : BitVec 7) (b : BitVec 7) {s : State} {k : Trap} (h : issueTrap (.amin d a b) s = some k) :
    exec (.amin d a b) s = .next (wordTrap s k) := by
  simp only [exec, execAmin, affineWord]
  exact runFlow_trap h _

theorem trap_amax (d : BitVec 7) (a : BitVec 7) (b : BitVec 7) {s : State} {k : Trap} (h : issueTrap (.amax d a b) s = some k) :
    exec (.amax d a b) s = .next (wordTrap s k) := by
  simp only [exec, execAmax, affineWord]
  exact runFlow_trap h _

theorem trap_acmpEq (d : BitVec 7) (a : BitVec 7) (b : BitVec 7) {s : State} {k : Trap} (h : issueTrap (.acmpEq d a b) s = some k) :
    exec (.acmpEq d a b) s = .next (wordTrap s k) := by
  simp only [exec, execAcmpEq, affineWord]
  exact runFlow_trap h _

theorem trap_acmpNe (d : BitVec 7) (a : BitVec 7) (b : BitVec 7) {s : State} {k : Trap} (h : issueTrap (.acmpNe d a b) s = some k) :
    exec (.acmpNe d a b) s = .next (wordTrap s k) := by
  simp only [exec, execAcmpNe, affineWord]
  exact runFlow_trap h _

theorem trap_acmpLt (d : BitVec 7) (a : BitVec 7) (b : BitVec 7) {s : State} {k : Trap} (h : issueTrap (.acmpLt d a b) s = some k) :
    exec (.acmpLt d a b) s = .next (wordTrap s k) := by
  simp only [exec, execAcmpLt, affineWord]
  exact runFlow_trap h _

theorem trap_acmpLe (d : BitVec 7) (a : BitVec 7) (b : BitVec 7) {s : State} {k : Trap} (h : issueTrap (.acmpLe d a b) s = some k) :
    exec (.acmpLe d a b) s = .next (wordTrap s k) := by
  simp only [exec, execAcmpLe, affineWord]
  exact runFlow_trap h _

theorem trap_acmpLtu (d : BitVec 7) (a : BitVec 7) (b : BitVec 7) {s : State} {k : Trap} (h : issueTrap (.acmpLtu d a b) s = some k) :
    exec (.acmpLtu d a b) s = .next (wordTrap s k) := by
  simp only [exec, execAcmpLtu, affineWord]
  exact runFlow_trap h _

theorem trap_acmpLeu (d : BitVec 7) (a : BitVec 7) (b : BitVec 7) {s : State} {k : Trap} (h : issueTrap (.acmpLeu d a b) s = some k) :
    exec (.acmpLeu d a b) s = .next (wordTrap s k) := by
  simp only [exec, execAcmpLeu, affineWord]
  exact runFlow_trap h _

theorem trap_aaddi (d : BitVec 7) (a : BitVec 7) (imm : BitVec 11) {s : State} {k : Trap} (h : issueTrap (.aaddi d a imm) s = some k) :
    exec (.aaddi d a imm) s = .next (wordTrap s k) := by
  simp only [exec, execAaddi, affineWord]
  exact runFlow_trap h _

theorem trap_amuli (d : BitVec 7) (a : BitVec 7) (imm : BitVec 11) {s : State} {k : Trap} (h : issueTrap (.amuli d a imm) s = some k) :
    exec (.amuli d a imm) s = .next (wordTrap s k) := by
  simp only [exec, execAmuli, affineWord]
  exact runFlow_trap h _

theorem trap_ashli (d : BitVec 7) (a : BitVec 7) (imm : BitVec 11) {s : State} {k : Trap} (h : issueTrap (.ashli d a imm) s = some k) :
    exec (.ashli d a imm) s = .next (wordTrap s k) := by
  simp only [exec, execAshli, affineWord]
  exact runFlow_trap h _

theorem trap_ashri (d : BitVec 7) (a : BitVec 7) (imm : BitVec 11) {s : State} {k : Trap} (h : issueTrap (.ashri d a imm) s = some k) :
    exec (.ashri d a imm) s = .next (wordTrap s k) := by
  simp only [exec, execAshri, affineWord]
  exact runFlow_trap h _

theorem trap_amovi (d : BitVec 7) (imm : BitVec 11) {s : State} {k : Trap} (h : issueTrap (.amovi d imm) s = some k) :
    exec (.amovi d imm) s = .next (wordTrap s k) := by
  simp only [exec, execAmovi, affineWord]
  exact runFlow_trap h _

theorem trap_aandi (d : BitVec 7) (a : BitVec 7) (imm : BitVec 11) {s : State} {k : Trap} (h : issueTrap (.aandi d a imm) s = some k) :
    exec (.aandi d a imm) s = .next (wordTrap s k) := by
  simp only [exec, execAandi, affineWord]
  exact runFlow_trap h _

theorem trap_ald (data : BitVec 7) (base : BitVec 5) (disp6 : BitVec 6) {s : State} {k : Trap} (h : issueTrap (.ald data base disp6) s = some k) :
    exec (.ald data base disp6) s = .next (wordTrap s k) := by
  simp only [exec, execAld]
  exact runWord_trap h _

theorem trap_pand (pd : BitVec 3) (pa : BitVec 3) (pb : BitVec 3) {s : State} {k : Trap} (h : issueTrap (.pand pd pa pb) s = some k) :
    exec (.pand pd pa pb) s = .next (wordTrap s k) := by
  simp only [exec, execPand, predWord]
  exact runWord_trap h _

theorem trap_por (pd : BitVec 3) (pa : BitVec 3) (pb : BitVec 3) {s : State} {k : Trap} (h : issueTrap (.por pd pa pb) s = some k) :
    exec (.por pd pa pb) s = .next (wordTrap s k) := by
  simp only [exec, execPor, predWord]
  exact runWord_trap h _

theorem trap_pxor (pd : BitVec 3) (pa : BitVec 3) (pb : BitVec 3) {s : State} {k : Trap} (h : issueTrap (.pxor pd pa pb) s = some k) :
    exec (.pxor pd pa pb) s = .next (wordTrap s k) := by
  simp only [exec, execPxor, predWord]
  exact runWord_trap h _

theorem trap_pnot (pd : BitVec 3) (pa : BitVec 3) {s : State} {k : Trap} (h : issueTrap (.pnot pd pa) s = some k) :
    exec (.pnot pd pa) s = .next (wordTrap s k) := by
  simp only [exec, execPnot, predWord]
  exact runWord_trap h _

theorem trap_pcnt (d : BitVec 7) (pa : BitVec 3) {s : State} {k : Trap} (h : issueTrap (.pcnt d pa) s = some k) :
    exec (.pcnt d pa) s = .next (wordTrap s k) := by
  simp only [exec, execPcnt]
  exact runWord_trap h _

theorem trap_pfirstA (d : BitVec 7) (pa : BitVec 3) {s : State} {k : Trap} (h : issueTrap (.pfirstA d pa) s = some k) :
    exec (.pfirstA d pa) s = .next (wordTrap s k) := by
  simp only [exec, execPfirstA]
  exact runWord_trap h _

theorem trap_pfirstP (pd : BitVec 3) (pa : BitVec 3) {s : State} {k : Trap} (h : issueTrap (.pfirstP pd pa) s = some k) :
    exec (.pfirstP pd pa) s = .next (wordTrap s k) := by
  simp only [exec, execPfirstP]
  exact runWord_trap h _

theorem trap_ballot (d : BitVec 7) (a : BitVec 7) {s : State} {k : Trap} (h : issueTrap (.ballot d a) s = some k) :
    exec (.ballot d a) s = .next (wordTrap s k) := by
  simp only [exec, execBallot]
  exact runWord_trap h _

theorem trap_gets (d : BitVec 7) (b : BitVec 7) {s : State} {k : Trap} (h : issueTrap (.gets d b) s = some k) :
    exec (.gets d b) s = .next (wordTrap s k) := by
  simp only [exec, execGets]
  exact runWord_trap h _

theorem trap_sets (a : BitVec 7) (b : BitVec 7) {s : State} {k : Trap} (h : issueTrap (.sets a b) s = some k) :
    exec (.sets a b) s = .next (wordTrap s k) := by
  simp only [exec, execSets]
  exact runWord_trap h _

theorem trap_lread (d : BitVec 7) (a : BitVec 7) (b : BitVec 7) {s : State} {k : Trap} (h : issueTrap (.lread d a b) s = some k) :
    exec (.lread d a b) s = .next (wordTrap s k) := by
  simp only [exec, execLread]
  exact runWord_trap h _

theorem trap_lwrite (d : BitVec 7) (a : BitVec 7) (b : BitVec 7) {s : State} {k : Trap} (h : issueTrap (.lwrite d a b) s = some k) :
    exec (.lwrite d a b) s = .next (wordTrap s k) := by
  simp only [exec, execLwrite]
  exact runWord_trap h _

theorem trap_iadd (d : BitVec 7) (a : BitVec 7) (b : BitVec 7) (f : BitVec 4) {s : State} {k : Trap} (h : issueTrap (.iadd d a b f) s = some k) :
    exec (.iadd d a b f) s = .next (wordTrap s k) := by
  simp only [exec, execIadd, sumWord]
  exact runWord_trap h _

theorem trap_isub (d : BitVec 7) (a : BitVec 7) (b : BitVec 7) (f : BitVec 4) {s : State} {k : Trap} (h : issueTrap (.isub d a b f) s = some k) :
    exec (.isub d a b f) s = .next (wordTrap s k) := by
  simp only [exec, execIsub, sumWord]
  exact runWord_trap h _

theorem trap_imul (d : BitVec 7) (a : BitVec 7) (b : BitVec 7) (f : BitVec 4) {s : State} {k : Trap} (h : issueTrap (.imul d a b f) s = some k) :
    exec (.imul d a b f) s = .next (wordTrap s k) := by
  simp only [exec, execImul, intWord, laneWord]
  exact runWord_trap h _

theorem trap_imulh (d : BitVec 7) (a : BitVec 7) (b : BitVec 7) (f3 : BitVec 3) {s : State} {k : Trap} (h : issueTrap (.imulh d a b f3) s = some k) :
    exec (.imulh d a b f3) s = .next (wordTrap s k) := by
  simp only [exec, execImulh, intWord, laneWord]
  exact runWord_trap h _

theorem trap_imad (d : BitVec 7) (a : BitVec 7) (b : BitVec 7) (f : BitVec 4) {s : State} {k : Trap} (h : issueTrap (.imad d a b f) s = some k) :
    exec (.imad d a b f) s = .next (wordTrap s k) := by
  simp only [exec, execImad, laneWord]
  exact runWord_trap h _

theorem trap_imin (d : BitVec 7) (a : BitVec 7) (b : BitVec 7) (f3 : BitVec 3) {s : State} {k : Trap} (h : issueTrap (.imin d a b f3) s = some k) :
    exec (.imin d a b f3) s = .next (wordTrap s k) := by
  simp only [exec, execImin, intWord, laneWord]
  exact runWord_trap h _

theorem trap_imax (d : BitVec 7) (a : BitVec 7) (b : BitVec 7) (f3 : BitVec 3) {s : State} {k : Trap} (h : issueTrap (.imax d a b f3) s = some k) :
    exec (.imax d a b f3) s = .next (wordTrap s k) := by
  simp only [exec, execImax, intWord, laneWord]
  exact runWord_trap h _

theorem trap_iabs (d : BitVec 7) (a : BitVec 7) (f : BitVec 4) {s : State} {k : Trap} (h : issueTrap (.iabs d a f) s = some k) :
    exec (.iabs d a f) s = .next (wordTrap s k) := by
  simp only [exec, execIabs, laneWord]
  exact runWord_trap h _

theorem trap_icmp (d : BitVec 7) (a : BitVec 7) (b : BitVec 7) (f3 : BitVec 3) {s : State} {k : Trap} (h : issueTrap (.icmp d a b f3) s = some k) :
    exec (.icmp d a b f3) s = .next (wordTrap s k) := by
  simp only [exec, execIcmp]
  exact runWord_trap h _

theorem trap_sel (d : BitVec 7) (a : BitVec 7) (b : BitVec 7) (f3 : BitVec 3) {s : State} {k : Trap} (h : issueTrap (.sel d a b f3) s = some k) :
    exec (.sel d a b f3) s = .next (wordTrap s k) := by
  simp only [exec, execSel]
  exact runWord_trap h _

theorem trap_and (d : BitVec 7) (a : BitVec 7) (b : BitVec 7) {s : State} {k : Trap} (h : issueTrap (.and d a b) s = some k) :
    exec (.and d a b) s = .next (wordTrap s k) := by
  simp only [exec, execAnd, bitWord, laneWord]
  exact runWord_trap h _

theorem trap_or (d : BitVec 7) (a : BitVec 7) (b : BitVec 7) {s : State} {k : Trap} (h : issueTrap (.or d a b) s = some k) :
    exec (.or d a b) s = .next (wordTrap s k) := by
  simp only [exec, execOr, bitWord, laneWord]
  exact runWord_trap h _

theorem trap_xor (d : BitVec 7) (a : BitVec 7) (b : BitVec 7) {s : State} {k : Trap} (h : issueTrap (.xor d a b) s = some k) :
    exec (.xor d a b) s = .next (wordTrap s k) := by
  simp only [exec, execXor, bitWord, laneWord]
  exact runWord_trap h _

theorem trap_andn (d : BitVec 7) (a : BitVec 7) (b : BitVec 7) {s : State} {k : Trap} (h : issueTrap (.andn d a b) s = some k) :
    exec (.andn d a b) s = .next (wordTrap s k) := by
  simp only [exec, execAndn, bitWord, laneWord]
  exact runWord_trap h _

theorem trap_shl (d : BitVec 7) (a : BitVec 7) (b : BitVec 7) {s : State} {k : Trap} (h : issueTrap (.shl d a b) s = some k) :
    exec (.shl d a b) s = .next (wordTrap s k) := by
  simp only [exec, execShl, bitWord, laneWord]
  exact runWord_trap h _

theorem trap_shr (d : BitVec 7) (a : BitVec 7) (b : BitVec 7) {s : State} {k : Trap} (h : issueTrap (.shr d a b) s = some k) :
    exec (.shr d a b) s = .next (wordTrap s k) := by
  simp only [exec, execShr, bitWord, laneWord]
  exact runWord_trap h _

theorem trap_sar (d : BitVec 7) (a : BitVec 7) (b : BitVec 7) {s : State} {k : Trap} (h : issueTrap (.sar d a b) s = some k) :
    exec (.sar d a b) s = .next (wordTrap s k) := by
  simp only [exec, execSar, bitWord, laneWord]
  exact runWord_trap h _

theorem trap_rotl (d : BitVec 7) (a : BitVec 7) (b : BitVec 7) {s : State} {k : Trap} (h : issueTrap (.rotl d a b) s = some k) :
    exec (.rotl d a b) s = .next (wordTrap s k) := by
  simp only [exec, execRotl, bitWord, laneWord]
  exact runWord_trap h _

theorem trap_popc (d : BitVec 7) (a : BitVec 7) {s : State} {k : Trap} (h : issueTrap (.popc d a) s = some k) :
    exec (.popc d a) s = .next (wordTrap s k) := by
  simp only [exec, execPopc, laneWord]
  exact runWord_trap h _

theorem trap_clz (d : BitVec 7) (a : BitVec 7) {s : State} {k : Trap} (h : issueTrap (.clz d a) s = some k) :
    exec (.clz d a) s = .next (wordTrap s k) := by
  simp only [exec, execClz, laneWord]
  exact runWord_trap h _

theorem trap_brev (d : BitVec 7) (a : BitVec 7) {s : State} {k : Trap} (h : issueTrap (.brev d a) s = some k) :
    exec (.brev d a) s = .next (wordTrap s k) := by
  simp only [exec, execBrev, laneWord]
  exact runWord_trap h _

theorem trap_blut (d : BitVec 7) (a : BitVec 7) (b : BitVec 7) {s : State} {k : Trap} (h : issueTrap (.blut d a b) s = some k) :
    exec (.blut d a b) s = .next (wordTrap s k) := by
  simp only [exec, execBlut, laneWord]
  exact runWord_trap h _

theorem trap_bshuf (d : BitVec 7) (a : BitVec 7) (b : BitVec 7) {s : State} {k : Trap} (h : issueTrap (.bshuf d a b) s = some k) :
    exec (.bshuf d a b) s = .next (wordTrap s k) := by
  simp only [exec, execBshuf, laneWord]
  exact runWord_trap h _

theorem trap_bcmpEq (d : BitVec 7) (a : BitVec 7) (b : BitVec 7) {s : State} {k : Trap} (h : issueTrap (.bcmpEq d a b) s = some k) :
    exec (.bcmpEq d a b) s = .next (wordTrap s k) := by
  simp only [exec, execBcmpEq, byteWord, laneWord]
  exact runWord_trap h _

theorem trap_bcmpLt (d : BitVec 7) (a : BitVec 7) (b : BitVec 7) {s : State} {k : Trap} (h : issueTrap (.bcmpLt d a b) s = some k) :
    exec (.bcmpLt d a b) s = .next (wordTrap s k) := by
  simp only [exec, execBcmpLt, byteWord, laneWord]
  exact runWord_trap h _

theorem trap_bcmpLtu (d : BitVec 7) (a : BitVec 7) (b : BitVec 7) {s : State} {k : Trap} (h : issueTrap (.bcmpLtu d a b) s = some k) :
    exec (.bcmpLtu d a b) s = .next (wordTrap s k) := by
  simp only [exec, execBcmpLtu, byteWord, laneWord]
  exact runWord_trap h _

theorem trap_baddsI8 (d : BitVec 7) (a : BitVec 7) (b : BitVec 7) {s : State} {k : Trap} (h : issueTrap (.baddsI8 d a b) s = some k) :
    exec (.baddsI8 d a b) s = .next (wordTrap s k) := by
  simp only [exec, execBaddsI8, byteWord, laneWord]
  exact runWord_trap h _

theorem trap_baddsN8 (d : BitVec 7) (a : BitVec 7) (b : BitVec 7) {s : State} {k : Trap} (h : issueTrap (.baddsN8 d a b) s = some k) :
    exec (.baddsN8 d a b) s = .next (wordTrap s k) := by
  simp only [exec, execBaddsN8, byteWord, laneWord]
  exact runWord_trap h _

theorem trap_lshc (d : BitVec 7) (a : BitVec 7) (b : BitVec 7) (f : BitVec 4) {s : State} {k : Trap} (h : issueTrap (.lshc d a b f) s = some k) :
    exec (.lshc d a b f) s = .next (wordTrap s k) := by
  simp only [exec, execLshc, laneWord]
  exact runWord_trap h _

theorem trap_xperm (d : BitVec 7) (a : BitVec 7) (b : BitVec 7) {s : State} {k : Trap} (h : issueTrap (.xperm d a b) s = some k) :
    exec (.xperm d a b) s = .next (wordTrap s k) := by
  simp only [exec, execXperm, laneWord]
  exact runWord_trap h _

theorem trap_vscan (d : BitVec 7) (a : BitVec 7) (f : BitVec 4) {s : State} {k : Trap} (h : issueTrap (.vscan d a f) s = some k) :
    exec (.vscan d a f) s = .next (wordTrap s k) := by
  simp only [exec, execVscan]
  exact runFlow_trap h _

theorem trap_vred (d : BitVec 7) (a : BitVec 7) (f : BitVec 4) {s : State} {k : Trap} (h : issueTrap (.vred d a f) s = some k) :
    exec (.vred d a f) s = .next (wordTrap s k) := by
  simp only [exec, execVred]
  exact runFlow_trap h _

theorem trap_fadd (d : BitVec 7) (a : BitVec 7) (b : BitVec 7) (f : BitVec 4) {s : State} {k : Trap} (h : issueTrap (.fadd d a b f) s = some k) :
    exec (.fadd d a b f) s = .next (wordTrap s k) := by
  simp only [exec, execFadd, floatWord]
  exact runFlow_trap h _

theorem trap_fsub (d : BitVec 7) (a : BitVec 7) (b : BitVec 7) (f : BitVec 4) {s : State} {k : Trap} (h : issueTrap (.fsub d a b f) s = some k) :
    exec (.fsub d a b f) s = .next (wordTrap s k) := by
  simp only [exec, execFsub, floatWord]
  exact runFlow_trap h _

theorem trap_fmul (d : BitVec 7) (a : BitVec 7) (b : BitVec 7) (f : BitVec 4) {s : State} {k : Trap} (h : issueTrap (.fmul d a b f) s = some k) :
    exec (.fmul d a b f) s = .next (wordTrap s k) := by
  simp only [exec, execFmul, floatWord]
  exact runFlow_trap h _

theorem trap_fma (d : BitVec 7) (a : BitVec 7) (b : BitVec 7) (f : BitVec 4) {s : State} {k : Trap} (h : issueTrap (.fma d a b f) s = some k) :
    exec (.fma d a b f) s = .next (wordTrap s k) := by
  simp only [exec, execFma, floatWord]
  exact runFlow_trap h _

theorem trap_fmin (d : BitVec 7) (a : BitVec 7) (b : BitVec 7) {s : State} {k : Trap} (h : issueTrap (.fmin d a b) s = some k) :
    exec (.fmin d a b) s = .next (wordTrap s k) := by
  simp only [exec, execFmin, floatWord]
  exact runFlow_trap h _

theorem trap_fmax (d : BitVec 7) (a : BitVec 7) (b : BitVec 7) {s : State} {k : Trap} (h : issueTrap (.fmax d a b) s = some k) :
    exec (.fmax d a b) s = .next (wordTrap s k) := by
  simp only [exec, execFmax, floatWord]
  exact runFlow_trap h _

theorem trap_fcmp (d : BitVec 7) (a : BitVec 7) (b : BitVec 7) {s : State} {k : Trap} (h : issueTrap (.fcmp d a b) s = some k) :
    exec (.fcmp d a b) s = .next (wordTrap s k) := by
  simp only [exec, execFcmp]
  exact runFlow_trap h _

theorem trap_fdiv (d : BitVec 7) (a : BitVec 7) (b : BitVec 7) (f : BitVec 4) {s : State} {k : Trap} (h : issueTrap (.fdiv d a b f) s = some k) :
    exec (.fdiv d a b f) s = .next (wordTrap s k) := by
  simp only [exec, execFdiv, floatWord]
  exact runFlow_trap h _

theorem trap_fsqrt (d : BitVec 7) (a : BitVec 7) (f : BitVec 4) {s : State} {k : Trap} (h : issueTrap (.fsqrt d a f) s = some k) :
    exec (.fsqrt d a f) s = .next (wordTrap s k) := by
  simp only [exec, execFsqrt, unitWord, floatWord]
  exact runFlow_trap h _

theorem trap_frcp (d : BitVec 7) (a : BitVec 7) (f : BitVec 4) {s : State} {k : Trap} (h : issueTrap (.frcp d a f) s = some k) :
    exec (.frcp d a f) s = .next (wordTrap s k) := by
  simp only [exec, execFrcp, unitWord, floatWord]
  exact runFlow_trap h _

theorem trap_frsq (d : BitVec 7) (a : BitVec 7) (f : BitVec 4) {s : State} {k : Trap} (h : issueTrap (.frsq d a f) s = some k) :
    exec (.frsq d a f) s = .next (wordTrap s k) := by
  simp only [exec, execFrsq, unitWord, floatWord]
  exact runFlow_trap h _

theorem trap_fexp2 (d : BitVec 7) (a : BitVec 7) (f : BitVec 4) {s : State} {k : Trap} (h : issueTrap (.fexp2 d a f) s = some k) :
    exec (.fexp2 d a f) s = .next (wordTrap s k) := by
  simp only [exec, execFexp2, unitWord, floatWord]
  exact runFlow_trap h _

theorem trap_flog2 (d : BitVec 7) (a : BitVec 7) (f : BitVec 4) {s : State} {k : Trap} (h : issueTrap (.flog2 d a f) s = some k) :
    exec (.flog2 d a f) s = .next (wordTrap s k) := by
  simp only [exec, execFlog2, unitWord, floatWord]
  exact runFlow_trap h _

theorem trap_fsin (d : BitVec 7) (a : BitVec 7) (f : BitVec 4) {s : State} {k : Trap} (h : issueTrap (.fsin d a f) s = some k) :
    exec (.fsin d a f) s = .next (wordTrap s k) := by
  simp only [exec, execFsin, unitWord, floatWord]
  exact runFlow_trap h _

theorem trap_fcos (d : BitVec 7) (a : BitVec 7) (f : BitVec 4) {s : State} {k : Trap} (h : issueTrap (.fcos d a f) s = some k) :
    exec (.fcos d a f) s = .next (wordTrap s k) := by
  simp only [exec, execFcos, unitWord, floatWord]
  exact runFlow_trap h _

theorem trap_fclass (d : BitVec 7) (a : BitVec 7) {s : State} {k : Trap} (h : issueTrap (.fclass d a) s = some k) :
    exec (.fclass d a) s = .next (wordTrap s k) := by
  simp only [exec, execFclass]
  exact runWord_trap h _

theorem trap_cvt (d : BitVec 7) (a : BitVec 7) (dt : BitVec 5) (f : BitVec 4) {s : State} {k : Trap} (h : issueTrap (.cvt d a dt f) s = some k) :
    exec (.cvt d a dt f) s = .next (wordTrap s k) := by
  simp only [exec, execCvt]
  exact runFlow_trap h _

theorem trap_xsum (data : BitVec 7) (base : BitVec 5) (index : BitVec 5) (scale : BitVec 2) (disp6 : BitVec 6) {s : State} {k : Trap} (h : issueTrap (.xsum data base index scale disp6) s = some k) :
    exec (.xsum data base index scale disp6) s = .next (wordTrap s k) := by
  simp only [exec, execXsum]
  exact runWord_trap h _

theorem trap_sumrd (data : BitVec 7) (base : BitVec 5) (index : BitVec 5) (scale : BitVec 2) (disp6 : BitVec 6) {s : State} {k : Trap} (h : issueTrap (.sumrd data base index scale disp6) s = some k) :
    exec (.sumrd data base index scale disp6) s = .next (wordTrap s k) := by
  simp only [exec, execSumrd]
  exact runWord_trap h _

theorem trap_ldg (data : BitVec 7) (base : BitVec 5) (index : BitVec 5) (scale : BitVec 2) (disp6 : BitVec 6) {s : State} {k : Trap} (h : issueTrap (.ldg data base index scale disp6) s = some k) :
    exec (.ldg data base index scale disp6) s = .next (wordTrap s k) := by
  simp only [exec, execLdg, loadWord]
  exact runWord_trap h _

theorem trap_ldgF (data : BitVec 7) (base : BitVec 5) (index : BitVec 5) (scale : BitVec 2) (disp6 : BitVec 6) {s : State} {k : Trap} (h : issueTrap (.ldgF data base index scale disp6) s = some k) :
    exec (.ldgF data base index scale disp6) s = .next (wordTrap s k) := by
  simp only [exec, execLdgF, loadWord]
  exact runWord_trap h _

theorem trap_stg (data : BitVec 7) (base : BitVec 5) (index : BitVec 5) (scale : BitVec 2) (disp6 : BitVec 6) {s : State} {k : Trap} (h : issueTrap (.stg data base index scale disp6) s = some k) :
    exec (.stg data base index scale disp6) s = .next (wordTrap s k) := by
  simp only [exec, execStg]
  exact runWord_trap h _

theorem trap_ldk (data : BitVec 7) (base : BitVec 5) (scale : BitVec 2) (disp6 : BitVec 6) {s : State} {k : Trap} (h : issueTrap (.ldk data base scale disp6) s = some k) :
    exec (.ldk data base scale disp6) s = .next (wordTrap s k) := by
  simp only [exec, execLdk]
  exact runWord_trap h _

theorem trap_pref (base : BitVec 5) (index : BitVec 5) (scale : BitVec 2) (disp6 : BitVec 6) {s : State} {k : Trap} (h : issueTrap (.pref base index scale disp6) s = some k) :
    exec (.pref base index scale disp6) s = .next (wordTrap s k) := by
  simp only [exec, execPref]
  exact runWord_trap h _

theorem trap_ldp (data : BitVec 7) (base : BitVec 5) (index : BitVec 5) (scale : BitVec 2) (disp6 : BitVec 6) {s : State} {k : Trap} (h : issueTrap (.ldp data base index scale disp6) s = some k) :
    exec (.ldp data base index scale disp6) s = .next (wordTrap s k) := by
  simp only [exec, execLdp]
  exact runWord_trap h _

theorem trap_stp (data : BitVec 7) (base : BitVec 5) (index : BitVec 5) (scale : BitVec 2) (disp6 : BitVec 6) {s : State} {k : Trap} (h : issueTrap (.stp data base index scale disp6) s = some k) :
    exec (.stp data base index scale disp6) s = .next (wordTrap s k) := by
  simp only [exec, execStp]
  exact runWord_trap h _

theorem trap_atomg (d : BitVec 7) (areg : BitVec 5) (b : BitVec 7) (f : BitVec 4) {s : State} {k : Trap} (h : issueTrap (.atomg d areg b f) s = some k) :
    exec (.atomg d areg b f) s = .next (wordTrap s k) := by
  simp only [exec, execAtomg]
  exact runFlow_trap h _

theorem trap_atomp (d : BitVec 7) (areg : BitVec 5) (b : BitVec 7) (f : BitVec 4) {s : State} {k : Trap} (h : issueTrap (.atomp d areg b f) s = some k) :
    exec (.atomp d areg b f) s = .next (wordTrap s k) := by
  simp only [exec, execAtomp]
  exact runWord_trap h _

theorem trap_atomr (d : BitVec 7) (areg : BitVec 5) (b : BitVec 7) (f : BitVec 4) {s : State} {k : Trap} (h : issueTrap (.atomr d areg b f) s = some k) :
    exec (.atomr d areg b f) s = .next (wordTrap s k) := by
  simp only [exec, execAtomr]
  exact runFlow_trap h _

theorem trap_cpy (d : BitVec 7) (a : BitVec 7) (b : BitVec 7) (ch : BitVec 2) {s : State} {k : Trap} (h : issueTrap (.cpy d a b ch) s = some k) :
    exec (.cpy d a b ch) s = .next (wordTrap s k) := by
  simp only [exec, execCpy, copyWord]
  exact runFlow_trap h _

theorem trap_cpyi (d : BitVec 7) (a : BitVec 7) (b : BitVec 7) (ch : BitVec 2) {s : State} {k : Trap} (h : issueTrap (.cpyi d a b ch) s = some k) :
    exec (.cpyi d a b ch) s = .next (wordTrap s k) := by
  simp only [exec, execCpyi, copyWord]
  exact runFlow_trap h _

theorem trap_cseal {s : State} {k : Trap} (h : issueTrap .cseal s = some k) :
    exec .cseal s = .next (wordTrap s k) := by
  simp only [exec, execCseal]
  exact runWord_trap h _

theorem trap_cwait (b : BitVec 7) {s : State} {k : Trap} (h : issueTrap (.cwait b) s = some k) :
    exec (.cwait b) s = .next (wordTrap s k) := by
  simp only [exec, execCwait]
  exact runFlow_trap h _

theorem trap_pempty (a : BitVec 7) (b : BitVec 7) {s : State} {k : Trap} (h : issueTrap (.pempty a b) s = some k) :
    exec (.pempty a b) s = .next (wordTrap s k) := by
  simp only [exec, execPempty]
  exact runWord_trap h _

theorem trap_fence {s : State} {k : Trap} (h : issueTrap .fence s = some k) :
    exec .fence s = .next (wordTrap s k) := by
  simp only [exec, execFence]
  exact runWord_trap h _

theorem trap_barinit (a : BitVec 7) (b : BitVec 7) {s : State} {k : Trap} (h : issueTrap (.barinit a b) s = some k) :
    exec (.barinit a b) s = .next (wordTrap s k) := by
  simp only [exec, execBarinit]
  exact runWord_trap h _

theorem trap_bararr (d : BitVec 7) (a : BitVec 7) {s : State} {k : Trap} (h : issueTrap (.bararr d a) s = some k) :
    exec (.bararr d a) s = .next (wordTrap s k) := by
  simp only [exec, execBararr]
  exact runWord_trap h _

theorem trap_barwait (a : BitVec 7) (b : BitVec 7) {s : State} {k : Trap} (h : issueTrap (.barwait a b) s = some k) :
    exec (.barwait a b) s = .next (wordTrap s k) := by
  simp only [exec, execBarwait]
  exact runWord_trap h _

theorem trap_barinv (a : BitVec 7) {s : State} {k : Trap} (h : issueTrap (.barinv a) s = some k) :
    exec (.barinv a) s = .next (wordTrap s k) := by
  simp only [exec, execBarinv]
  exact runWord_trap h _

theorem trap_semw (d : BitVec 7) (a : BitVec 7) (b : BitVec 7) {s : State} {k : Trap} (h : issueTrap (.semw d a b) s = some k) :
    exec (.semw d a b) s = .next (wordTrap s k) := by
  simp only [exec, execSemw]
  exact runFlow_trap h _

theorem trap_sems (a : BitVec 7) (b : BitVec 7) {s : State} {k : Trap} (h : issueTrap (.sems a b) s = some k) :
    exec (.sems a b) s = .next (wordTrap s k) := by
  simp only [exec, execSems]
  exact runWord_trap h _

theorem trap_tlbinv (a : BitVec 7) (b : BitVec 7) {s : State} {k : Trap} (h : issueTrap (.tlbinv a b) s = some k) :
    exec (.tlbinv a b) s = .next (wordTrap s k) := by
  simp only [exec, execTlbinv]
  exact runFlow_trap h _

theorem trap_sendq (d : BitVec 7) (a : BitVec 7) (b : BitVec 7) {s : State} {k : Trap} (h : issueTrap (.sendq d a b) s = some k) :
    exec (.sendq d a b) s = .next (wordTrap s k) := by
  simp only [exec, execSendq]
  exact runWord_trap h _

theorem trap_recvq (d : BitVec 7) (a : BitVec 7) {s : State} {k : Trap} (h : issueTrap (.recvq d a) s = some k) :
    exec (.recvq d a) s = .next (wordTrap s k) := by
  simp only [exec, execRecvq]
  exact runFlow_trap h _

theorem trap_padopen (win : BitVec 2) (rights : BitVec 2) (a : BitVec 7) (b : BitVec 7) {s : State} {k : Trap} (h : issueTrap (.padopen win rights a b) s = some k) :
    exec (.padopen win rights a b) s = .next (wordTrap s k) := by
  simp only [exec, execPadopen]
  exact runWord_trap h _

theorem trap_poolset (d : BitVec 7) (src : BitVec 3) (dst : BitVec 3) (b : BitVec 7) (f3 : BitVec 3) {s : State} {k : Trap} (h : issueTrap (.poolset d src dst b f3) s = some k) :
    exec (.poolset d src dst b f3) s = .next (wordTrap s k) := by
  simp only [exec, execPoolset]
  exact runFlow_trap h _

theorem trap_poolq (d : BitVec 7) (src : BitVec 3) (dst : BitVec 3) {s : State} {k : Trap} (h : issueTrap (.poolq d src dst) s = some k) :
    exec (.poolq d src dst) s = .next (wordTrap s k) := by
  simp only [exec, execPoolq]
  exact runWord_trap h _

theorem trap_mma (tile : BitVec 3) (ka : BitVec 7) (kb : BitVec 7) (fmt : BitVec 4) (step : BitVec 2) {s : State} {k : Trap} (h : issueTrap (.mma tile ka kb fmt step) s = some k) :
    exec (.mma tile ka kb fmt step) s = .next (wordTrap s k) := by
  simp only [exec, execMma]
  exact runWord_trap h _

theorem trap_mmas (tile : BitVec 3) (ka : BitVec 7) (kb : BitVec 7) (fmt : BitVec 4) (step : BitVec 2) {s : State} {k : Trap} (h : issueTrap (.mmas tile ka kb fmt step) s = some k) :
    exec (.mmas tile ka kb fmt step) s = .next (wordTrap s k) := by
  simp only [exec, execMmas]
  exact runWord_trap h _

theorem trap_mzero (tile : BitVec 3) (i32 : BitVec 1) {s : State} {k : Trap} (h : issueTrap (.mzero tile i32) s = some k) :
    exec (.mzero tile i32) s = .next (wordTrap s k) := by
  simp only [exec, execMzero]
  exact runWord_trap h _

theorem trap_mload (tile : BitVec 3) (ka : BitVec 7) (i32 : BitVec 1) {s : State} {k : Trap} (h : issueTrap (.mload tile ka i32) s = some k) :
    exec (.mload tile ka i32) s = .next (wordTrap s k) := by
  simp only [exec, execMload]
  exact runWord_trap h _

theorem trap_mdrain (tile : BitVec 3) (ka : BitVec 7) (flags : BitVec 4) {s : State} {k : Trap} (h : issueTrap (.mdrain tile ka flags) s = some k) :
    exec (.mdrain tile ka flags) s = .next (wordTrap s k) := by
  simp only [exec, execMdrain]
  exact runWord_trap h _

theorem trap_mseal {s : State} {k : Trap} (h : issueTrap .mseal s = some k) :
    exec .mseal s = .next (wordTrap s k) := by
  simp only [exec, execMseal]
  exact runWord_trap h _

theorem trap_mwait (flags : BitVec 4) {s : State} {k : Trap} (h : issueTrap (.mwait flags) s = some k) :
    exec (.mwait flags) s = .next (wordTrap s k) := by
  simp only [exec, execMwait]
  exact runFlow_trap h _

theorem trap_epload (tile : BitVec 3) (ka : BitVec 7) {s : State} {k : Trap} (h : issueTrap (.epload tile ka) s = some k) :
    exec (.epload tile ka) s = .next (wordTrap s k) := by
  simp only [exec, execEpload]
  exact runWord_trap h _

theorem trap_rset (d : BitVec 7) (a : BitVec 7) (b : BitVec 7) (ch : BitVec 2) {s : State} {k : Trap} (h : issueTrap (.rset d a b ch) s = some k) :
    exec (.rset d a b ch) s = .next (wordTrap s k) := by
  simp only [exec, execRset]
  exact runWord_trap h _

theorem trap_rast (d : BitVec 7) (a : BitVec 7) (bw : BitVec 3) (bp : BitVec 3) {s : State} {k : Trap} (h : issueTrap (.rast d a bw bp) s = some k) :
    exec (.rast d a bw bp) s = .next (wordTrap s k) := by
  simp only [exec, execRast]
  exact runWord_trap h _

theorem trap_travset (d : BitVec 7) (bpair : BitVec 4) {s : State} {k : Trap} (h : issueTrap (.travset d bpair) s = some k) :
    exec (.travset d bpair) s = .next (wordTrap s k) := by
  simp only [exec, execTravset]
  exact runWord_trap h _

theorem trap_travRay (d : BitVec 7) (a : BitVec 7) (bpair : BitVec 4) (bp : BitVec 3) {s : State} {k : Trap} (h : issueTrap (.travRay d a bpair bp) s = some k) :
    exec (.travRay d a bpair bp) s = .next (wordTrap s k) := by
  simp only [exec, execTravRay, travWord]
  exact runFlow_trap h _

theorem trap_travBox (d : BitVec 7) (a : BitVec 7) (bpair : BitVec 4) (bp : BitVec 3) {s : State} {k : Trap} (h : issueTrap (.travBox d a bpair bp) s = some k) :
    exec (.travBox d a bpair bp) s = .next (wordTrap s k) := by
  simp only [exec, execTravBox, travWord]
  exact runFlow_trap h _

theorem trap_fbload (dch : BitVec 2) (a : BitVec 7) (b : BitVec 7) {s : State} {k : Trap} (h : issueTrap (.fbload dch a b) s = some k) :
    exec (.fbload dch a b) s = .next (wordTrap s k) := by
  simp only [exec, execFbload]
  exact runWord_trap h _

theorem trap_fbstore (dch : BitVec 2) (a : BitVec 7) (b : BitVec 7) {s : State} {k : Trap} (h : issueTrap (.fbstore dch a b) s = some k) :
    exec (.fbstore dch a b) s = .next (wordTrap s k) := by
  simp only [exec, execFbstore]
  exact runWord_trap h _

theorem trap_fbdone (a : BitVec 7) (b : BitVec 7) {s : State} {k : Trap} (h : issueTrap (.fbdone a b) s = some k) :
    exec (.fbdone a b) s = .next (wordTrap s k) := by
  simp only [exec, execFbdone]
  exact runWord_trap h _

theorem trap_vtest (pd : BitVec 3) (pa : BitVec 3) (b : BitVec 7) (f : BitVec 4) {s : State} {k : Trap} (h : issueTrap (.vtest pd pa b f) s = some k) :
    exec (.vtest pd pa b f) s = .next (wordTrap s k) := by
  simp only [exec, execVtest]
  exact runFlow_trap h _

theorem trap_fbw (d : BitVec 7) (pa : BitVec 3) (b : BitVec 7) (f : BitVec 4) {s : State} {k : Trap} (h : issueTrap (.fbw d pa b f) s = some k) :
    exec (.fbw d pa b f) s = .next (wordTrap s k) := by
  simp only [exec, execFbw]
  exact runFlow_trap h _

theorem trap_vsplit (wd : BitVec 3) (wr : BitVec 3) (pa : BitVec 3) {s : State} {k : Trap} (h : issueTrap (.vsplit wd wr pa) s = some k) :
    exec (.vsplit wd wr pa) s = .next (wordTrap s k) := by
  simp only [exec, execVsplit, toolPair]
  exact runWord_trap h _

theorem trap_vends (d : BitVec 7) (pa : BitVec 3) {s : State} {k : Trap} (h : issueTrap (.vends d pa) s = some k) :
    exec (.vends d pa) s = .next (wordTrap s k) := by
  simp only [exec, execVends]
  exact runWord_trap h _

theorem trap_vmask (pd : BitVec 3) (pa : BitVec 3) (b : BitVec 7) {s : State} {k : Trap} (h : issueTrap (.vmask pd pa b) s = some k) :
    exec (.vmask pd pa b) s = .next (wordTrap s k) := by
  simp only [exec, execVmask, toolWord]
  exact runWord_trap h _

theorem trap_vagree (gwd : BitVec 3) (gws : BitVec 3) (gt : BitVec 5) (gva : BitVec 5) (gvb : BitVec 5) {s : State} {k : Trap} (h : issueTrap (.vagree gwd gws gt gva gvb) s = some k) :
    exec (.vagree gwd gws gt gva gvb) s = .next (wordTrap s k) := by
  simp only [exec, execVagree, toolWord]
  exact runWord_trap h _

theorem trap_vhalve (wd : BitVec 3) (wr : BitVec 3) (pa : BitVec 3) {s : State} {k : Trap} (h : issueTrap (.vhalve wd wr pa) s = some k) :
    exec (.vhalve wd wr pa) s = .next (wordTrap s k) := by
  simp only [exec, execVhalve, toolPair]
  exact runWord_trap h _

/-- A word of the table, but for XPFX, that fails an issue check. -/
theorem exec_issueTrap {i : Instr} {c : BitVec 1} {w : Word32} {s : State} {k : Trap} (he : encode c i = some w)
    (hx : ∀ n p, i ≠ .xpfx n p) (h : issueTrap i s = some k) : exec i s = .next (wordTrap s k) := by
  cases i with
  | nop => exact trap_nop h
  | ret => exact trap_ret h
  | matl => exact trap_matl h
  | rjoin => exact trap_rjoin _ _ h
  | join => exact trap_join h
  | yield => exact trap_yield h
  | exit => exact trap_exit h
  | hret => exact trap_hret h
  | time => exact trap_time _ h
  | laneid => exact trap_laneid _ h
  | idx => exact trap_idx _ _ h
  | locq => exact trap_locq _ _ h
  | trap => exact trap_trap _ h
  | launch => exact trap_launch _ _ _ h
  | xset => exact trap_xset _ _ h
  | bra => exact trap_bra _ h
  | call => exact trap_call _ h
  | loop => exact trap_loop _ _ h
  | brc => exact trap_brc _ _ _ h
  | brv => exact trap_brv _ _ _ h
  | brx => exact trap_brx _ h
  | aadd => exact trap_aadd _ _ _ h
  | asub => exact trap_asub _ _ _ h
  | amul => exact trap_amul _ _ _ h
  | ashl => exact trap_ashl _ _ _ h
  | ashr => exact trap_ashr _ _ _ h
  | aand => exact trap_aand _ _ _ h
  | aor => exact trap_aor _ _ _ h
  | axor => exact trap_axor _ _ _ h
  | amin => exact trap_amin _ _ _ h
  | amax => exact trap_amax _ _ _ h
  | acmpEq => exact trap_acmpEq _ _ _ h
  | acmpNe => exact trap_acmpNe _ _ _ h
  | acmpLt => exact trap_acmpLt _ _ _ h
  | acmpLe => exact trap_acmpLe _ _ _ h
  | acmpLtu => exact trap_acmpLtu _ _ _ h
  | acmpLeu => exact trap_acmpLeu _ _ _ h
  | aaddi => exact trap_aaddi _ _ _ h
  | amuli => exact trap_amuli _ _ _ h
  | ashli => exact trap_ashli _ _ _ h
  | ashri => exact trap_ashri _ _ _ h
  | amovi => exact trap_amovi _ _ h
  | aandi => exact trap_aandi _ _ _ h
  | ald => exact trap_ald _ _ _ h
  | pand => exact trap_pand _ _ _ h
  | por => exact trap_por _ _ _ h
  | pxor => exact trap_pxor _ _ _ h
  | pnot => exact trap_pnot _ _ h
  | pcnt => exact trap_pcnt _ _ h
  | pfirstA => exact trap_pfirstA _ _ h
  | pfirstP => exact trap_pfirstP _ _ h
  | ballot => exact trap_ballot _ _ h
  | gets => exact trap_gets _ _ h
  | sets => exact trap_sets _ _ h
  | lread => exact trap_lread _ _ _ h
  | lwrite => exact trap_lwrite _ _ _ h
  | iadd => exact trap_iadd _ _ _ _ h
  | isub => exact trap_isub _ _ _ _ h
  | imul => exact trap_imul _ _ _ _ h
  | imulh => exact trap_imulh _ _ _ _ h
  | imad => exact trap_imad _ _ _ _ h
  | imin => exact trap_imin _ _ _ _ h
  | imax => exact trap_imax _ _ _ _ h
  | iabs => exact trap_iabs _ _ _ h
  | icmp => exact trap_icmp _ _ _ _ h
  | sel => exact trap_sel _ _ _ _ h
  | and => exact trap_and _ _ _ h
  | or => exact trap_or _ _ _ h
  | xor => exact trap_xor _ _ _ h
  | andn => exact trap_andn _ _ _ h
  | shl => exact trap_shl _ _ _ h
  | shr => exact trap_shr _ _ _ h
  | sar => exact trap_sar _ _ _ h
  | rotl => exact trap_rotl _ _ _ h
  | popc => exact trap_popc _ _ h
  | clz => exact trap_clz _ _ h
  | brev => exact trap_brev _ _ h
  | blut => exact trap_blut _ _ _ h
  | bshuf => exact trap_bshuf _ _ _ h
  | bcmpEq => exact trap_bcmpEq _ _ _ h
  | bcmpLt => exact trap_bcmpLt _ _ _ h
  | bcmpLtu => exact trap_bcmpLtu _ _ _ h
  | baddsI8 => exact trap_baddsI8 _ _ _ h
  | baddsN8 => exact trap_baddsN8 _ _ _ h
  | lshc => exact trap_lshc _ _ _ _ h
  | xperm => exact trap_xperm _ _ _ h
  | vscan => exact trap_vscan _ _ _ h
  | vred => exact trap_vred _ _ _ h
  | fadd => exact trap_fadd _ _ _ _ h
  | fsub => exact trap_fsub _ _ _ _ h
  | fmul => exact trap_fmul _ _ _ _ h
  | fma => exact trap_fma _ _ _ _ h
  | fmin => exact trap_fmin _ _ _ h
  | fmax => exact trap_fmax _ _ _ h
  | fcmp => exact trap_fcmp _ _ _ h
  | fdiv => exact trap_fdiv _ _ _ _ h
  | fsqrt => exact trap_fsqrt _ _ _ h
  | frcp => exact trap_frcp _ _ _ h
  | frsq => exact trap_frsq _ _ _ h
  | fexp2 => exact trap_fexp2 _ _ _ h
  | flog2 => exact trap_flog2 _ _ _ h
  | fsin => exact trap_fsin _ _ _ h
  | fcos => exact trap_fcos _ _ _ h
  | fclass => exact trap_fclass _ _ h
  | cvt => exact trap_cvt _ _ _ _ h
  | xsum => exact trap_xsum _ _ _ _ _ h
  | sumrd => exact trap_sumrd _ _ _ _ _ h
  | ldg => exact trap_ldg _ _ _ _ _ h
  | ldgF => exact trap_ldgF _ _ _ _ _ h
  | stg => exact trap_stg _ _ _ _ _ h
  | ldk => exact trap_ldk _ _ _ _ h
  | pref => exact trap_pref _ _ _ _ h
  | ldp => exact trap_ldp _ _ _ _ _ h
  | stp => exact trap_stp _ _ _ _ _ h
  | atomg => exact trap_atomg _ _ _ _ h
  | atomp => exact trap_atomp _ _ _ _ h
  | atomr => exact trap_atomr _ _ _ _ h
  | cpy => exact trap_cpy _ _ _ _ h
  | cpyi => exact trap_cpyi _ _ _ _ h
  | cseal => exact trap_cseal h
  | cwait => exact trap_cwait _ h
  | pempty => exact trap_pempty _ _ h
  | fence => exact trap_fence h
  | barinit => exact trap_barinit _ _ h
  | bararr => exact trap_bararr _ _ h
  | barwait => exact trap_barwait _ _ h
  | barinv => exact trap_barinv _ h
  | semw => exact trap_semw _ _ _ h
  | sems => exact trap_sems _ _ h
  | tlbinv => exact trap_tlbinv _ _ h
  | sendq => exact trap_sendq _ _ _ h
  | recvq => exact trap_recvq _ _ h
  | padopen => exact trap_padopen _ _ _ _ h
  | poolset => exact trap_poolset _ _ _ _ _ h
  | poolq => exact trap_poolq _ _ _ h
  | mma => exact trap_mma _ _ _ _ _ h
  | mmas => exact trap_mmas _ _ _ _ _ h
  | mzero => exact trap_mzero _ _ h
  | mload => exact trap_mload _ _ _ h
  | mdrain => exact trap_mdrain _ _ _ h
  | mseal => exact trap_mseal h
  | mwait => exact trap_mwait _ h
  | epload => exact trap_epload _ _ h
  | rset => exact trap_rset _ _ _ _ h
  | rast => exact trap_rast _ _ _ _ h
  | travset => exact trap_travset _ _ h
  | travRay => exact trap_travRay _ _ _ _ h
  | travBox => exact trap_travBox _ _ _ _ h
  | fbload => exact trap_fbload _ _ _ h
  | fbstore => exact trap_fbstore _ _ _ h
  | fbdone => exact trap_fbdone _ _ h
  | vtest => exact trap_vtest _ _ _ _ h
  | fbw => exact trap_fbw _ _ _ _ h
  | vsplit => exact trap_vsplit _ _ _ h
  | vends => exact trap_vends _ _ h
  | vmask => exact trap_vmask _ _ _ h
  | vagree => exact trap_vagree _ _ _ _ _ h
  | vhalve => exact trap_vhalve _ _ _ h
  | xpfx n p => exact absurd rfl (hx n p)
  | parkedTractServe => exact absurd he (by simp [encode])
  | pendingPieceStart => exact absurd he (by simp [encode])
  | rjoinWaitExpire => exact absurd he (by simp [encode])
  | versionCommit => exact absurd he (by simp [encode])
  | standSpill => exact absurd he (by simp [encode])
  | spillReturn => exact absurd he (by simp [encode])
  | clearingComplete => exact absurd he (by simp [encode])
  | waitLimitExpire => exact absurd he (by simp [encode])
  | semwWaitLimit => exact absurd he (by simp [encode])
  | yieldHoldExpire => exact absurd he (by simp [encode])
  | bankPortUrgent => exact absurd he (by simp [encode])
  | homeLoad => exact absurd he (by simp [encode])
  | homeStore => exact absurd he (by simp [encode])
  | homeAtomic => exact absurd he (by simp [encode])
  | copyStart => exact absurd he (by simp [encode])
  | copyComplete => exact absurd he (by simp [encode])
  | matrixOpExecute => exact absurd he (by simp [encode])
  | drainExecute => exact absurd he (by simp [encode])
  | inboxMessageArrive => exact absurd he (by simp [encode])
  | atomrExecute => exact absurd he (by simp [encode])
  | preemptRequest => exact absurd he (by simp [encode])
  | preemptDeferTimeout => exact absurd he (by simp [encode])
  | contextSave => exact absurd he (by simp [encode])
  | contextRestore => exact absurd he (by simp [encode])
  | selfTestComplete => exact absurd he (by simp [encode])
  | pageWalk => exact absurd he (by simp [encode])
  | trackerEpochEnd => exact absurd he (by simp [encode])
  | swapLineMove => exact absurd he (by simp [encode])
  | regload => exact absurd he (by simp [encode])
  | regfree => exact absurd he (by simp [encode])
  | qset => exact absurd he (by simp [encode])
  | qstop => exact absurd he (by simp [encode])
  | semset => exact absurd he (by simp [encode])
  | hostSlotWrite => exact absurd he (by simp [encode])
  | launchDequeue => exact absurd he (by simp [encode])
  | launchSemaphoreWait => exact absurd he (by simp [encode])
  | piecePlacement => exact absurd he (by simp [encode])
  | completionRecordWrite => exact absurd he (by simp [encode])
  | dieResetOrderly => exact absurd he (by simp [encode])
  | dieResetUnplanned => exact absurd he (by simp [encode])
  | dieResetReturn => exact absurd he (by simp [encode])
  | moduleReset => exact absurd he (by simp [encode])
  | bringupRom => exact absurd he (by simp [encode])
  | bringupFw => exact absurd he (by simp [encode])
  | bringupConfig => exact absurd he (by simp [encode])
  | bringupMemory => exact absurd he (by simp [encode])
  | bringupDies => exact absurd he (by simp [encode])
  | bringupHost => exact absurd he (by simp [encode])
  | configRecordLoad => exact absurd he (by simp [encode])
  | rootRegisterSet => exact absurd he (by simp [encode])
  | capabilityRegisterSet => exact absurd he (by simp [encode])
  | attestationRequest => exact absurd he (by simp [encode])
  | hostMemWrite => exact absurd he (by simp [encode])
  | hostMemRead => exact absurd he (by simp [encode])
  | backInvalidateResponse => exact absurd he (by simp [encode])
  | droopReport => exact absurd he (by simp [encode])
  | clockStepRise => exact absurd he (by simp [encode])
  | sagCounterClear => exact absurd he (by simp [encode])
  | trackerControlWrite => exact absurd he (by simp [encode])
  | registerWrite => exact absurd he (by simp [encode])
  | pendingHorizonGuardReached => exact absurd he (by simp [encode])
  | powerLoss => exact absurd he (by simp [encode])
  | hostLineAccess => exact absurd he (by simp [encode])

end Sys2Proof.Machine
end

