-- ==== Sys2Proof/Laws/Fields.lean ====
section
/-! SUPPORT. The fields of an encoded word, by format (R210): reading a field of a packed word gives the operand packed
there. -/

namespace Sys2Proof.Laws

open Sys2Proof

/-! ## Parts of an operand field -/

theorem slice_low_1_3 (x : BitVec 1) (y : BitVec 3) : (x ++ y).extractLsb' 0 3 = y := by
  apply BitVec.eq_of_getLsbD_eq
  intro i hi
  simp only [BitVec.getLsbD_extractLsb', BitVec.getLsbD_append, hi, decide_true, Bool.true_and]
  grind

theorem slice_high_1_3 (x : BitVec 1) (y : BitVec 3) : (x ++ y).extractLsb' 3 1 = x := by
  apply BitVec.eq_of_getLsbD_eq
  intro i hi
  simp only [BitVec.getLsbD_extractLsb', BitVec.getLsbD_append, hi, decide_true, Bool.true_and]
  grind

theorem slice_low_2_2 (x : BitVec 2) (y : BitVec 2) : (x ++ y).extractLsb' 0 2 = y := by
  apply BitVec.eq_of_getLsbD_eq
  intro i hi
  simp only [BitVec.getLsbD_extractLsb', BitVec.getLsbD_append, hi, decide_true, Bool.true_and]
  grind

theorem slice_high_2_2 (x : BitVec 2) (y : BitVec 2) : (x ++ y).extractLsb' 2 2 = x := by
  apply BitVec.eq_of_getLsbD_eq
  intro i hi
  simp only [BitVec.getLsbD_extractLsb', BitVec.getLsbD_append, hi, decide_true, Bool.true_and]
  grind

theorem slice_low_2_3 (x : BitVec 2) (y : BitVec 3) : (x ++ y).extractLsb' 0 3 = y := by
  apply BitVec.eq_of_getLsbD_eq
  intro i hi
  simp only [BitVec.getLsbD_extractLsb', BitVec.getLsbD_append, hi, decide_true, Bool.true_and]
  grind

theorem slice_high_2_3 (x : BitVec 2) (y : BitVec 3) : (x ++ y).extractLsb' 3 2 = x := by
  apply BitVec.eq_of_getLsbD_eq
  intro i hi
  simp only [BitVec.getLsbD_extractLsb', BitVec.getLsbD_append, hi, decide_true, Bool.true_and]
  grind

theorem slice_low_2_5 (x : BitVec 2) (y : BitVec 5) : (x ++ y).extractLsb' 0 5 = y := by
  apply BitVec.eq_of_getLsbD_eq
  intro i hi
  simp only [BitVec.getLsbD_extractLsb', BitVec.getLsbD_append, hi, decide_true, Bool.true_and]
  grind

theorem slice_high_2_5 (x : BitVec 2) (y : BitVec 5) : (x ++ y).extractLsb' 5 2 = x := by
  apply BitVec.eq_of_getLsbD_eq
  intro i hi
  simp only [BitVec.getLsbD_extractLsb', BitVec.getLsbD_append, hi, decide_true, Bool.true_and]
  grind

theorem slice_low_3_1 (x : BitVec 3) (y : BitVec 1) : (x ++ y).extractLsb' 0 1 = y := by
  apply BitVec.eq_of_getLsbD_eq
  intro i hi
  simp only [BitVec.getLsbD_extractLsb', BitVec.getLsbD_append, hi, decide_true, Bool.true_and]
  grind

theorem slice_high_3_1 (x : BitVec 3) (y : BitVec 1) : (x ++ y).extractLsb' 1 3 = x := by
  apply BitVec.eq_of_getLsbD_eq
  intro i hi
  simp only [BitVec.getLsbD_extractLsb', BitVec.getLsbD_append, hi, decide_true, Bool.true_and]
  grind

theorem slice_low_4_3 (x : BitVec 4) (y : BitVec 3) : (x ++ y).extractLsb' 0 3 = y := by
  apply BitVec.eq_of_getLsbD_eq
  intro i hi
  simp only [BitVec.getLsbD_extractLsb', BitVec.getLsbD_append, hi, decide_true, Bool.true_and]
  grind

theorem slice_high_4_3 (x : BitVec 4) (y : BitVec 3) : (x ++ y).extractLsb' 3 4 = x := by
  apply BitVec.eq_of_getLsbD_eq
  intro i hi
  simp only [BitVec.getLsbD_extractLsb', BitVec.getLsbD_append, hi, decide_true, Bool.true_and]
  grind

theorem slice_low_5_2 (x : BitVec 5) (y : BitVec 2) : (x ++ y).extractLsb' 0 2 = y := by
  apply BitVec.eq_of_getLsbD_eq
  intro i hi
  simp only [BitVec.getLsbD_extractLsb', BitVec.getLsbD_append, hi, decide_true, Bool.true_and]
  grind

theorem slice_high_5_2 (x : BitVec 5) (y : BitVec 2) : (x ++ y).extractLsb' 2 5 = x := by
  apply BitVec.eq_of_getLsbD_eq
  intro i hi
  simp only [BitVec.getLsbD_extractLsb', BitVec.getLsbD_append, hi, decide_true, Bool.true_and]
  grind

theorem slice_low_1_3_3 (x : BitVec 1) (y : BitVec 3) (z : BitVec 3) : (x ++ y ++ z).extractLsb' 0 3 = z := by
  apply BitVec.eq_of_getLsbD_eq
  intro i hi
  simp only [BitVec.getLsbD_extractLsb', BitVec.getLsbD_append, hi, decide_true, Bool.true_and]
  grind

theorem slice_mid_1_3_3 (x : BitVec 1) (y : BitVec 3) (z : BitVec 3) : (x ++ y ++ z).extractLsb' 3 3 = y := by
  apply BitVec.eq_of_getLsbD_eq
  intro i hi
  simp only [BitVec.getLsbD_extractLsb', BitVec.getLsbD_append, hi, decide_true, Bool.true_and]
  grind

theorem slice_high_1_3_3 (x : BitVec 1) (y : BitVec 3) (z : BitVec 3) : (x ++ y ++ z).extractLsb' 6 1 = x := by
  apply BitVec.eq_of_getLsbD_eq
  intro i hi
  simp only [BitVec.getLsbD_extractLsb', BitVec.getLsbD_append, hi, decide_true, Bool.true_and]
  grind

theorem slice_low_3_2_2 (x : BitVec 3) (y : BitVec 2) (z : BitVec 2) : (x ++ y ++ z).extractLsb' 0 2 = z := by
  apply BitVec.eq_of_getLsbD_eq
  intro i hi
  simp only [BitVec.getLsbD_extractLsb', BitVec.getLsbD_append, hi, decide_true, Bool.true_and]
  grind

theorem slice_mid_3_2_2 (x : BitVec 3) (y : BitVec 2) (z : BitVec 2) : (x ++ y ++ z).extractLsb' 2 2 = y := by
  apply BitVec.eq_of_getLsbD_eq
  intro i hi
  simp only [BitVec.getLsbD_extractLsb', BitVec.getLsbD_append, hi, decide_true, Bool.true_and]
  grind

theorem slice_high_3_2_2 (x : BitVec 3) (y : BitVec 2) (z : BitVec 2) : (x ++ y ++ z).extractLsb' 4 3 = x := by
  apply BitVec.eq_of_getLsbD_eq
  intro i hi
  simp only [BitVec.getLsbD_extractLsb', BitVec.getLsbD_append, hi, decide_true, Bool.true_and]
  grind

theorem slice_low_3_3_1 (x : BitVec 3) (y : BitVec 3) (z : BitVec 1) : (x ++ y ++ z).extractLsb' 0 1 = z := by
  apply BitVec.eq_of_getLsbD_eq
  intro i hi
  simp only [BitVec.getLsbD_extractLsb', BitVec.getLsbD_append, hi, decide_true, Bool.true_and]
  grind

theorem slice_mid_3_3_1 (x : BitVec 3) (y : BitVec 3) (z : BitVec 1) : (x ++ y ++ z).extractLsb' 1 3 = y := by
  apply BitVec.eq_of_getLsbD_eq
  intro i hi
  simp only [BitVec.getLsbD_extractLsb', BitVec.getLsbD_append, hi, decide_true, Bool.true_and]
  grind

theorem slice_high_3_3_1 (x : BitVec 3) (y : BitVec 3) (z : BitVec 1) : (x ++ y ++ z).extractLsb' 4 3 = x := by
  apply BitVec.eq_of_getLsbD_eq
  intro i hi
  simp only [BitVec.getLsbD_extractLsb', BitVec.getLsbD_append, hi, decide_true, Bool.true_and]
  grind

/-! ## Fields of a word of format B -/

theorem packB_op (c : BitVec 1) (op : BitVec 6) (cond : BitVec 4) (reg : BitVec 5) (disp : BitVec 16) : opOf (packB c op cond reg disp) = op := by
  unfold opOf
  apply BitVec.eq_of_getLsbD_eq
  intro i hi
  simp only [fieldAt, packB, BitVec.getLsbD_extractLsb', BitVec.getLsbD_append, hi, decide_true, Bool.true_and]
  grind

theorem packB_0_16 (c : BitVec 1) (op : BitVec 6) (cond : BitVec 4) (reg : BitVec 5) (disp : BitVec 16) : fieldAt (packB c op cond reg disp) 0 16 = disp := by
  apply BitVec.eq_of_getLsbD_eq
  intro i hi
  simp only [fieldAt, packB, BitVec.getLsbD_extractLsb', BitVec.getLsbD_append, hi, decide_true, Bool.true_and]
  grind

theorem packB_16_3 (c : BitVec 1) (op : BitVec 6) (cond : BitVec 4) (reg : BitVec 5) (disp : BitVec 16) : fieldAt (packB c op cond reg disp) 16 3 = reg.extractLsb' 0 3 := by
  apply BitVec.eq_of_getLsbD_eq
  intro i hi
  simp only [fieldAt, packB, BitVec.getLsbD_extractLsb', BitVec.getLsbD_append, hi, decide_true, Bool.true_and]
  grind

theorem packB_16_5 (c : BitVec 1) (op : BitVec 6) (cond : BitVec 4) (reg : BitVec 5) (disp : BitVec 16) : fieldAt (packB c op cond reg disp) 16 5 = reg := by
  apply BitVec.eq_of_getLsbD_eq
  intro i hi
  simp only [fieldAt, packB, BitVec.getLsbD_extractLsb', BitVec.getLsbD_append, hi, decide_true, Bool.true_and]
  grind

theorem packB_19_2 (c : BitVec 1) (op : BitVec 6) (cond : BitVec 4) (reg : BitVec 5) (disp : BitVec 16) : fieldAt (packB c op cond reg disp) 19 2 = reg.extractLsb' 3 2 := by
  apply BitVec.eq_of_getLsbD_eq
  intro i hi
  simp only [fieldAt, packB, BitVec.getLsbD_extractLsb', BitVec.getLsbD_append, hi, decide_true, Bool.true_and]
  grind

theorem packB_21_1 (c : BitVec 1) (op : BitVec 6) (cond : BitVec 4) (reg : BitVec 5) (disp : BitVec 16) : fieldAt (packB c op cond reg disp) 21 1 = cond.extractLsb' 0 1 := by
  apply BitVec.eq_of_getLsbD_eq
  intro i hi
  simp only [fieldAt, packB, BitVec.getLsbD_extractLsb', BitVec.getLsbD_append, hi, decide_true, Bool.true_and]
  grind

theorem packB_21_4 (c : BitVec 1) (op : BitVec 6) (cond : BitVec 4) (reg : BitVec 5) (disp : BitVec 16) : fieldAt (packB c op cond reg disp) 21 4 = cond := by
  apply BitVec.eq_of_getLsbD_eq
  intro i hi
  simp only [fieldAt, packB, BitVec.getLsbD_extractLsb', BitVec.getLsbD_append, hi, decide_true, Bool.true_and]
  grind

theorem packB_22_3 (c : BitVec 1) (op : BitVec 6) (cond : BitVec 4) (reg : BitVec 5) (disp : BitVec 16) : fieldAt (packB c op cond reg disp) 22 3 = cond.extractLsb' 1 3 := by
  apply BitVec.eq_of_getLsbD_eq
  intro i hi
  simp only [fieldAt, packB, BitVec.getLsbD_extractLsb', BitVec.getLsbD_append, hi, decide_true, Bool.true_and]
  grind

/-! ## Fields of a word of format I -/

theorem packI_op (c : BitVec 1) (op : BitVec 6) (d : BitVec 7) (a : BitVec 7) (imm : BitVec 11) : opOf (packI c op d a imm) = op := by
  unfold opOf
  apply BitVec.eq_of_getLsbD_eq
  intro i hi
  simp only [fieldAt, packI, BitVec.getLsbD_extractLsb', BitVec.getLsbD_append, hi, decide_true, Bool.true_and]
  grind

theorem packI_0_11 (c : BitVec 1) (op : BitVec 6) (d : BitVec 7) (a : BitVec 7) (imm : BitVec 11) : fieldAt (packI c op d a imm) 0 11 = imm := by
  apply BitVec.eq_of_getLsbD_eq
  intro i hi
  simp only [fieldAt, packI, BitVec.getLsbD_extractLsb', BitVec.getLsbD_append, hi, decide_true, Bool.true_and]
  grind

theorem packI_11_7 (c : BitVec 1) (op : BitVec 6) (d : BitVec 7) (a : BitVec 7) (imm : BitVec 11) : fieldAt (packI c op d a imm) 11 7 = a := by
  apply BitVec.eq_of_getLsbD_eq
  intro i hi
  simp only [fieldAt, packI, BitVec.getLsbD_extractLsb', BitVec.getLsbD_append, hi, decide_true, Bool.true_and]
  grind

theorem packI_18_7 (c : BitVec 1) (op : BitVec 6) (d : BitVec 7) (a : BitVec 7) (imm : BitVec 11) : fieldAt (packI c op d a imm) 18 7 = d := by
  apply BitVec.eq_of_getLsbD_eq
  intro i hi
  simp only [fieldAt, packI, BitVec.getLsbD_extractLsb', BitVec.getLsbD_append, hi, decide_true, Bool.true_and]
  grind

/-! ## Fields of a word of format K -/

theorem packK_op (c : BitVec 1) (op : BitVec 6) (tile : BitVec 3) (a : BitVec 7) (b : BitVec 7) (fmt : BitVec 4) (flags : BitVec 4) : opOf (packK c op tile a b fmt flags) = op := by
  unfold opOf
  apply BitVec.eq_of_getLsbD_eq
  intro i hi
  simp only [fieldAt, packK, BitVec.getLsbD_extractLsb', BitVec.getLsbD_append, hi, decide_true, Bool.true_and]
  grind

theorem packK_0_1 (c : BitVec 1) (op : BitVec 6) (tile : BitVec 3) (a : BitVec 7) (b : BitVec 7) (fmt : BitVec 4) (flags : BitVec 4) : fieldAt (packK c op tile a b fmt flags) 0 1 = flags.extractLsb' 0 1 := by
  apply BitVec.eq_of_getLsbD_eq
  intro i hi
  simp only [fieldAt, packK, BitVec.getLsbD_extractLsb', BitVec.getLsbD_append, hi, decide_true, Bool.true_and]
  grind

theorem packK_0_2 (c : BitVec 1) (op : BitVec 6) (tile : BitVec 3) (a : BitVec 7) (b : BitVec 7) (fmt : BitVec 4) (flags : BitVec 4) : fieldAt (packK c op tile a b fmt flags) 0 2 = flags.extractLsb' 0 2 := by
  apply BitVec.eq_of_getLsbD_eq
  intro i hi
  simp only [fieldAt, packK, BitVec.getLsbD_extractLsb', BitVec.getLsbD_append, hi, decide_true, Bool.true_and]
  grind

theorem packK_0_4 (c : BitVec 1) (op : BitVec 6) (tile : BitVec 3) (a : BitVec 7) (b : BitVec 7) (fmt : BitVec 4) (flags : BitVec 4) : fieldAt (packK c op tile a b fmt flags) 0 4 = flags := by
  apply BitVec.eq_of_getLsbD_eq
  intro i hi
  simp only [fieldAt, packK, BitVec.getLsbD_extractLsb', BitVec.getLsbD_append, hi, decide_true, Bool.true_and]
  grind

theorem packK_1_3 (c : BitVec 1) (op : BitVec 6) (tile : BitVec 3) (a : BitVec 7) (b : BitVec 7) (fmt : BitVec 4) (flags : BitVec 4) : fieldAt (packK c op tile a b fmt flags) 1 3 = flags.extractLsb' 1 3 := by
  apply BitVec.eq_of_getLsbD_eq
  intro i hi
  simp only [fieldAt, packK, BitVec.getLsbD_extractLsb', BitVec.getLsbD_append, hi, decide_true, Bool.true_and]
  grind

theorem packK_2_2 (c : BitVec 1) (op : BitVec 6) (tile : BitVec 3) (a : BitVec 7) (b : BitVec 7) (fmt : BitVec 4) (flags : BitVec 4) : fieldAt (packK c op tile a b fmt flags) 2 2 = flags.extractLsb' 2 2 := by
  apply BitVec.eq_of_getLsbD_eq
  intro i hi
  simp only [fieldAt, packK, BitVec.getLsbD_extractLsb', BitVec.getLsbD_append, hi, decide_true, Bool.true_and]
  grind

theorem packK_4_4 (c : BitVec 1) (op : BitVec 6) (tile : BitVec 3) (a : BitVec 7) (b : BitVec 7) (fmt : BitVec 4) (flags : BitVec 4) : fieldAt (packK c op tile a b fmt flags) 4 4 = fmt := by
  apply BitVec.eq_of_getLsbD_eq
  intro i hi
  simp only [fieldAt, packK, BitVec.getLsbD_extractLsb', BitVec.getLsbD_append, hi, decide_true, Bool.true_and]
  grind

theorem packK_8_7 (c : BitVec 1) (op : BitVec 6) (tile : BitVec 3) (a : BitVec 7) (b : BitVec 7) (fmt : BitVec 4) (flags : BitVec 4) : fieldAt (packK c op tile a b fmt flags) 8 7 = b := by
  apply BitVec.eq_of_getLsbD_eq
  intro i hi
  simp only [fieldAt, packK, BitVec.getLsbD_extractLsb', BitVec.getLsbD_append, hi, decide_true, Bool.true_and]
  grind

theorem packK_8_14 (c : BitVec 1) (op : BitVec 6) (tile : BitVec 3) (a : BitVec 7) (b : BitVec 7) (fmt : BitVec 4) (flags : BitVec 4) : fieldAt (packK c op tile a b fmt flags) 8 14 = a ++ b := by
  apply BitVec.eq_of_getLsbD_eq
  intro i hi
  simp only [fieldAt, packK, BitVec.getLsbD_extractLsb', BitVec.getLsbD_append, hi, decide_true, Bool.true_and]
  grind

theorem packK_8_17 (c : BitVec 1) (op : BitVec 6) (tile : BitVec 3) (a : BitVec 7) (b : BitVec 7) (fmt : BitVec 4) (flags : BitVec 4) : fieldAt (packK c op tile a b fmt flags) 8 17 = tile ++ a ++ b := by
  apply BitVec.eq_of_getLsbD_eq
  intro i hi
  simp only [fieldAt, packK, BitVec.getLsbD_extractLsb', BitVec.getLsbD_append, hi, decide_true, Bool.true_and]
  grind

theorem packK_15_7 (c : BitVec 1) (op : BitVec 6) (tile : BitVec 3) (a : BitVec 7) (b : BitVec 7) (fmt : BitVec 4) (flags : BitVec 4) : fieldAt (packK c op tile a b fmt flags) 15 7 = a := by
  apply BitVec.eq_of_getLsbD_eq
  intro i hi
  simp only [fieldAt, packK, BitVec.getLsbD_extractLsb', BitVec.getLsbD_append, hi, decide_true, Bool.true_and]
  grind

theorem packK_22_3 (c : BitVec 1) (op : BitVec 6) (tile : BitVec 3) (a : BitVec 7) (b : BitVec 7) (fmt : BitVec 4) (flags : BitVec 4) : fieldAt (packK c op tile a b fmt flags) 22 3 = tile := by
  apply BitVec.eq_of_getLsbD_eq
  intro i hi
  simp only [fieldAt, packK, BitVec.getLsbD_extractLsb', BitVec.getLsbD_append, hi, decide_true, Bool.true_and]
  grind

/-! ## Fields of a word of format M -/

theorem packM_op (c : BitVec 1) (op : BitVec 6) (data : BitVec 7) (base : BitVec 5) (index : BitVec 5) (scale : BitVec 2) (disp : BitVec 6) : opOf (packM c op data base index scale disp) = op := by
  unfold opOf
  apply BitVec.eq_of_getLsbD_eq
  intro i hi
  simp only [fieldAt, packM, BitVec.getLsbD_extractLsb', BitVec.getLsbD_append, hi, decide_true, Bool.true_and]
  grind

theorem packM_0_6 (c : BitVec 1) (op : BitVec 6) (data : BitVec 7) (base : BitVec 5) (index : BitVec 5) (scale : BitVec 2) (disp : BitVec 6) : fieldAt (packM c op data base index scale disp) 0 6 = disp := by
  apply BitVec.eq_of_getLsbD_eq
  intro i hi
  simp only [fieldAt, packM, BitVec.getLsbD_extractLsb', BitVec.getLsbD_append, hi, decide_true, Bool.true_and]
  grind

theorem packM_6_2 (c : BitVec 1) (op : BitVec 6) (data : BitVec 7) (base : BitVec 5) (index : BitVec 5) (scale : BitVec 2) (disp : BitVec 6) : fieldAt (packM c op data base index scale disp) 6 2 = scale := by
  apply BitVec.eq_of_getLsbD_eq
  intro i hi
  simp only [fieldAt, packM, BitVec.getLsbD_extractLsb', BitVec.getLsbD_append, hi, decide_true, Bool.true_and]
  grind

theorem packM_6_7 (c : BitVec 1) (op : BitVec 6) (data : BitVec 7) (base : BitVec 5) (index : BitVec 5) (scale : BitVec 2) (disp : BitVec 6) : fieldAt (packM c op data base index scale disp) 6 7 = index ++ scale := by
  apply BitVec.eq_of_getLsbD_eq
  intro i hi
  simp only [fieldAt, packM, BitVec.getLsbD_extractLsb', BitVec.getLsbD_append, hi, decide_true, Bool.true_and]
  grind

theorem packM_8_5 (c : BitVec 1) (op : BitVec 6) (data : BitVec 7) (base : BitVec 5) (index : BitVec 5) (scale : BitVec 2) (disp : BitVec 6) : fieldAt (packM c op data base index scale disp) 8 5 = index := by
  apply BitVec.eq_of_getLsbD_eq
  intro i hi
  simp only [fieldAt, packM, BitVec.getLsbD_extractLsb', BitVec.getLsbD_append, hi, decide_true, Bool.true_and]
  grind

theorem packM_13_5 (c : BitVec 1) (op : BitVec 6) (data : BitVec 7) (base : BitVec 5) (index : BitVec 5) (scale : BitVec 2) (disp : BitVec 6) : fieldAt (packM c op data base index scale disp) 13 5 = base := by
  apply BitVec.eq_of_getLsbD_eq
  intro i hi
  simp only [fieldAt, packM, BitVec.getLsbD_extractLsb', BitVec.getLsbD_append, hi, decide_true, Bool.true_and]
  grind

theorem packM_18_7 (c : BitVec 1) (op : BitVec 6) (data : BitVec 7) (base : BitVec 5) (index : BitVec 5) (scale : BitVec 2) (disp : BitVec 6) : fieldAt (packM c op data base index scale disp) 18 7 = data := by
  apply BitVec.eq_of_getLsbD_eq
  intro i hi
  simp only [fieldAt, packM, BitVec.getLsbD_extractLsb', BitVec.getLsbD_append, hi, decide_true, Bool.true_and]
  grind

/-! ## Fields of a word of format T -/

theorem packT_op (c : BitVec 1) (op : BitVec 6) (d : BitVec 7) (a : BitVec 7) (b : BitVec 7) (f : BitVec 4) : opOf (packT c op d a b f) = op := by
  unfold opOf
  apply BitVec.eq_of_getLsbD_eq
  intro i hi
  simp only [fieldAt, packT, BitVec.getLsbD_extractLsb', BitVec.getLsbD_append, hi, decide_true, Bool.true_and]
  grind

theorem packT_0_2 (c : BitVec 1) (op : BitVec 6) (d : BitVec 7) (a : BitVec 7) (b : BitVec 7) (f : BitVec 4) : fieldAt (packT c op d a b f) 0 2 = f.extractLsb' 0 2 := by
  apply BitVec.eq_of_getLsbD_eq
  intro i hi
  simp only [fieldAt, packT, BitVec.getLsbD_extractLsb', BitVec.getLsbD_append, hi, decide_true, Bool.true_and]
  grind

theorem packT_0_3 (c : BitVec 1) (op : BitVec 6) (d : BitVec 7) (a : BitVec 7) (b : BitVec 7) (f : BitVec 4) : fieldAt (packT c op d a b f) 0 3 = f.extractLsb' 0 3 := by
  apply BitVec.eq_of_getLsbD_eq
  intro i hi
  simp only [fieldAt, packT, BitVec.getLsbD_extractLsb', BitVec.getLsbD_append, hi, decide_true, Bool.true_and]
  grind

theorem packT_0_4 (c : BitVec 1) (op : BitVec 6) (d : BitVec 7) (a : BitVec 7) (b : BitVec 7) (f : BitVec 4) : fieldAt (packT c op d a b f) 0 4 = f := by
  apply BitVec.eq_of_getLsbD_eq
  intro i hi
  simp only [fieldAt, packT, BitVec.getLsbD_extractLsb', BitVec.getLsbD_append, hi, decide_true, Bool.true_and]
  grind

theorem packT_0_11 (c : BitVec 1) (op : BitVec 6) (d : BitVec 7) (a : BitVec 7) (b : BitVec 7) (f : BitVec 4) : fieldAt (packT c op d a b f) 0 11 = b ++ f := by
  apply BitVec.eq_of_getLsbD_eq
  intro i hi
  simp only [fieldAt, packT, BitVec.getLsbD_extractLsb', BitVec.getLsbD_append, hi, decide_true, Bool.true_and]
  grind

theorem packT_3_1 (c : BitVec 1) (op : BitVec 6) (d : BitVec 7) (a : BitVec 7) (b : BitVec 7) (f : BitVec 4) : fieldAt (packT c op d a b f) 3 1 = f.extractLsb' 3 1 := by
  apply BitVec.eq_of_getLsbD_eq
  intro i hi
  simp only [fieldAt, packT, BitVec.getLsbD_extractLsb', BitVec.getLsbD_append, hi, decide_true, Bool.true_and]
  grind

theorem packT_4_3 (c : BitVec 1) (op : BitVec 6) (d : BitVec 7) (a : BitVec 7) (b : BitVec 7) (f : BitVec 4) : fieldAt (packT c op d a b f) 4 3 = b.extractLsb' 0 3 := by
  apply BitVec.eq_of_getLsbD_eq
  intro i hi
  simp only [fieldAt, packT, BitVec.getLsbD_extractLsb', BitVec.getLsbD_append, hi, decide_true, Bool.true_and]
  grind

theorem packT_4_5 (c : BitVec 1) (op : BitVec 6) (d : BitVec 7) (a : BitVec 7) (b : BitVec 7) (f : BitVec 4) : fieldAt (packT c op d a b f) 4 5 = b.extractLsb' 0 5 := by
  apply BitVec.eq_of_getLsbD_eq
  intro i hi
  simp only [fieldAt, packT, BitVec.getLsbD_extractLsb', BitVec.getLsbD_append, hi, decide_true, Bool.true_and]
  grind

theorem packT_4_7 (c : BitVec 1) (op : BitVec 6) (d : BitVec 7) (a : BitVec 7) (b : BitVec 7) (f : BitVec 4) : fieldAt (packT c op d a b f) 4 7 = b := by
  apply BitVec.eq_of_getLsbD_eq
  intro i hi
  simp only [fieldAt, packT, BitVec.getLsbD_extractLsb', BitVec.getLsbD_append, hi, decide_true, Bool.true_and]
  grind

theorem packT_4_8 (c : BitVec 1) (op : BitVec 6) (d : BitVec 7) (a : BitVec 7) (b : BitVec 7) (f : BitVec 4) : fieldAt (packT c op d a b f) 4 8 = (a.extractLsb' 0 1) ++ b := by
  apply BitVec.eq_of_getLsbD_eq
  intro i hi
  simp only [fieldAt, packT, BitVec.getLsbD_extractLsb', BitVec.getLsbD_append, hi, decide_true, Bool.true_and]
  grind

theorem packT_4_14 (c : BitVec 1) (op : BitVec 6) (d : BitVec 7) (a : BitVec 7) (b : BitVec 7) (f : BitVec 4) : fieldAt (packT c op d a b f) 4 14 = a ++ b := by
  apply BitVec.eq_of_getLsbD_eq
  intro i hi
  simp only [fieldAt, packT, BitVec.getLsbD_extractLsb', BitVec.getLsbD_append, hi, decide_true, Bool.true_and]
  grind

theorem packT_4_21 (c : BitVec 1) (op : BitVec 6) (d : BitVec 7) (a : BitVec 7) (b : BitVec 7) (f : BitVec 4) : fieldAt (packT c op d a b f) 4 21 = d ++ a ++ b := by
  apply BitVec.eq_of_getLsbD_eq
  intro i hi
  simp only [fieldAt, packT, BitVec.getLsbD_extractLsb', BitVec.getLsbD_append, hi, decide_true, Bool.true_and]
  grind

theorem packT_7_3 (c : BitVec 1) (op : BitVec 6) (d : BitVec 7) (a : BitVec 7) (b : BitVec 7) (f : BitVec 4) : fieldAt (packT c op d a b f) 7 3 = b.extractLsb' 3 3 := by
  apply BitVec.eq_of_getLsbD_eq
  intro i hi
  simp only [fieldAt, packT, BitVec.getLsbD_extractLsb', BitVec.getLsbD_append, hi, decide_true, Bool.true_and]
  grind

theorem packT_7_4 (c : BitVec 1) (op : BitVec 6) (d : BitVec 7) (a : BitVec 7) (b : BitVec 7) (f : BitVec 4) : fieldAt (packT c op d a b f) 7 4 = b.extractLsb' 3 4 := by
  apply BitVec.eq_of_getLsbD_eq
  intro i hi
  simp only [fieldAt, packT, BitVec.getLsbD_extractLsb', BitVec.getLsbD_append, hi, decide_true, Bool.true_and]
  grind

theorem packT_9_2 (c : BitVec 1) (op : BitVec 6) (d : BitVec 7) (a : BitVec 7) (b : BitVec 7) (f : BitVec 4) : fieldAt (packT c op d a b f) 9 2 = b.extractLsb' 5 2 := by
  apply BitVec.eq_of_getLsbD_eq
  intro i hi
  simp only [fieldAt, packT, BitVec.getLsbD_extractLsb', BitVec.getLsbD_append, hi, decide_true, Bool.true_and]
  grind

theorem packT_10_1 (c : BitVec 1) (op : BitVec 6) (d : BitVec 7) (a : BitVec 7) (b : BitVec 7) (f : BitVec 4) : fieldAt (packT c op d a b f) 10 1 = b.extractLsb' 6 1 := by
  apply BitVec.eq_of_getLsbD_eq
  intro i hi
  simp only [fieldAt, packT, BitVec.getLsbD_extractLsb', BitVec.getLsbD_append, hi, decide_true, Bool.true_and]
  grind

theorem packT_11_1 (c : BitVec 1) (op : BitVec 6) (d : BitVec 7) (a : BitVec 7) (b : BitVec 7) (f : BitVec 4) : fieldAt (packT c op d a b f) 11 1 = a.extractLsb' 0 1 := by
  apply BitVec.eq_of_getLsbD_eq
  intro i hi
  simp only [fieldAt, packT, BitVec.getLsbD_extractLsb', BitVec.getLsbD_append, hi, decide_true, Bool.true_and]
  grind

theorem packT_11_3 (c : BitVec 1) (op : BitVec 6) (d : BitVec 7) (a : BitVec 7) (b : BitVec 7) (f : BitVec 4) : fieldAt (packT c op d a b f) 11 3 = a.extractLsb' 0 3 := by
  apply BitVec.eq_of_getLsbD_eq
  intro i hi
  simp only [fieldAt, packT, BitVec.getLsbD_extractLsb', BitVec.getLsbD_append, hi, decide_true, Bool.true_and]
  grind

theorem packT_11_5 (c : BitVec 1) (op : BitVec 6) (d : BitVec 7) (a : BitVec 7) (b : BitVec 7) (f : BitVec 4) : fieldAt (packT c op d a b f) 11 5 = a.extractLsb' 0 5 := by
  apply BitVec.eq_of_getLsbD_eq
  intro i hi
  simp only [fieldAt, packT, BitVec.getLsbD_extractLsb', BitVec.getLsbD_append, hi, decide_true, Bool.true_and]
  grind

theorem packT_11_7 (c : BitVec 1) (op : BitVec 6) (d : BitVec 7) (a : BitVec 7) (b : BitVec 7) (f : BitVec 4) : fieldAt (packT c op d a b f) 11 7 = a := by
  apply BitVec.eq_of_getLsbD_eq
  intro i hi
  simp only [fieldAt, packT, BitVec.getLsbD_extractLsb', BitVec.getLsbD_append, hi, decide_true, Bool.true_and]
  grind

theorem packT_11_14 (c : BitVec 1) (op : BitVec 6) (d : BitVec 7) (a : BitVec 7) (b : BitVec 7) (f : BitVec 4) : fieldAt (packT c op d a b f) 11 14 = d ++ a := by
  apply BitVec.eq_of_getLsbD_eq
  intro i hi
  simp only [fieldAt, packT, BitVec.getLsbD_extractLsb', BitVec.getLsbD_append, hi, decide_true, Bool.true_and]
  grind

theorem packT_12_3 (c : BitVec 1) (op : BitVec 6) (d : BitVec 7) (a : BitVec 7) (b : BitVec 7) (f : BitVec 4) : fieldAt (packT c op d a b f) 12 3 = a.extractLsb' 1 3 := by
  apply BitVec.eq_of_getLsbD_eq
  intro i hi
  simp only [fieldAt, packT, BitVec.getLsbD_extractLsb', BitVec.getLsbD_append, hi, decide_true, Bool.true_and]
  grind

theorem packT_14_4 (c : BitVec 1) (op : BitVec 6) (d : BitVec 7) (a : BitVec 7) (b : BitVec 7) (f : BitVec 4) : fieldAt (packT c op d a b f) 14 4 = a.extractLsb' 3 4 := by
  apply BitVec.eq_of_getLsbD_eq
  intro i hi
  simp only [fieldAt, packT, BitVec.getLsbD_extractLsb', BitVec.getLsbD_append, hi, decide_true, Bool.true_and]
  grind

theorem packT_15_3 (c : BitVec 1) (op : BitVec 6) (d : BitVec 7) (a : BitVec 7) (b : BitVec 7) (f : BitVec 4) : fieldAt (packT c op d a b f) 15 3 = a.extractLsb' 4 3 := by
  apply BitVec.eq_of_getLsbD_eq
  intro i hi
  simp only [fieldAt, packT, BitVec.getLsbD_extractLsb', BitVec.getLsbD_append, hi, decide_true, Bool.true_and]
  grind

theorem packT_16_2 (c : BitVec 1) (op : BitVec 6) (d : BitVec 7) (a : BitVec 7) (b : BitVec 7) (f : BitVec 4) : fieldAt (packT c op d a b f) 16 2 = a.extractLsb' 5 2 := by
  apply BitVec.eq_of_getLsbD_eq
  intro i hi
  simp only [fieldAt, packT, BitVec.getLsbD_extractLsb', BitVec.getLsbD_append, hi, decide_true, Bool.true_and]
  grind

theorem packT_18_2 (c : BitVec 1) (op : BitVec 6) (d : BitVec 7) (a : BitVec 7) (b : BitVec 7) (f : BitVec 4) : fieldAt (packT c op d a b f) 18 2 = d.extractLsb' 0 2 := by
  apply BitVec.eq_of_getLsbD_eq
  intro i hi
  simp only [fieldAt, packT, BitVec.getLsbD_extractLsb', BitVec.getLsbD_append, hi, decide_true, Bool.true_and]
  grind

theorem packT_18_3 (c : BitVec 1) (op : BitVec 6) (d : BitVec 7) (a : BitVec 7) (b : BitVec 7) (f : BitVec 4) : fieldAt (packT c op d a b f) 18 3 = d.extractLsb' 0 3 := by
  apply BitVec.eq_of_getLsbD_eq
  intro i hi
  simp only [fieldAt, packT, BitVec.getLsbD_extractLsb', BitVec.getLsbD_append, hi, decide_true, Bool.true_and]
  grind

theorem packT_18_7 (c : BitVec 1) (op : BitVec 6) (d : BitVec 7) (a : BitVec 7) (b : BitVec 7) (f : BitVec 4) : fieldAt (packT c op d a b f) 18 7 = d := by
  apply BitVec.eq_of_getLsbD_eq
  intro i hi
  simp only [fieldAt, packT, BitVec.getLsbD_extractLsb', BitVec.getLsbD_append, hi, decide_true, Bool.true_and]
  grind

theorem packT_20_2 (c : BitVec 1) (op : BitVec 6) (d : BitVec 7) (a : BitVec 7) (b : BitVec 7) (f : BitVec 4) : fieldAt (packT c op d a b f) 20 2 = d.extractLsb' 2 2 := by
  apply BitVec.eq_of_getLsbD_eq
  intro i hi
  simp only [fieldAt, packT, BitVec.getLsbD_extractLsb', BitVec.getLsbD_append, hi, decide_true, Bool.true_and]
  grind

theorem packT_20_5 (c : BitVec 1) (op : BitVec 6) (d : BitVec 7) (a : BitVec 7) (b : BitVec 7) (f : BitVec 4) : fieldAt (packT c op d a b f) 20 5 = d.extractLsb' 2 5 := by
  apply BitVec.eq_of_getLsbD_eq
  intro i hi
  simp only [fieldAt, packT, BitVec.getLsbD_extractLsb', BitVec.getLsbD_append, hi, decide_true, Bool.true_and]
  grind

theorem packT_21_3 (c : BitVec 1) (op : BitVec 6) (d : BitVec 7) (a : BitVec 7) (b : BitVec 7) (f : BitVec 4) : fieldAt (packT c op d a b f) 21 3 = d.extractLsb' 3 3 := by
  apply BitVec.eq_of_getLsbD_eq
  intro i hi
  simp only [fieldAt, packT, BitVec.getLsbD_extractLsb', BitVec.getLsbD_append, hi, decide_true, Bool.true_and]
  grind

theorem packT_21_4 (c : BitVec 1) (op : BitVec 6) (d : BitVec 7) (a : BitVec 7) (b : BitVec 7) (f : BitVec 4) : fieldAt (packT c op d a b f) 21 4 = d.extractLsb' 3 4 := by
  apply BitVec.eq_of_getLsbD_eq
  intro i hi
  simp only [fieldAt, packT, BitVec.getLsbD_extractLsb', BitVec.getLsbD_append, hi, decide_true, Bool.true_and]
  grind

theorem packT_22_3 (c : BitVec 1) (op : BitVec 6) (d : BitVec 7) (a : BitVec 7) (b : BitVec 7) (f : BitVec 4) : fieldAt (packT c op d a b f) 22 3 = d.extractLsb' 4 3 := by
  apply BitVec.eq_of_getLsbD_eq
  intro i hi
  simp only [fieldAt, packT, BitVec.getLsbD_extractLsb', BitVec.getLsbD_append, hi, decide_true, Bool.true_and]
  grind

theorem packT_24_1 (c : BitVec 1) (op : BitVec 6) (d : BitVec 7) (a : BitVec 7) (b : BitVec 7) (f : BitVec 4) : fieldAt (packT c op d a b f) 24 1 = d.extractLsb' 6 1 := by
  apply BitVec.eq_of_getLsbD_eq
  intro i hi
  simp only [fieldAt, packT, BitVec.getLsbD_extractLsb', BitVec.getLsbD_append, hi, decide_true, Bool.true_and]
  grind

/-! ## Fields of a word of format V -/

theorem packV_op (c : BitVec 1) (op : BitVec 6) (wd : BitVec 3) (ws : BitVec 3) (t : BitVec 5) (va : BitVec 5) (vb : BitVec 5) (f : BitVec 4) : opOf (packV c op wd ws t va vb f) = op := by
  unfold opOf
  apply BitVec.eq_of_getLsbD_eq
  intro i hi
  simp only [fieldAt, packV, BitVec.getLsbD_extractLsb', BitVec.getLsbD_append, hi, decide_true, Bool.true_and]
  grind

theorem packV_0_4 (c : BitVec 1) (op : BitVec 6) (wd : BitVec 3) (ws : BitVec 3) (t : BitVec 5) (va : BitVec 5) (vb : BitVec 5) (f : BitVec 4) : fieldAt (packV c op wd ws t va vb f) 0 4 = f := by
  apply BitVec.eq_of_getLsbD_eq
  intro i hi
  simp only [fieldAt, packV, BitVec.getLsbD_extractLsb', BitVec.getLsbD_append, hi, decide_true, Bool.true_and]
  grind

theorem packV_4_5 (c : BitVec 1) (op : BitVec 6) (wd : BitVec 3) (ws : BitVec 3) (t : BitVec 5) (va : BitVec 5) (vb : BitVec 5) (f : BitVec 4) : fieldAt (packV c op wd ws t va vb f) 4 5 = vb := by
  apply BitVec.eq_of_getLsbD_eq
  intro i hi
  simp only [fieldAt, packV, BitVec.getLsbD_extractLsb', BitVec.getLsbD_append, hi, decide_true, Bool.true_and]
  grind

theorem packV_9_5 (c : BitVec 1) (op : BitVec 6) (wd : BitVec 3) (ws : BitVec 3) (t : BitVec 5) (va : BitVec 5) (vb : BitVec 5) (f : BitVec 4) : fieldAt (packV c op wd ws t va vb f) 9 5 = va := by
  apply BitVec.eq_of_getLsbD_eq
  intro i hi
  simp only [fieldAt, packV, BitVec.getLsbD_extractLsb', BitVec.getLsbD_append, hi, decide_true, Bool.true_and]
  grind

theorem packV_14_5 (c : BitVec 1) (op : BitVec 6) (wd : BitVec 3) (ws : BitVec 3) (t : BitVec 5) (va : BitVec 5) (vb : BitVec 5) (f : BitVec 4) : fieldAt (packV c op wd ws t va vb f) 14 5 = t := by
  apply BitVec.eq_of_getLsbD_eq
  intro i hi
  simp only [fieldAt, packV, BitVec.getLsbD_extractLsb', BitVec.getLsbD_append, hi, decide_true, Bool.true_and]
  grind

theorem packV_19_3 (c : BitVec 1) (op : BitVec 6) (wd : BitVec 3) (ws : BitVec 3) (t : BitVec 5) (va : BitVec 5) (vb : BitVec 5) (f : BitVec 4) : fieldAt (packV c op wd ws t va vb f) 19 3 = ws := by
  apply BitVec.eq_of_getLsbD_eq
  intro i hi
  simp only [fieldAt, packV, BitVec.getLsbD_extractLsb', BitVec.getLsbD_append, hi, decide_true, Bool.true_and]
  grind

theorem packV_22_3 (c : BitVec 1) (op : BitVec 6) (wd : BitVec 3) (ws : BitVec 3) (t : BitVec 5) (va : BitVec 5) (vb : BitVec 5) (f : BitVec 4) : fieldAt (packV c op wd ws t va vb f) 22 3 = wd := by
  apply BitVec.eq_of_getLsbD_eq
  intro i hi
  simp only [fieldAt, packV, BitVec.getLsbD_extractLsb', BitVec.getLsbD_append, hi, decide_true, Bool.true_and]
  grind

/-! ## Fields of a word of format X -/

theorem packX_op (kind : BitVec 3) (payload : BitVec 22) : opOf (packX kind payload) = 0x3F#6 := by
  unfold opOf
  apply BitVec.eq_of_getLsbD_eq
  intro i hi
  simp only [fieldAt, packX, BitVec.getLsbD_extractLsb', BitVec.getLsbD_append, hi, decide_true, Bool.true_and]
  have : i = 0 ∨ i = 1 ∨ i = 2 ∨ i = 3 ∨ i = 4 ∨ i = 5 := by omega
  rcases this with rfl | rfl | rfl | rfl | rfl | rfl <;> simp

theorem packX_0_22 (kind : BitVec 3) (payload : BitVec 22) : fieldAt (packX kind payload) 0 22 = payload := by
  apply BitVec.eq_of_getLsbD_eq
  intro i hi
  simp only [fieldAt, packX, BitVec.getLsbD_extractLsb', BitVec.getLsbD_append, hi, decide_true, Bool.true_and]
  grind

theorem packX_22_3 (kind : BitVec 3) (payload : BitVec 22) : fieldAt (packX kind payload) 22 3 = kind := by
  apply BitVec.eq_of_getLsbD_eq
  intro i hi
  simp only [fieldAt, packX, BitVec.getLsbD_extractLsb', BitVec.getLsbD_append, hi, decide_true, Bool.true_and]
  grind

theorem packX_31_1 (kind : BitVec 3) (payload : BitVec 22) : fieldAt (packX kind payload) 31 1 = 1#1 := by
  apply BitVec.eq_of_getLsbD_eq
  intro i hi
  simp only [fieldAt, packX, BitVec.getLsbD_extractLsb', BitVec.getLsbD_append, hi, decide_true, Bool.true_and]
  have : i = 0 := by omega
  subst this
  simp

end Sys2Proof.Laws
end

