-- ==== Sys2Proof/Laws/Homes.lean ====
section
/-! SUPPORT. What an access of a home, a translation and a fetch can change, said once: memory and what homes, TLBs, page-walk caches,
the tracker and the swap unit keep, and the log of MMIO writes. Contexts, tasks, requests and all else stay. -/

namespace Sys2Proof.Machine

open Sys2Proof

/-- The second state is the first but for memory, homes, translations, pages tracked and moved, free values used and MMIO writes sent;
memory keeps its form. -/
structure HomeKeeps (s t : State) : Prop where
  rest : t = { s with
    mem := t.mem, backing := t.backing, lines := t.lines, evictH := t.evictH, msc := t.msc, freeCtr := t.freeCtr
    l2tlb := t.l2tlb, pwc := t.pwc, core := { s.core with tlb := t.core.tlb }, dev := { s.dev with
      mmio := t.dev.mmio, badLines := t.dev.badLines, hot := t.dev.hot, missCount := t.dev.missCount, swaps := t.dev.swaps
      swapErrors := t.dev.swapErrors } }
  form : s.mem.wf = true → t.mem.wf = true

theorem HomeKeeps.refl (s : State) : HomeKeeps s s := ⟨rfl, id⟩

theorem HomeKeeps.trans {s t u : State} (h : HomeKeeps s t) (k : HomeKeeps t u) : HomeKeeps s u := by
  refine ⟨?_, fun w => k.form (h.form w)⟩
  have a := h.rest
  have b := k.rest
  rw [a] at b
  exact b

theorem HomeKeeps.me {s t : State} (h : HomeKeeps s t) : t.me = s.me := by rw [h.rest]
theorem HomeKeeps.ctxs {s t : State} (h : HomeKeeps s t) : t.ctxs = s.ctxs := by rw [h.rest]
theorem HomeKeeps.task {s t : State} (h : HomeKeeps s t) : t.task = s.task := by rw [h.rest]
theorem HomeKeeps.tasks {s t : State} (h : HomeKeeps s t) : t.tasks = s.tasks := by rw [h.rest]
theorem HomeKeeps.flight {s t : State} (h : HomeKeeps s t) : t.flight = s.flight := by rw [h.rest]
theorem HomeKeeps.waiting {s t : State} (h : HomeKeeps s t) : t.dev.waiting = s.dev.waiting := by rw [h.rest]
theorem HomeKeeps.saved {s t : State} (h : HomeKeeps s t) : t.dev.saved = s.dev.saved := by rw [h.rest]

theorem useFree_keeps (s : State) (n : Nat) : HomeKeeps s (useFree s n) := ⟨rfl, id⟩

theorem setLine_keeps (s : State) (h : HomeLine) : HomeKeeps s (setLine s h) := ⟨rfl, id⟩

theorem readPhys_keeps (s : State) (part pa n : Nat) : HomeKeeps s (readPhys s part pa n).1 := by
  unfold readPhys
  split
  · exact .refl s
  · split
    · exact useFree_keeps s n
    · exact .refl s

/-- A read at a physical address changes the free counter alone. -/
theorem readPhys_mem (s : State) (part pa n : Nat) : (readPhys s part pa n).1.mem = s.mem := by
  unfold readPhys; split; · rfl
  split <;> rfl

theorem setMem_keeps (s : State) (m : Memory) (k : Nat) (h : s.mem.wf = true → m.wf = true) :
    HomeKeeps s { s with mem := m, freeCtr := k } := ⟨rfl, h⟩

theorem claimLine_keeps (s : State) (part pa : Nat) : HomeKeeps s (claimLine s part pa) := by
  unfold claimLine
  split
  · generalize freeBytes s.freeCtr 128 = l
    exact setMem_keeps s _ _ fun w => Memory.wf_setBytes _ l w
  · exact .refl s

theorem writePhys_keeps (s : State) (part pa : Nat) (bytes : List Byte) : HomeKeeps s (writePhys s part pa bytes) := by
  unfold writePhys
  split
  · exact .refl s
  split
  · exact ⟨rfl, id⟩
  · exact (claimLine_keeps s part _).trans ⟨rfl, fun w => Memory.wf_setBytes _ _ w⟩

theorem sideFill_keeps (s : State) (line tag die : Nat) : HomeKeeps s (sideFill s line tag die) := by
  unfold sideFill
  dsimp only
  split
  · exact ⟨rfl, id⟩
  · split <;> exact ⟨rfl, id⟩

theorem evictLine_keeps (s : State) (h : HomeLine) : HomeKeeps s (evictLine s h) := by
  unfold evictLine
  exact (HomeKeeps.trans (t := { s with
    evictH := setNat h.home (later (evictHorizon s h.home) h.expiry) s.evictH
    backing := s.backing.filter fun c => c.1 / 128 != h.line }) ⟨rfl, id⟩ (sideFill_keeps _ _ _ _)).trans (setLine_keeps _ _)

theorem dropOtherTag_keeps (s : State) (part line home : Nat) : HomeKeeps s (dropOtherTag s part line home) := by
  unfold dropOtherTag
  dsimp only
  split
  · exact evictLine_keeps _ _
  · exact .refl s

theorem putSide_keeps (s : State) (l : List SideLine) (h : HomeLine) : HomeKeeps s (setLine { s with msc := l } h) := ⟨rfl, id⟩

theorem fillLine_keeps (s : State) (part line home : Nat) : HomeKeeps s (fillLine s part line home) := by
  unfold fillLine
  dsimp only
  refine (dropOtherTag_keeps s part line home).trans ?_
  generalize dropOtherTag s part line home = u
  split
  · exact .refl u
  · split
    · rename_i v _
      exact (evictLine_keeps u v).trans (putSide_keeps _ _ _)
    · exact putSide_keeps _ _ _

theorem touchLine_keeps (s : State) (part pa home : Nat) : HomeKeeps s (touchLine s part pa home) := by
  unfold touchLine
  split
  · dsimp only
    split
    · exact setLine_keeps _ _
    · split
      · exact .refl s
      · exact fillLine_keeps _ _ _ _
  · exact .refl s

theorem storeAtHome_keeps (s : State) (part pa home : Nat) (bytes : List Byte) : HomeKeeps s (storeAtHome s part pa home bytes).1 := by
  unfold storeAtHome
  dsimp only
  split
  · exact (writePhys_keeps s part pa bytes).trans (touchLine_keeps _ _ _ _)
  · exact ((writePhys_keeps s part pa bytes).trans (touchLine_keeps _ _ _ _)).trans ⟨rfl, id⟩

theorem readAtHome_keeps (s : State) (part pa home n : Nat) : HomeKeeps s (readAtHome s part pa home n).1 := by
  unfold readAtHome
  dsimp only
  split
  · exact readPhys_keeps s part pa n
  · exact (readPhys_keeps s part pa n).trans (touchLine_keeps _ _ _ _)

theorem countMiss_keeps (s : State) (part pa : Nat) : HomeKeeps s (countMiss s part pa) := by
  unfold countMiss
  split
  · exact ⟨rfl, id⟩
  · exact .refl s

theorem noteMiss_keeps (s : State) (part : Nat) (va : Option Nat) (pa : Nat) : HomeKeeps s (noteMiss s part va pa) := by
  unfold noteMiss
  dsimp only
  have k := countMiss_keeps s part pa
  revert k
  generalize countMiss s part pa = t
  intro k
  split
  · exact k
  · split
    · exact k
    · exact k.trans ⟨rfl, id⟩

theorem decrypted_keeps (s : State) (part line : Nat) : HomeKeeps s (decrypted s part line).1 := by
  unfold decrypted
  split
  · exact useFree_keeps s _
  · exact .refl s

theorem raiseHome_keeps (s : State) (h : HomeLine) (e : Nat) : HomeKeeps s (raiseHome s h e) := by
  unfold raiseHome
  split
  · exact .refl s
  · exact ⟨rfl, id⟩

theorem exchangeRecords_keeps (s : State) (part f n : Nat) : HomeKeeps s (exchangeRecords s part f n) := by
  unfold exchangeRecords
  exact (((raiseHome_keeps _ _ _).trans (raiseHome_keeps _ _ _)).trans (setLine_keeps _ _)).trans (setLine_keeps _ _)

theorem putMem_keeps (s : State) (b m : Memory) (h : s.mem.wf = true → m.wf = true) :
    HomeKeeps s { s with backing := b, mem := m } := ⟨rfl, h⟩

theorem exchangeLines_keeps (s : State) (part f n : Nat) : HomeKeeps s (exchangeLines s part f n) := by
  unfold exchangeLines
  dsimp only
  refine ((((touchLine_keeps s part _ _).trans (touchLine_keeps _ part _ _)).trans (decrypted_keeps _ part f)).trans
    (decrypted_keeps _ part n)).trans ((putMem_keeps _ _ _ ?_).trans (exchangeRecords_keeps _ part f n))
  exact fun w => Memory.wf_setBytes _ _ (Memory.wf_setBytes _ _ w)

theorem setSwapBit_keeps (s : State) (w : Swap) (i : Nat) (on : Bool) : HomeKeeps s (setSwapBit s w i on) := ⟨rfl, id⟩

theorem moveSwapLine_keeps (s : State) (w : Swap) (i : Nat) : HomeKeeps s (moveSwapLine s w i) :=
  (exchangeLines_keeps s _ _ _).trans (setSwapBit_keeps _ _ _ _)

theorem moveBack_keeps (w : Swap) : ∀ (l : List Nat) (s : State), HomeKeeps s (moveBack w l s)
  | [], s => .refl s
  | _ :: l, s => (exchangeLines_keeps s _ _ _).trans (moveBack_keeps w l _)

theorem writeEntry_keeps (s : State) (part addr : Nat) (e : Word64) : HomeKeeps s (writeEntry s part addr e) :=
  (countMiss_keeps s _ _).trans (storeAtHome_keeps _ _ _ _ _)

theorem clearBusy_keeps (s : State) (part addr : Nat) : HomeKeeps s (clearBusy s part addr) := writeEntry_keeps _ _ _ _

theorem dropPair_keeps (s : State) (w : Swap) (line : Nat) : HomeKeeps s (dropPair s w line) := ⟨rfl, id⟩

theorem stopPair_keeps (s : State) (w : Swap) (line : Nat) : HomeKeeps s (stopPair s w line) :=
  (((moveBack_keeps w _ s).trans (dropPair_keeps _ w line)).trans (clearBusy_keeps _ _ _)).trans (clearBusy_keeps _ _ _)

theorem moveOrStop_keeps (s : State) (w : Swap) (i : Nat) (bad : Bool) : HomeKeeps s (moveOrStop s w i bad) := by
  unfold moveOrStop
  split
  · exact stopPair_keeps _ _ _
  · exact moveSwapLine_keeps _ _ _

theorem moveForAtomic_keeps (s : State) (pa : Nat) : HomeKeeps s (moveForAtomic s pa) := by
  unfold moveForAtomic
  split
  · exact .refl s
  · exact moveOrStop_keeps _ _ _ _

theorem rmwAtHome_keeps (s : State) (part pa home n : Nat) (f : List Byte → List Byte) :
    HomeKeeps s (rmwAtHome s part pa home n f).1 := by
  unfold rmwAtHome
  exact ((moveForAtomic_keeps s pa).trans (readAtHome_keeps _ _ _ _ _)).trans (storeAtHome_keeps _ _ _ _ _)

theorem setAccessBits_keeps (s : State) (part addr : Nat) (need : Need) : HomeKeeps s (setAccessBits s part addr need) := by
  unfold setAccessBits
  exact (noteMiss_keeps s _ _ _).trans (rmwAtHome_keeps _ _ _ _ _ _)

theorem setTlbs_keeps (s : State) (l : List TlbEntry) (m : List (Nat × TlbEntry)) :
    HomeKeeps s { s with core := { s.core with tlb := l }, l2tlb := m } := ⟨rfl, id⟩

theorem cacheXlat_keeps (s : State) (e : TlbEntry) : HomeKeeps s (cacheXlat s e) := by
  unfold cacheXlat
  exact setTlbs_keeps s _ _

theorem cacheTables_keeps (s : State) (l : List WalkEntry) : HomeKeeps s (cacheTables s l) := ⟨rfl, id⟩

theorem readEntries_keeps (part : Nat) : ∀ (l : List Nat) (s : State), HomeKeeps s (readEntries s part l)
  | [], s => .refl s
  | _ :: l, s => ((noteMiss_keeps s _ _ _).trans (readAtHome_keeps _ _ _ _ _)).trans (readEntries_keeps part l _)

theorem walkXlat_keeps {s t : State} {part va : Nat} {need : Need} {x : Xlat} (h : walkXlat s part va need = .ok (t, x)) : HomeKeeps s t := by
  unfold walkXlat at h
  split at h
  · cases h
  · rename_i w _
    split at h
    · cases h
    · dsimp only at h
      split at h
      · cases h
      · cases h
        have k := (cacheTables_keeps s w.tables).trans (readEntries_keeps part w.reads _)
        revert k
        generalize readEntries (cacheTables s w.tables) part w.reads = u
        intro k
        have m : ∀ e : Word64, HomeKeeps s (if e = w.entry then u else setAccessBits u part w.addr need) := by
          intro e
          split
          · exact k
          · exact k.trans (setAccessBits_keeps _ _ _ _)
        split
        · exact m _
        · exact (m _).trans (cacheXlat_keeps _ _)

theorem translate_keeps {s t : State} {part va : Nat} {need : Need} {x : Xlat} (h : translate s part va need = .ok (t, x)) : HomeKeeps s t := by
  unfold translate at h
  split at h
  · cases h
  · split at h
    · exact walkXlat_keeps h
    · split at h
      · cases h
      · cases h; exact .refl _

theorem fetchWord_keeps {s t : State} {va : Nat} {w : Word32} (h : fetchWord s va = .ok (t, w)) : HomeKeeps s t := by
  unfold fetchWord at h
  split at h
  · cases h
  · split at h
    · cases h
    · rename_i u x hx
      split at h
      · cases h
      · split at h
        · cases h
        · cases h
          exact ((translate_keeps hx).trans (noteMiss_keeps u _ _ _)).trans (readAtHome_keeps _ _ _ _ _)

theorem fetchPacket_keeps {s t : State} {packet : BitVec 32} {w : Word32 × Word32 × Word32} (h : fetchPacket s packet = .ok (t, w)) :
    HomeKeeps s t := by
  unfold fetchPacket at h
  dsimp only at h
  split at h
  · cases h
  · rename_i a _ ha
    split at h
    · cases h
    · rename_i b _ hb
      split at h
      · cases h
      · rename_i c _ hc
        cases h
        exact ((fetchWord_keeps ha).trans (fetchWord_keeps hb)).trans (fetchWord_keeps hc)

end Sys2Proof.Machine
end

