-- ==== Sys2Proof/Laws/PerInstr.lean ====
section
/-! SUPPORT. The statement about every instruction as syntax: its word decodes to it; one lemma per constructor of Instr. -/

set_option Elab.async false
set_option linter.unusedSimpArgs false

namespace Sys2Proof.Laws.Encoding

open Sys2Proof Sys2Proof.Laws

/-- Every word of a well-formed instruction decodes to that instruction, with every operand, whatever its chain bit
(R205, R210, R211). A step of another agent has no word. -/
def Statement (i : Instr) : Prop := ∀ (c : BitVec 1) (w : Word32), i.WellFormed → encode c i = some w → decodeWord w = .ok i

theorem two_bits : ∀ x : BitVec 2, x = 0#2 ∨ x = 1#2 ∨ x = 2#2 ∨ x = 3#2 := by decide

theorem vote_form : ∀ f : BitVec 4, f.toNat ≤ 5 → f = 0#4 ∨ f = 1#4 ∨ f = 2#4 ∨ f = 3#4 ∨ f = 4#4 ∨ f = 5#4 := by decide

theorem feedback_form : ∀ f : BitVec 4, 6 ≤ f.toNat → f.toNat ≤ 9 → f = 6#4 ∨ f = 7#4 ∨ f = 8#4 ∨ f = 9#4 := by decide

theorem nop : Statement .nop := by
  intro c w hw h
  obtain rfl := Option.some.inj h
  simp [decodeWord, zeroElse, decodeCtl, packT_op, packT_4_21, packT_0_4]

theorem ret : Statement .ret := by
  intro c w hw h
  obtain rfl := Option.some.inj h
  simp [decodeWord, zeroElse, decodeCtl, packT_op, packT_4_21, packT_0_4]

theorem matl : Statement .matl := by
  intro c w hw h
  obtain rfl := Option.some.inj h
  simp [decodeWord, zeroElse, decodeCtl, packT_op, packT_4_21, packT_0_4]

theorem rjoin (a : BitVec 7) (b : BitVec 7) : Statement (.rjoin a b) := by
  intro c w hw h
  obtain rfl := Option.some.inj h
  simp [decodeWord, zeroElse, decodeCtl, packT_op, packT_18_7, packT_11_7, packT_4_7, packT_0_4]

theorem join : Statement .join := by
  intro c w hw h
  obtain rfl := Option.some.inj h
  simp [decodeWord, zeroElse, decodeCtl, packT_op, packT_4_21, packT_0_4]

theorem yield : Statement .yield := by
  intro c w hw h
  obtain rfl := Option.some.inj h
  simp [decodeWord, zeroElse, decodeCtl, packT_op, packT_4_21, packT_0_4]

theorem exit : Statement .exit := by
  intro c w hw h
  obtain rfl := Option.some.inj h
  simp [decodeWord, zeroElse, decodeCtl, packT_op, packT_4_21, packT_0_4]

theorem hret : Statement .hret := by
  intro c w hw h
  obtain rfl := Option.some.inj h
  simp [decodeWord, zeroElse, decodeCtl, packT_op, packT_4_21, packT_0_4]

theorem time (d : BitVec 7) : Statement (.time d) := by
  intro c w hw h
  obtain rfl := Option.some.inj h
  simp [decodeWord, zeroElse, decodeCtl, packT_op, packT_4_14, packT_18_7, packT_0_4]

theorem laneid (d : BitVec 7) : Statement (.laneid d) := by
  intro c w hw h
  obtain rfl := Option.some.inj h
  simp [decodeWord, zeroElse, decodeCtl, packT_op, packT_4_14, packT_18_7, packT_0_4]

theorem idx (d : BitVec 7) (b : BitVec 7) : Statement (.idx d b) := by
  intro c w hw h
  obtain rfl := Option.some.inj h
  simp [decodeWord, zeroElse, decodeCtl, packT_op, packT_11_7, packT_18_7, packT_4_7, packT_0_4]

theorem locq (d : BitVec 7) (a : BitVec 7) : Statement (.locq d a) := by
  intro c w hw h
  obtain rfl := Option.some.inj h
  simp [decodeWord, zeroElse, decodeCtl, packT_op, packT_4_7, packT_18_7, packT_11_7, packT_0_4]

theorem trap (b : BitVec 7) : Statement (.trap b) := by
  intro c w hw h
  obtain rfl := Option.some.inj h
  simp [decodeWord, zeroElse, decodeCtl, packT_op, packT_11_14, packT_4_7, packT_0_4]

theorem launch (d : BitVec 7) (a : BitVec 7) (b : BitVec 7) : Statement (.launch d a b) := by
  intro c w hw h
  obtain rfl := Option.some.inj h
  simp [decodeWord, zeroElse, decodeCtl, packT_op, packT_18_7, packT_11_7, packT_4_7, packT_0_4]

theorem xset (d : BitVec 7) (b : BitVec 7) : Statement (.xset d b) := by
  intro c w hw h
  obtain rfl := Option.some.inj h
  simp [decodeWord, zeroElse, decodeCtl, packT_op, packT_11_7, packT_18_7, packT_4_7, packT_0_4]

theorem bra (disp : BitVec 16) : Statement (.bra disp) := by
  intro c w hw h
  obtain rfl := Option.some.inj h
  simp [decodeWord, zeroElse, decodeJump, packB_op, packB_16_5, packB_0_16, packB_21_4]

theorem call (disp : BitVec 16) : Statement (.call disp) := by
  intro c w hw h
  obtain rfl := Option.some.inj h
  simp [decodeWord, zeroElse, decodeJump, packB_op, packB_16_5, packB_0_16, packB_21_4]

theorem loop (reg : BitVec 5) (disp : BitVec 16) : Statement (.loop reg disp) := by
  intro c w hw h
  obtain rfl := Option.some.inj h
  simp [decodeWord, zeroElse, decodeJump, packB_op, packB_16_5, packB_0_16, packB_21_4]

theorem brc (cond : BitVec 4) (reg : BitVec 5) (disp : BitVec 16) : Statement (.brc cond reg disp) := by
  intro c w hw h
  obtain rfl := Option.some.inj h
  simp [decodeWord, zeroElse, packB_op, packB_21_4, packB_16_5, packB_0_16]

theorem brv (sense : BitVec 1) (preg : BitVec 3) (disp : BitVec 16) : Statement (.brv sense preg disp) := by
  intro c w hw h
  obtain rfl := Option.some.inj h
  simp [decodeWord, zeroElse, packB_op, packB_22_3, packB_19_2, packB_21_1, packB_16_3, packB_0_16, slice_low_3_1, slice_high_3_1, slice_low_2_3, slice_high_2_3]

theorem brx (a : BitVec 7) : Statement (.brx a) := by
  intro c w hw h
  obtain rfl := Option.some.inj h
  simp [decodeWord, zeroElse, packT_op, packT_18_7, packT_0_11, packT_11_7]

theorem aadd (d : BitVec 7) (a : BitVec 7) (b : BitVec 7) : Statement (.aadd d a b) := by
  intro c w hw h
  obtain rfl := Option.some.inj h
  simp [decodeWord, zeroElse, decodeAop, packT_op, packT_18_7, packT_11_7, packT_4_7, packT_0_4]

theorem asub (d : BitVec 7) (a : BitVec 7) (b : BitVec 7) : Statement (.asub d a b) := by
  intro c w hw h
  obtain rfl := Option.some.inj h
  simp [decodeWord, zeroElse, decodeAop, packT_op, packT_18_7, packT_11_7, packT_4_7, packT_0_4]

theorem amul (d : BitVec 7) (a : BitVec 7) (b : BitVec 7) : Statement (.amul d a b) := by
  intro c w hw h
  obtain rfl := Option.some.inj h
  simp [decodeWord, zeroElse, decodeAop, packT_op, packT_18_7, packT_11_7, packT_4_7, packT_0_4]

theorem ashl (d : BitVec 7) (a : BitVec 7) (b : BitVec 7) : Statement (.ashl d a b) := by
  intro c w hw h
  obtain rfl := Option.some.inj h
  simp [decodeWord, zeroElse, decodeAop, packT_op, packT_18_7, packT_11_7, packT_4_7, packT_0_4]

theorem ashr (d : BitVec 7) (a : BitVec 7) (b : BitVec 7) : Statement (.ashr d a b) := by
  intro c w hw h
  obtain rfl := Option.some.inj h
  simp [decodeWord, zeroElse, decodeAop, packT_op, packT_18_7, packT_11_7, packT_4_7, packT_0_4]

theorem aand (d : BitVec 7) (a : BitVec 7) (b : BitVec 7) : Statement (.aand d a b) := by
  intro c w hw h
  obtain rfl := Option.some.inj h
  simp [decodeWord, zeroElse, decodeAop, packT_op, packT_18_7, packT_11_7, packT_4_7, packT_0_4]

theorem aor (d : BitVec 7) (a : BitVec 7) (b : BitVec 7) : Statement (.aor d a b) := by
  intro c w hw h
  obtain rfl := Option.some.inj h
  simp [decodeWord, zeroElse, decodeAop, packT_op, packT_18_7, packT_11_7, packT_4_7, packT_0_4]

theorem axor (d : BitVec 7) (a : BitVec 7) (b : BitVec 7) : Statement (.axor d a b) := by
  intro c w hw h
  obtain rfl := Option.some.inj h
  simp [decodeWord, zeroElse, decodeAop, packT_op, packT_18_7, packT_11_7, packT_4_7, packT_0_4]

theorem amin (d : BitVec 7) (a : BitVec 7) (b : BitVec 7) : Statement (.amin d a b) := by
  intro c w hw h
  obtain rfl := Option.some.inj h
  simp [decodeWord, zeroElse, decodeAop, packT_op, packT_18_7, packT_11_7, packT_4_7, packT_0_4]

theorem amax (d : BitVec 7) (a : BitVec 7) (b : BitVec 7) : Statement (.amax d a b) := by
  intro c w hw h
  obtain rfl := Option.some.inj h
  simp [decodeWord, zeroElse, decodeAop, packT_op, packT_18_7, packT_11_7, packT_4_7, packT_0_4]

theorem acmpEq (d : BitVec 7) (a : BitVec 7) (b : BitVec 7) : Statement (.acmpEq d a b) := by
  intro c w hw h
  obtain rfl := Option.some.inj h
  simp [decodeWord, zeroElse, decodeAop, packT_op, packT_18_7, packT_11_7, packT_4_7, packT_0_4]

theorem acmpNe (d : BitVec 7) (a : BitVec 7) (b : BitVec 7) : Statement (.acmpNe d a b) := by
  intro c w hw h
  obtain rfl := Option.some.inj h
  simp [decodeWord, zeroElse, decodeAop, packT_op, packT_18_7, packT_11_7, packT_4_7, packT_0_4]

theorem acmpLt (d : BitVec 7) (a : BitVec 7) (b : BitVec 7) : Statement (.acmpLt d a b) := by
  intro c w hw h
  obtain rfl := Option.some.inj h
  simp [decodeWord, zeroElse, decodeAop, packT_op, packT_18_7, packT_11_7, packT_4_7, packT_0_4]

theorem acmpLe (d : BitVec 7) (a : BitVec 7) (b : BitVec 7) : Statement (.acmpLe d a b) := by
  intro c w hw h
  obtain rfl := Option.some.inj h
  simp [decodeWord, zeroElse, decodeAop, packT_op, packT_18_7, packT_11_7, packT_4_7, packT_0_4]

theorem acmpLtu (d : BitVec 7) (a : BitVec 7) (b : BitVec 7) : Statement (.acmpLtu d a b) := by
  intro c w hw h
  obtain rfl := Option.some.inj h
  simp [decodeWord, zeroElse, decodeAop, packT_op, packT_18_7, packT_11_7, packT_4_7, packT_0_4]

theorem acmpLeu (d : BitVec 7) (a : BitVec 7) (b : BitVec 7) : Statement (.acmpLeu d a b) := by
  intro c w hw h
  obtain rfl := Option.some.inj h
  simp [decodeWord, zeroElse, decodeAop, packT_op, packT_18_7, packT_11_7, packT_4_7, packT_0_4]

theorem aaddi (d : BitVec 7) (a : BitVec 7) (imm : BitVec 11) : Statement (.aaddi d a imm) := by
  intro c w hw h
  obtain rfl := Option.some.inj h
  simp [decodeWord, zeroElse, packI_op, packI_18_7, packI_11_7, packI_0_11]

theorem amuli (d : BitVec 7) (a : BitVec 7) (imm : BitVec 11) : Statement (.amuli d a imm) := by
  intro c w hw h
  obtain rfl := Option.some.inj h
  simp [decodeWord, zeroElse, packI_op, packI_18_7, packI_11_7, packI_0_11]

theorem ashli (d : BitVec 7) (a : BitVec 7) (imm : BitVec 11) : Statement (.ashli d a imm) := by
  intro c w hw h
  obtain rfl := Option.some.inj h
  simp [decodeWord, zeroElse, packI_op, packI_18_7, packI_11_7, packI_0_11]

theorem ashri (d : BitVec 7) (a : BitVec 7) (imm : BitVec 11) : Statement (.ashri d a imm) := by
  intro c w hw h
  obtain rfl := Option.some.inj h
  simp [decodeWord, zeroElse, packI_op, packI_18_7, packI_11_7, packI_0_11]

theorem amovi (d : BitVec 7) (imm : BitVec 11) : Statement (.amovi d imm) := by
  intro c w hw h
  obtain rfl := Option.some.inj h
  simp [decodeWord, zeroElse, packI_op, packI_11_7, packI_18_7, packI_0_11]

theorem aandi (d : BitVec 7) (a : BitVec 7) (imm : BitVec 11) : Statement (.aandi d a imm) := by
  intro c w hw h
  obtain rfl := Option.some.inj h
  simp [decodeWord, zeroElse, packI_op, packI_18_7, packI_11_7, packI_0_11]

theorem ald (data : BitVec 7) (base : BitVec 5) (disp6 : BitVec 6) : Statement (.ald data base disp6) := by
  intro c w hw h
  obtain rfl := Option.some.inj h
  simp [decodeWord, zeroElse, packM_op, packM_6_7, packM_18_7, packM_13_5, packM_0_6]

theorem pand (pd : BitVec 3) (pa : BitVec 3) (pb : BitVec 3) : Statement (.pand pd pa pb) := by
  intro c w hw h
  obtain rfl := Option.some.inj h
  simp [decodeWord, zeroElse, decodePred, packT_op, packT_21_4, packT_14_4, packT_7_4, packT_18_3, packT_11_3, packT_4_3, packT_0_4, slice_low_4_3, slice_high_4_3]

theorem por (pd : BitVec 3) (pa : BitVec 3) (pb : BitVec 3) : Statement (.por pd pa pb) := by
  intro c w hw h
  obtain rfl := Option.some.inj h
  simp [decodeWord, zeroElse, decodePred, packT_op, packT_21_4, packT_14_4, packT_7_4, packT_18_3, packT_11_3, packT_4_3, packT_0_4, slice_low_4_3, slice_high_4_3]

theorem pxor (pd : BitVec 3) (pa : BitVec 3) (pb : BitVec 3) : Statement (.pxor pd pa pb) := by
  intro c w hw h
  obtain rfl := Option.some.inj h
  simp [decodeWord, zeroElse, decodePred, packT_op, packT_21_4, packT_14_4, packT_7_4, packT_18_3, packT_11_3, packT_4_3, packT_0_4, slice_low_4_3, slice_high_4_3]

theorem pnot (pd : BitVec 3) (pa : BitVec 3) : Statement (.pnot pd pa) := by
  intro c w hw h
  obtain rfl := Option.some.inj h
  simp [decodeWord, zeroElse, decodePred, packT_op, packT_21_4, packT_14_4, packT_4_7, packT_18_3, packT_11_3, packT_0_4, slice_low_4_3, slice_high_4_3]

theorem pcnt (d : BitVec 7) (pa : BitVec 3) : Statement (.pcnt d pa) := by
  intro c w hw h
  obtain rfl := Option.some.inj h
  simp [decodeWord, zeroElse, decodePred, packT_op, packT_14_4, packT_4_7, packT_18_7, packT_11_3, packT_0_4, slice_low_4_3, slice_high_4_3]

theorem pfirstA (d : BitVec 7) (pa : BitVec 3) : Statement (.pfirstA d pa) := by
  intro c w hw h
  obtain rfl := Option.some.inj h
  simp [decodeWord, zeroElse, decodePred, packT_op, packT_14_4, packT_4_7, packT_18_7, packT_11_3, packT_0_4, slice_low_4_3, slice_high_4_3]

theorem pfirstP (pd : BitVec 3) (pa : BitVec 3) : Statement (.pfirstP pd pa) := by
  intro c w hw h
  obtain rfl := Option.some.inj h
  simp [decodeWord, zeroElse, decodePred, packT_op, packT_21_4, packT_14_4, packT_4_7, packT_18_3, packT_11_3, packT_0_4, slice_low_4_3, slice_high_4_3]

theorem ballot (d : BitVec 7) (a : BitVec 7) : Statement (.ballot d a) := by
  intro c w hw h
  obtain rfl := Option.some.inj h
  simp [decodeWord, zeroElse, decodePred, packT_op, packT_4_7, packT_18_7, packT_11_7, packT_0_4]

theorem gets (d : BitVec 7) (b : BitVec 7) : Statement (.gets d b) := by
  intro c w hw h
  obtain rfl := Option.some.inj h
  simp [decodeWord, zeroElse, decodeSys, packT_op, packT_11_7, packT_18_7, packT_4_7, packT_0_4]

theorem sets (a : BitVec 7) (b : BitVec 7) : Statement (.sets a b) := by
  intro c w hw h
  obtain rfl := Option.some.inj h
  simp [decodeWord, zeroElse, decodeSys, packT_op, packT_18_7, packT_11_7, packT_4_7, packT_0_4]

theorem lread (d : BitVec 7) (a : BitVec 7) (b : BitVec 7) : Statement (.lread d a b) := by
  intro c w hw h
  obtain rfl := Option.some.inj h
  simp [decodeWord, zeroElse, decodeSys, packT_op, packT_18_7, packT_11_7, packT_4_7, packT_0_4]

theorem lwrite (d : BitVec 7) (a : BitVec 7) (b : BitVec 7) : Statement (.lwrite d a b) := by
  intro c w hw h
  obtain rfl := Option.some.inj h
  simp [decodeWord, zeroElse, decodeSys, packT_op, packT_18_7, packT_11_7, packT_4_7, packT_0_4]

theorem iadd (d : BitVec 7) (a : BitVec 7) (b : BitVec 7) (f : BitVec 4) : Statement (.iadd d a b f) := by
  intro c w hw h
  obtain rfl := Option.some.inj h
  simp [decodeWord, zeroElse, packT_op, packT_18_7, packT_11_7, packT_4_7, packT_0_4]

theorem isub (d : BitVec 7) (a : BitVec 7) (b : BitVec 7) (f : BitVec 4) : Statement (.isub d a b f) := by
  intro c w hw h
  obtain rfl := Option.some.inj h
  simp [decodeWord, zeroElse, packT_op, packT_18_7, packT_11_7, packT_4_7, packT_0_4]

theorem imul (d : BitVec 7) (a : BitVec 7) (b : BitVec 7) (f : BitVec 4) : Statement (.imul d a b f) := by
  intro c w hw h
  obtain rfl := Option.some.inj h
  simp [decodeWord, zeroElse, packT_op, packT_18_7, packT_11_7, packT_4_7, packT_0_4]

theorem imulh (d : BitVec 7) (a : BitVec 7) (b : BitVec 7) (f3 : BitVec 3) : Statement (.imulh d a b f3) := by
  intro c w hw h
  obtain rfl := Option.some.inj h
  simp [decodeWord, zeroElse, packT_op, packT_3_1, packT_18_7, packT_11_7, packT_4_7, packT_0_3, slice_low_1_3, slice_high_1_3]

theorem imad (d : BitVec 7) (a : BitVec 7) (b : BitVec 7) (f : BitVec 4) : Statement (.imad d a b f) := by
  intro c w hw h
  obtain rfl := Option.some.inj h
  simp [decodeWord, zeroElse, packT_op, packT_18_7, packT_11_7, packT_4_7, packT_0_4]

theorem imin (d : BitVec 7) (a : BitVec 7) (b : BitVec 7) (f3 : BitVec 3) : Statement (.imin d a b f3) := by
  intro c w hw h
  obtain rfl := Option.some.inj h
  simp [decodeWord, zeroElse, decodeMinMax, packT_op, packT_18_7, packT_11_7, packT_4_7, packT_0_3, packT_3_1, slice_low_1_3, slice_high_1_3]

theorem imax (d : BitVec 7) (a : BitVec 7) (b : BitVec 7) (f3 : BitVec 3) : Statement (.imax d a b f3) := by
  intro c w hw h
  obtain rfl := Option.some.inj h
  simp [decodeWord, zeroElse, decodeMinMax, packT_op, packT_18_7, packT_11_7, packT_4_7, packT_0_3, packT_3_1, slice_low_1_3, slice_high_1_3]

theorem iabs (d : BitVec 7) (a : BitVec 7) (f : BitVec 4) : Statement (.iabs d a f) := by
  intro c w hw h
  obtain rfl := Option.some.inj h
  simp [decodeWord, zeroElse, packT_op, packT_4_7, packT_18_7, packT_11_7, packT_0_4]

theorem icmp (d : BitVec 7) (a : BitVec 7) (b : BitVec 7) (f3 : BitVec 3) : Statement (.icmp d a b f3) := by
  intro c w hw h
  obtain rfl := Option.some.inj h
  simp [decodeWord, zeroElse, packT_op, packT_3_1, packT_18_7, packT_11_7, packT_4_7, packT_0_3, slice_low_1_3, slice_high_1_3]

theorem sel (d : BitVec 7) (a : BitVec 7) (b : BitVec 7) (f3 : BitVec 3) : Statement (.sel d a b f3) := by
  intro c w hw h
  obtain rfl := Option.some.inj h
  simp [decodeWord, zeroElse, packT_op, packT_3_1, packT_18_7, packT_11_7, packT_4_7, packT_0_3, slice_low_1_3, slice_high_1_3]

theorem and (d : BitVec 7) (a : BitVec 7) (b : BitVec 7) : Statement (.and d a b) := by
  intro c w hw h
  obtain rfl := Option.some.inj h
  simp [decodeWord, zeroElse, decodeBitw, packT_op, packT_18_7, packT_11_7, packT_4_7, packT_0_4]

theorem or (d : BitVec 7) (a : BitVec 7) (b : BitVec 7) : Statement (.or d a b) := by
  intro c w hw h
  obtain rfl := Option.some.inj h
  simp [decodeWord, zeroElse, decodeBitw, packT_op, packT_18_7, packT_11_7, packT_4_7, packT_0_4]

theorem xor (d : BitVec 7) (a : BitVec 7) (b : BitVec 7) : Statement (.xor d a b) := by
  intro c w hw h
  obtain rfl := Option.some.inj h
  simp [decodeWord, zeroElse, decodeBitw, packT_op, packT_18_7, packT_11_7, packT_4_7, packT_0_4]

theorem andn (d : BitVec 7) (a : BitVec 7) (b : BitVec 7) : Statement (.andn d a b) := by
  intro c w hw h
  obtain rfl := Option.some.inj h
  simp [decodeWord, zeroElse, decodeBitw, packT_op, packT_18_7, packT_11_7, packT_4_7, packT_0_4]

theorem shl (d : BitVec 7) (a : BitVec 7) (b : BitVec 7) : Statement (.shl d a b) := by
  intro c w hw h
  obtain rfl := Option.some.inj h
  simp [decodeWord, zeroElse, decodeBitw, packT_op, packT_18_7, packT_11_7, packT_4_7, packT_0_4]

theorem shr (d : BitVec 7) (a : BitVec 7) (b : BitVec 7) : Statement (.shr d a b) := by
  intro c w hw h
  obtain rfl := Option.some.inj h
  simp [decodeWord, zeroElse, decodeBitw, packT_op, packT_18_7, packT_11_7, packT_4_7, packT_0_4]

theorem sar (d : BitVec 7) (a : BitVec 7) (b : BitVec 7) : Statement (.sar d a b) := by
  intro c w hw h
  obtain rfl := Option.some.inj h
  simp [decodeWord, zeroElse, decodeBitw, packT_op, packT_18_7, packT_11_7, packT_4_7, packT_0_4]

theorem rotl (d : BitVec 7) (a : BitVec 7) (b : BitVec 7) : Statement (.rotl d a b) := by
  intro c w hw h
  obtain rfl := Option.some.inj h
  simp [decodeWord, zeroElse, decodeBitw, packT_op, packT_18_7, packT_11_7, packT_4_7, packT_0_4]

theorem popc (d : BitVec 7) (a : BitVec 7) : Statement (.popc d a) := by
  intro c w hw h
  obtain rfl := Option.some.inj h
  simp [decodeWord, zeroElse, decodeBitw, packT_op, packT_4_7, packT_18_7, packT_11_7, packT_0_4]

theorem clz (d : BitVec 7) (a : BitVec 7) : Statement (.clz d a) := by
  intro c w hw h
  obtain rfl := Option.some.inj h
  simp [decodeWord, zeroElse, decodeBitw, packT_op, packT_4_7, packT_18_7, packT_11_7, packT_0_4]

theorem brev (d : BitVec 7) (a : BitVec 7) : Statement (.brev d a) := by
  intro c w hw h
  obtain rfl := Option.some.inj h
  simp [decodeWord, zeroElse, decodeBitw, packT_op, packT_4_7, packT_18_7, packT_11_7, packT_0_4]

theorem blut (d : BitVec 7) (a : BitVec 7) (b : BitVec 7) : Statement (.blut d a b) := by
  intro c w hw h
  obtain rfl := Option.some.inj h
  simp [decodeWord, zeroElse, decodeByte, packT_op, packT_18_7, packT_11_7, packT_4_7, packT_0_4]

theorem bshuf (d : BitVec 7) (a : BitVec 7) (b : BitVec 7) : Statement (.bshuf d a b) := by
  intro c w hw h
  obtain rfl := Option.some.inj h
  simp [decodeWord, zeroElse, decodeByte, packT_op, packT_18_7, packT_11_7, packT_4_7, packT_0_4]

theorem bcmpEq (d : BitVec 7) (a : BitVec 7) (b : BitVec 7) : Statement (.bcmpEq d a b) := by
  intro c w hw h
  obtain rfl := Option.some.inj h
  simp [decodeWord, zeroElse, decodeByte, packT_op, packT_18_7, packT_11_7, packT_4_7, packT_0_4]

theorem bcmpLt (d : BitVec 7) (a : BitVec 7) (b : BitVec 7) : Statement (.bcmpLt d a b) := by
  intro c w hw h
  obtain rfl := Option.some.inj h
  simp [decodeWord, zeroElse, decodeByte, packT_op, packT_18_7, packT_11_7, packT_4_7, packT_0_4]

theorem bcmpLtu (d : BitVec 7) (a : BitVec 7) (b : BitVec 7) : Statement (.bcmpLtu d a b) := by
  intro c w hw h
  obtain rfl := Option.some.inj h
  simp [decodeWord, zeroElse, decodeByte, packT_op, packT_18_7, packT_11_7, packT_4_7, packT_0_4]

theorem baddsI8 (d : BitVec 7) (a : BitVec 7) (b : BitVec 7) : Statement (.baddsI8 d a b) := by
  intro c w hw h
  obtain rfl := Option.some.inj h
  simp [decodeWord, zeroElse, decodeByte, packT_op, packT_18_7, packT_11_7, packT_4_7, packT_0_4]

theorem baddsN8 (d : BitVec 7) (a : BitVec 7) (b : BitVec 7) : Statement (.baddsN8 d a b) := by
  intro c w hw h
  obtain rfl := Option.some.inj h
  simp [decodeWord, zeroElse, decodeByte, packT_op, packT_18_7, packT_11_7, packT_4_7, packT_0_4]

theorem lshc (d : BitVec 7) (a : BitVec 7) (b : BitVec 7) (f : BitVec 4) : Statement (.lshc d a b f) := by
  intro c w hw h
  obtain rfl := Option.some.inj h
  simp [decodeWord, zeroElse, packT_op, packT_18_7, packT_11_7, packT_4_7, packT_0_4]

theorem xperm (d : BitVec 7) (a : BitVec 7) (b : BitVec 7) : Statement (.xperm d a b) := by
  intro c w hw h
  obtain rfl := Option.some.inj h
  simp [decodeWord, zeroElse, packT_op, packT_0_4, packT_18_7, packT_11_7, packT_4_7]

theorem vscan (d : BitVec 7) (a : BitVec 7) (f : BitVec 4) : Statement (.vscan d a f) := by
  intro c w hw h
  obtain rfl := Option.some.inj h
  simp [decodeWord, zeroElse, packT_op, packT_4_7, packT_18_7, packT_11_7, packT_0_4]

theorem vred (d : BitVec 7) (a : BitVec 7) (f : BitVec 4) : Statement (.vred d a f) := by
  intro c w hw h
  obtain rfl := Option.some.inj h
  simp [decodeWord, zeroElse, packT_op, packT_4_7, packT_18_7, packT_11_7, packT_0_4]

theorem fadd (d : BitVec 7) (a : BitVec 7) (b : BitVec 7) (f : BitVec 4) : Statement (.fadd d a b f) := by
  intro c w hw h
  obtain rfl := Option.some.inj h
  simp [decodeWord, zeroElse, packT_op, packT_18_7, packT_11_7, packT_4_7, packT_0_4]

theorem fsub (d : BitVec 7) (a : BitVec 7) (b : BitVec 7) (f : BitVec 4) : Statement (.fsub d a b f) := by
  intro c w hw h
  obtain rfl := Option.some.inj h
  simp [decodeWord, zeroElse, packT_op, packT_18_7, packT_11_7, packT_4_7, packT_0_4]

theorem fmul (d : BitVec 7) (a : BitVec 7) (b : BitVec 7) (f : BitVec 4) : Statement (.fmul d a b f) := by
  intro c w hw h
  obtain rfl := Option.some.inj h
  simp [decodeWord, zeroElse, packT_op, packT_18_7, packT_11_7, packT_4_7, packT_0_4]

theorem fma (d : BitVec 7) (a : BitVec 7) (b : BitVec 7) (f : BitVec 4) : Statement (.fma d a b f) := by
  intro c w hw h
  obtain rfl := Option.some.inj h
  simp [decodeWord, zeroElse, packT_op, packT_18_7, packT_11_7, packT_4_7, packT_0_4]

theorem fmin (d : BitVec 7) (a : BitVec 7) (b : BitVec 7) : Statement (.fmin d a b) := by
  intro c w hw h
  obtain rfl := Option.some.inj h
  simp [decodeWord, zeroElse, decodeFMinMax, packT_op, packT_18_7, packT_11_7, packT_4_7, packT_0_4]

theorem fmax (d : BitVec 7) (a : BitVec 7) (b : BitVec 7) : Statement (.fmax d a b) := by
  intro c w hw h
  obtain rfl := Option.some.inj h
  simp [decodeWord, zeroElse, decodeFMinMax, packT_op, packT_18_7, packT_11_7, packT_4_7, packT_0_4]

theorem fcmp (d : BitVec 7) (a : BitVec 7) (b : BitVec 7) : Statement (.fcmp d a b) := by
  intro c w hw h
  obtain rfl := Option.some.inj h
  simp [decodeWord, zeroElse, packT_op, packT_0_4, packT_18_7, packT_11_7, packT_4_7]

theorem fdiv (d : BitVec 7) (a : BitVec 7) (b : BitVec 7) (f : BitVec 4) : Statement (.fdiv d a b f) := by
  intro c w hw h
  obtain rfl := Option.some.inj h
  simp [decodeWord, zeroElse, packT_op, packT_18_7, packT_11_7, packT_4_7, packT_0_4]

theorem fsqrt (d : BitVec 7) (a : BitVec 7) (f : BitVec 4) : Statement (.fsqrt d a f) := by
  intro c w hw h
  obtain rfl := Option.some.inj h
  simp [decodeWord, zeroElse, decodeFun, packT_op, packT_18_7, packT_11_7, packT_0_4, packT_4_7]

theorem frcp (d : BitVec 7) (a : BitVec 7) (f : BitVec 4) : Statement (.frcp d a f) := by
  intro c w hw h
  obtain rfl := Option.some.inj h
  simp [decodeWord, zeroElse, decodeFun, packT_op, packT_18_7, packT_11_7, packT_0_4, packT_4_7]

theorem frsq (d : BitVec 7) (a : BitVec 7) (f : BitVec 4) : Statement (.frsq d a f) := by
  intro c w hw h
  obtain rfl := Option.some.inj h
  simp [decodeWord, zeroElse, decodeFun, packT_op, packT_18_7, packT_11_7, packT_0_4, packT_4_7]

theorem fexp2 (d : BitVec 7) (a : BitVec 7) (f : BitVec 4) : Statement (.fexp2 d a f) := by
  intro c w hw h
  obtain rfl := Option.some.inj h
  simp [decodeWord, zeroElse, decodeFun, packT_op, packT_18_7, packT_11_7, packT_0_4, packT_4_7]

theorem flog2 (d : BitVec 7) (a : BitVec 7) (f : BitVec 4) : Statement (.flog2 d a f) := by
  intro c w hw h
  obtain rfl := Option.some.inj h
  simp [decodeWord, zeroElse, decodeFun, packT_op, packT_18_7, packT_11_7, packT_0_4, packT_4_7]

theorem fsin (d : BitVec 7) (a : BitVec 7) (f : BitVec 4) : Statement (.fsin d a f) := by
  intro c w hw h
  obtain rfl := Option.some.inj h
  simp [decodeWord, zeroElse, decodeFun, packT_op, packT_18_7, packT_11_7, packT_0_4, packT_4_7]

theorem fcos (d : BitVec 7) (a : BitVec 7) (f : BitVec 4) : Statement (.fcos d a f) := by
  intro c w hw h
  obtain rfl := Option.some.inj h
  simp [decodeWord, zeroElse, decodeFun, packT_op, packT_18_7, packT_11_7, packT_0_4, packT_4_7]

theorem fclass (d : BitVec 7) (a : BitVec 7) : Statement (.fclass d a) := by
  intro c w hw h
  obtain rfl := Option.some.inj h
  simp [decodeWord, zeroElse, decodeFun, packT_op, packT_0_4, packT_18_7, packT_11_7, packT_4_7]

theorem cvt (d : BitVec 7) (a : BitVec 7) (dt : BitVec 5) (f : BitVec 4) : Statement (.cvt d a dt f) := by
  intro c w hw h
  obtain rfl := Option.some.inj h
  simp [decodeWord, zeroElse, packT_op, packT_9_2, packT_18_7, packT_11_7, packT_4_5, packT_0_4, slice_low_2_5, slice_high_2_5]

theorem xsum (data : BitVec 7) (base : BitVec 5) (index : BitVec 5) (scale : BitVec 2) (disp6 : BitVec 6) : Statement (.xsum data base index scale disp6) := by
  intro c w hw h
  obtain rfl := Option.some.inj h
  simp [decodeWord, zeroElse, packM_op, packM_18_7, packM_13_5, packM_8_5, packM_6_2, packM_0_6]

theorem sumrd (data : BitVec 7) (base : BitVec 5) (index : BitVec 5) (scale : BitVec 2) (disp6 : BitVec 6) : Statement (.sumrd data base index scale disp6) := by
  intro c w hw h
  obtain rfl := Option.some.inj h
  simp [decodeWord, zeroElse, packM_op, packM_18_7, packM_13_5, packM_8_5, packM_6_2, packM_0_6]

theorem ldg (data : BitVec 7) (base : BitVec 5) (index : BitVec 5) (scale : BitVec 2) (disp6 : BitVec 6) : Statement (.ldg data base index scale disp6) := by
  intro c w hw h
  obtain rfl := Option.some.inj h
  simp [decodeWord, zeroElse, packM_op, packM_18_7, packM_13_5, packM_8_5, packM_6_2, packM_0_6]

theorem ldgF (data : BitVec 7) (base : BitVec 5) (index : BitVec 5) (scale : BitVec 2) (disp6 : BitVec 6) : Statement (.ldgF data base index scale disp6) := by
  intro c w hw h
  obtain rfl := Option.some.inj h
  simp [decodeWord, zeroElse, packM_op, packM_18_7, packM_13_5, packM_8_5, packM_6_2, packM_0_6]

theorem stg (data : BitVec 7) (base : BitVec 5) (index : BitVec 5) (scale : BitVec 2) (disp6 : BitVec 6) : Statement (.stg data base index scale disp6) := by
  intro c w hw h
  obtain rfl := Option.some.inj h
  simp [decodeWord, zeroElse, packM_op, packM_18_7, packM_13_5, packM_8_5, packM_6_2, packM_0_6]

theorem ldk (data : BitVec 7) (base : BitVec 5) (scale : BitVec 2) (disp6 : BitVec 6) : Statement (.ldk data base scale disp6) := by
  intro c w hw h
  obtain rfl := Option.some.inj h
  simp [Instr.WellFormed, operandsOk] at hw
  simp [decodeWord, zeroElse, decodeConst, packM_op, packM_18_7, packM_13_5, packM_8_5, packM_6_2, packM_0_6, hw]

theorem pref (base : BitVec 5) (index : BitVec 5) (scale : BitVec 2) (disp6 : BitVec 6) : Statement (.pref base index scale disp6) := by
  intro c w hw h
  obtain rfl := Option.some.inj h
  simp [decodeWord, zeroElse, decodeConst, packM_op, packM_18_7, packM_13_5, packM_8_5, packM_6_2, packM_0_6]

theorem ldp (data : BitVec 7) (base : BitVec 5) (index : BitVec 5) (scale : BitVec 2) (disp6 : BitVec 6) : Statement (.ldp data base index scale disp6) := by
  intro c w hw h
  obtain rfl := Option.some.inj h
  simp [decodeWord, zeroElse, packM_op, packM_18_7, packM_13_5, packM_8_5, packM_6_2, packM_0_6]

theorem stp (data : BitVec 7) (base : BitVec 5) (index : BitVec 5) (scale : BitVec 2) (disp6 : BitVec 6) : Statement (.stp data base index scale disp6) := by
  intro c w hw h
  obtain rfl := Option.some.inj h
  simp [decodeWord, zeroElse, packM_op, packM_18_7, packM_13_5, packM_8_5, packM_6_2, packM_0_6]

theorem atomg (d : BitVec 7) (areg : BitVec 5) (b : BitVec 7) (f : BitVec 4) : Statement (.atomg d areg b f) := by
  intro c w hw h
  obtain rfl := Option.some.inj h
  simp [decodeWord, zeroElse, decodeAtom, packT_op, packT_18_7, packT_11_5, packT_4_7, packT_0_4, packT_16_2, slice_low_2_5, slice_high_2_5]

theorem atomp (d : BitVec 7) (areg : BitVec 5) (b : BitVec 7) (f : BitVec 4) : Statement (.atomp d areg b f) := by
  intro c w hw h
  obtain rfl := Option.some.inj h
  simp [decodeWord, zeroElse, decodeAtom, packT_op, packT_18_7, packT_11_5, packT_4_7, packT_0_4, packT_16_2, slice_low_2_5, slice_high_2_5]

theorem atomr (d : BitVec 7) (areg : BitVec 5) (b : BitVec 7) (f : BitVec 4) : Statement (.atomr d areg b f) := by
  intro c w hw h
  obtain rfl := Option.some.inj h
  simp [decodeWord, zeroElse, decodeAtom, packT_op, packT_18_7, packT_11_5, packT_4_7, packT_0_4, packT_16_2, slice_low_2_5, slice_high_2_5]

theorem cpy (d : BitVec 7) (a : BitVec 7) (b : BitVec 7) (ch : BitVec 2) : Statement (.cpy d a b ch) := by
  intro c w hw h
  obtain rfl := Option.some.inj h
  rcases two_bits ch with rfl | rfl | rfl | rfl <;> simp [decodeWord, zeroElse, decodeCopy, packT_op, packT_18_7, packT_11_7, packT_4_7, packT_0_2, packT_0_4, slice_low_2_2, slice_high_2_2]

theorem cpyi (d : BitVec 7) (a : BitVec 7) (b : BitVec 7) (ch : BitVec 2) : Statement (.cpyi d a b ch) := by
  intro c w hw h
  obtain rfl := Option.some.inj h
  rcases two_bits ch with rfl | rfl | rfl | rfl <;> simp [decodeWord, zeroElse, decodeCopy, packT_op, packT_18_7, packT_11_7, packT_4_7, packT_0_2, packT_0_4, slice_low_2_2, slice_high_2_2]

theorem cseal : Statement .cseal := by
  intro c w hw h
  obtain rfl := Option.some.inj h
  simp [decodeWord, zeroElse, decodeCopy, packT_op, packT_4_21, packT_0_4]

theorem cwait (b : BitVec 7) : Statement (.cwait b) := by
  intro c w hw h
  obtain rfl := Option.some.inj h
  simp [decodeWord, zeroElse, decodeCopy, packT_op, packT_11_14, packT_4_7, packT_0_4]

theorem pempty (a : BitVec 7) (b : BitVec 7) : Statement (.pempty a b) := by
  intro c w hw h
  obtain rfl := Option.some.inj h
  simp [decodeWord, zeroElse, decodeCopy, packT_op, packT_18_7, packT_11_7, packT_4_7, packT_0_4]

theorem fence : Statement .fence := by
  intro c w hw h
  obtain rfl := Option.some.inj h
  simp [decodeWord, zeroElse, decodeSync, packT_op, packT_4_21, packT_0_4]

theorem barinit (a : BitVec 7) (b : BitVec 7) : Statement (.barinit a b) := by
  intro c w hw h
  obtain rfl := Option.some.inj h
  simp [decodeWord, zeroElse, decodeSync, packT_op, packT_18_7, packT_11_7, packT_4_7, packT_0_4]

theorem bararr (d : BitVec 7) (a : BitVec 7) : Statement (.bararr d a) := by
  intro c w hw h
  obtain rfl := Option.some.inj h
  simp [decodeWord, zeroElse, decodeSync, packT_op, packT_4_7, packT_18_7, packT_11_7, packT_0_4]

theorem barwait (a : BitVec 7) (b : BitVec 7) : Statement (.barwait a b) := by
  intro c w hw h
  obtain rfl := Option.some.inj h
  simp [decodeWord, zeroElse, decodeSync, packT_op, packT_18_7, packT_11_7, packT_4_7, packT_0_4]

theorem barinv (a : BitVec 7) : Statement (.barinv a) := by
  intro c w hw h
  obtain rfl := Option.some.inj h
  simp [decodeWord, zeroElse, decodeSync, packT_op, packT_18_7, packT_4_7, packT_11_7, packT_0_4]

theorem semw (d : BitVec 7) (a : BitVec 7) (b : BitVec 7) : Statement (.semw d a b) := by
  intro c w hw h
  obtain rfl := Option.some.inj h
  simp [decodeWord, zeroElse, decodeSync, packT_op, packT_18_7, packT_11_7, packT_4_7, packT_0_4]

theorem sems (a : BitVec 7) (b : BitVec 7) : Statement (.sems a b) := by
  intro c w hw h
  obtain rfl := Option.some.inj h
  simp [decodeWord, zeroElse, decodeSync, packT_op, packT_18_7, packT_11_7, packT_4_7, packT_0_4]

theorem tlbinv (a : BitVec 7) (b : BitVec 7) : Statement (.tlbinv a b) := by
  intro c w hw h
  obtain rfl := Option.some.inj h
  simp [decodeWord, zeroElse, decodeSync, packT_op, packT_18_7, packT_11_7, packT_4_7, packT_0_4]

theorem sendq (d : BitVec 7) (a : BitVec 7) (b : BitVec 7) : Statement (.sendq d a b) := by
  intro c w hw h
  obtain rfl := Option.some.inj h
  simp [decodeWord, zeroElse, decodeQueue, packT_op, packT_18_7, packT_11_7, packT_4_7, packT_0_4]

theorem recvq (d : BitVec 7) (a : BitVec 7) : Statement (.recvq d a) := by
  intro c w hw h
  obtain rfl := Option.some.inj h
  simp [decodeWord, zeroElse, decodeQueue, packT_op, packT_4_7, packT_18_7, packT_11_7, packT_0_4]

theorem padopen (win : BitVec 2) (rights : BitVec 2) (a : BitVec 7) (b : BitVec 7) : Statement (.padopen win rights a b) := by
  intro c w hw h
  obtain rfl := Option.some.inj h
  simp [decodeWord, zeroElse, decodeQueue, packT_op, packT_22_3, packT_18_2, packT_20_2, packT_11_7, packT_4_7, packT_0_4, slice_low_3_2_2, slice_mid_3_2_2, slice_high_3_2_2]

theorem poolset (d : BitVec 7) (src : BitVec 3) (dst : BitVec 3) (b : BitVec 7) (f3 : BitVec 3) : Statement (.poolset d src dst b f3) := by
  intro c w hw h
  obtain rfl := Option.some.inj h
  simp [decodeWord, zeroElse, decodeGlade, packT_op, packT_3_1, packT_11_1, packT_18_7, packT_15_3, packT_12_3, packT_4_7, packT_0_3, packT_0_4, packT_4_8, slice_low_3_3_1, slice_mid_3_3_1, slice_high_3_3_1, slice_low_1_3, slice_high_1_3]

theorem poolq (d : BitVec 7) (src : BitVec 3) (dst : BitVec 3) : Statement (.poolq d src dst) := by
  intro c w hw h
  obtain rfl := Option.some.inj h
  simp [decodeWord, zeroElse, decodeGlade, packT_op, packT_0_4, packT_4_8, packT_18_7, packT_15_3, packT_12_3, packT_3_1, packT_11_1, packT_4_7, packT_0_3, slice_low_3_3_1, slice_mid_3_3_1, slice_high_3_3_1]

theorem mma (tile : BitVec 3) (ka : BitVec 7) (kb : BitVec 7) (fmt : BitVec 4) (step : BitVec 2) : Statement (.mma tile ka kb fmt step) := by
  intro c w hw h
  obtain rfl := Option.some.inj h
  simp [decodeWord, zeroElse, packK_op, packK_2_2, packK_22_3, packK_15_7, packK_8_7, packK_4_4, packK_0_2, slice_low_2_2, slice_high_2_2]

theorem mmas (tile : BitVec 3) (ka : BitVec 7) (kb : BitVec 7) (fmt : BitVec 4) (step : BitVec 2) : Statement (.mmas tile ka kb fmt step) := by
  intro c w hw h
  obtain rfl := Option.some.inj h
  simp [decodeWord, zeroElse, packK_op, packK_2_2, packK_22_3, packK_15_7, packK_8_7, packK_4_4, packK_0_2, slice_low_2_2, slice_high_2_2]

theorem mzero (tile : BitVec 3) (i32 : BitVec 1) : Statement (.mzero tile i32) := by
  intro c w hw h
  obtain rfl := Option.some.inj h
  simp [decodeWord, zeroElse, decodeMtile, packK_op, packK_8_14, packK_1_3, packK_22_3, packK_0_1, packK_4_4, slice_low_3_1, slice_high_3_1]

theorem mload (tile : BitVec 3) (ka : BitVec 7) (i32 : BitVec 1) : Statement (.mload tile ka i32) := by
  intro c w hw h
  obtain rfl := Option.some.inj h
  simp [decodeWord, zeroElse, decodeMtile, packK_op, packK_8_7, packK_1_3, packK_22_3, packK_15_7, packK_0_1, packK_4_4, slice_low_3_1, slice_high_3_1]

theorem mdrain (tile : BitVec 3) (ka : BitVec 7) (flags : BitVec 4) : Statement (.mdrain tile ka flags) := by
  intro c w hw h
  obtain rfl := Option.some.inj h
  simp [decodeWord, zeroElse, decodeMtile, packK_op, packK_8_7, packK_22_3, packK_15_7, packK_0_4, packK_4_4]

theorem mseal : Statement .mseal := by
  intro c w hw h
  obtain rfl := Option.some.inj h
  simp [decodeWord, zeroElse, decodeMctl, packK_op, packK_8_17, packK_0_4, packK_4_4]

theorem mwait (flags : BitVec 4) : Statement (.mwait flags) := by
  intro c w hw h
  obtain rfl := Option.some.inj h
  simp [decodeWord, zeroElse, decodeMctl, packK_op, packK_8_17, packK_0_4, packK_4_4]

theorem epload (tile : BitVec 3) (ka : BitVec 7) : Statement (.epload tile ka) := by
  intro c w hw h
  obtain rfl := Option.some.inj h
  simp [decodeWord, zeroElse, decodeMctl, packK_op, packK_8_7, packK_0_4, packK_22_3, packK_15_7, packK_4_4]

theorem rset (d : BitVec 7) (a : BitVec 7) (b : BitVec 7) (ch : BitVec 2) : Statement (.rset d a b ch) := by
  intro c w hw h
  obtain rfl := Option.some.inj h
  rcases two_bits ch with rfl | rfl | rfl | rfl <;> simp [decodeWord, zeroElse, decodeRgeo, packT_op, packT_18_7, packT_11_7, packT_4_7, packT_0_2, packT_0_4, slice_low_2_2, slice_high_2_2]

theorem rast (d : BitVec 7) (a : BitVec 7) (bw : BitVec 3) (bp : BitVec 3) : Statement (.rast d a bw bp) := by
  intro c w hw h
  obtain rfl := Option.some.inj h
  simp [decodeWord, zeroElse, decodeRgeo, packT_op, packT_10_1, packT_18_7, packT_11_7, packT_7_3, packT_4_3, packT_0_4, slice_low_1_3_3, slice_mid_1_3_3, slice_high_1_3_3]

theorem travset (d : BitVec 7) (bpair : BitVec 4) : Statement (.travset d bpair) := by
  intro c w hw h
  obtain rfl := Option.some.inj h
  simp [decodeWord, zeroElse, decodeRgeo, packT_op, packT_11_7, packT_4_3, packT_18_7, packT_7_4, packT_0_4, slice_low_4_3, slice_high_4_3]

theorem travRay (d : BitVec 7) (a : BitVec 7) (bpair : BitVec 4) (bp : BitVec 3) : Statement (.travRay d a bpair bp) := by
  intro c w hw h
  obtain rfl := Option.some.inj h
  simp [decodeWord, zeroElse, decodeRgeo, packT_op, packT_18_7, packT_11_7, packT_7_4, packT_4_3, packT_0_4, slice_low_4_3, slice_high_4_3]

theorem travBox (d : BitVec 7) (a : BitVec 7) (bpair : BitVec 4) (bp : BitVec 3) : Statement (.travBox d a bpair bp) := by
  intro c w hw h
  obtain rfl := Option.some.inj h
  simp [decodeWord, zeroElse, decodeRgeo, packT_op, packT_18_7, packT_11_7, packT_7_4, packT_4_3, packT_0_4, slice_low_4_3, slice_high_4_3]

theorem fbload (dch : BitVec 2) (a : BitVec 7) (b : BitVec 7) : Statement (.fbload dch a b) := by
  intro c w hw h
  obtain rfl := Option.some.inj h
  simp [decodeWord, zeroElse, decodeRgeo, packT_op, packT_20_5, packT_18_2, packT_11_7, packT_4_7, packT_0_4, slice_low_5_2, slice_high_5_2]

theorem fbstore (dch : BitVec 2) (a : BitVec 7) (b : BitVec 7) : Statement (.fbstore dch a b) := by
  intro c w hw h
  obtain rfl := Option.some.inj h
  simp [decodeWord, zeroElse, decodeRgeo, packT_op, packT_20_5, packT_18_2, packT_11_7, packT_4_7, packT_0_4, slice_low_5_2, slice_high_5_2]

theorem fbdone (a : BitVec 7) (b : BitVec 7) : Statement (.fbdone a b) := by
  intro c w hw h
  obtain rfl := Option.some.inj h
  simp [decodeWord, zeroElse, decodeRgeo, packT_op, packT_18_7, packT_11_7, packT_4_7, packT_0_4]

theorem vtest (pd : BitVec 3) (pa : BitVec 3) (b : BitVec 7) (f : BitVec 4) : Statement (.vtest pd pa b f) := by
  intro c w hw h
  obtain rfl := Option.some.inj h
  simp [Instr.WellFormed, operandsOk] at hw
  rcases vote_form f hw.2 with rfl | rfl | rfl | rfl | rfl | rfl <;> simp [decodeWord, zeroElse, decodeTile, packT_op, packT_21_4, packT_14_4, packT_18_3, packT_11_3, packT_4_7, packT_0_4, slice_low_4_3, slice_high_4_3]

theorem fbw (d : BitVec 7) (pa : BitVec 3) (b : BitVec 7) (f : BitVec 4) : Statement (.fbw d pa b f) := by
  intro c w hw h
  obtain rfl := Option.some.inj h
  simp [Instr.WellFormed, operandsOk] at hw
  rcases feedback_form f hw.1.2 hw.2 with rfl | rfl | rfl | rfl <;> simp [decodeWord, zeroElse, decodeTile, packT_op, packT_14_4, packT_18_7, packT_11_3, packT_4_7, packT_0_4, slice_low_4_3, slice_high_4_3]

theorem vsplit (wd : BitVec 3) (wr : BitVec 3) (pa : BitVec 3) : Statement (.vsplit wd wr pa) := by
  intro c w hw h
  obtain rfl := Option.some.inj h
  simp [decodeWord, zeroElse, decodeVint, packT_op, packT_24_1, packT_14_4, packT_4_7, packT_18_3, packT_21_3, packT_11_3, packT_0_4, slice_low_1_3_3, slice_mid_1_3_3, slice_high_1_3_3, slice_low_4_3, slice_high_4_3]

theorem vends (d : BitVec 7) (pa : BitVec 3) : Statement (.vends d pa) := by
  intro c w hw h
  obtain rfl := Option.some.inj h
  simp [decodeWord, zeroElse, decodeVint, packT_op, packT_14_4, packT_4_7, packT_18_7, packT_11_3, packT_0_4, slice_low_4_3, slice_high_4_3]

theorem vmask (pd : BitVec 3) (pa : BitVec 3) (b : BitVec 7) : Statement (.vmask pd pa b) := by
  intro c w hw h
  obtain rfl := Option.some.inj h
  simp [decodeWord, zeroElse, decodeVint, packT_op, packT_21_4, packT_14_4, packT_18_3, packT_11_3, packT_4_7, packT_0_4, slice_low_4_3, slice_high_4_3]

theorem vagree (gwd : BitVec 3) (gws : BitVec 3) (gt : BitVec 5) (gva : BitVec 5) (gvb : BitVec 5) : Statement (.vagree gwd gws gt gva gvb) := by
  intro c w hw h
  obtain rfl := Option.some.inj h
  simp [decodeWord, zeroElse, decodeVint, packV_op, packV_22_3, packV_19_3, packV_14_5, packV_9_5, packV_4_5, packV_0_4]

theorem vhalve (wd : BitVec 3) (wr : BitVec 3) (pa : BitVec 3) : Statement (.vhalve wd wr pa) := by
  intro c w hw h
  obtain rfl := Option.some.inj h
  simp [decodeWord, zeroElse, decodeVint, packT_op, packT_24_1, packT_14_4, packT_4_7, packT_18_3, packT_21_3, packT_11_3, packT_0_4, slice_low_1_3_3, slice_mid_1_3_3, slice_high_1_3_3, slice_low_4_3, slice_high_4_3]

theorem xpfx (kind : BitVec 3) (payload : BitVec 22) : Statement (.xpfx kind payload) := by
  intro c w hw h
  obtain rfl := Option.some.inj h
  simp [decodeWord, zeroElse, packX_op, packX_0_22, packX_22_3, packX_31_1, chainBit]

theorem parkedTractServe (core : Nat) : Statement (.parkedTractServe core) := by
  intro c w _ h
  exact absurd h (by simp [encode])

theorem pendingPieceStart (ctx : Nat) : Statement (.pendingPieceStart ctx) := by
  intro c w _ h
  exact absurd h (by simp [encode])

theorem rjoinWaitExpire (ctx : Nat) : Statement (.rjoinWaitExpire ctx) := by
  intro c w _ h
  exact absurd h (by simp [encode])

theorem versionCommit (task : Nat) : Statement (.versionCommit task) := by
  intro c w _ h
  exact absurd h (by simp [encode])

theorem standSpill (core : Nat) : Statement (.standSpill core) := by
  intro c w _ h
  exact absurd h (by simp [encode])

theorem spillReturn (core : Nat) : Statement (.spillReturn core) := by
  intro c w _ h
  exact absurd h (by simp [encode])

theorem clearingComplete (core : Nat) : Statement (.clearingComplete core) := by
  intro c w _ h
  exact absurd h (by simp [encode])

theorem waitLimitExpire (ctx : Nat) (pathNo : Nat) : Statement (.waitLimitExpire ctx pathNo) := by
  intro c w _ h
  exact absurd h (by simp [encode])

theorem semwWaitLimit (ctx : Nat) (pathNo : Nat) : Statement (.semwWaitLimit ctx pathNo) := by
  intro c w _ h
  exact absurd h (by simp [encode])

theorem yieldHoldExpire (ctx : Nat) (pathNo : Nat) : Statement (.yieldHoldExpire ctx pathNo) := by
  intro c w _ h
  exact absurd h (by simp [encode])

theorem bankPortUrgent (ctx : Nat) : Statement (.bankPortUrgent ctx) := by
  intro c w _ h
  exact absurd h (by simp [encode])

theorem homeLoad (n : Nat) : Statement (.homeLoad n) := by
  intro c w _ h
  exact absurd h (by simp [encode])

theorem homeStore (n : Nat) : Statement (.homeStore n) := by
  intro c w _ h
  exact absurd h (by simp [encode])

theorem homeAtomic (n : Nat) : Statement (.homeAtomic n) := by
  intro c w _ h
  exact absurd h (by simp [encode])

theorem copyStart (core : Nat) (ch : Nat) (n : Nat) : Statement (.copyStart core ch n) := by
  intro c w _ h
  exact absurd h (by simp [encode])

theorem copyComplete (core : Nat) (ch : Nat) : Statement (.copyComplete core ch) := by
  intro c w _ h
  exact absurd h (by simp [encode])

theorem matrixOpExecute (core : Nat) (n : Nat) : Statement (.matrixOpExecute core n) := by
  intro c w _ h
  exact absurd h (by simp [encode])

theorem drainExecute (core : Nat) (n : Nat) : Statement (.drainExecute core n) := by
  intro c w _ h
  exact absurd h (by simp [encode])

theorem inboxMessageArrive (n : Nat) : Statement (.inboxMessageArrive n) := by
  intro c w _ h
  exact absurd h (by simp [encode])

theorem atomrExecute (n : Nat) : Statement (.atomrExecute n) := by
  intro c w _ h
  exact absurd h (by simp [encode])

theorem preemptRequest (task : Nat) : Statement (.preemptRequest task) := by
  intro c w _ h
  exact absurd h (by simp [encode])

theorem preemptDeferTimeout (task : Nat) : Statement (.preemptDeferTimeout task) := by
  intro c w _ h
  exact absurd h (by simp [encode])

theorem contextSave (task : Nat) : Statement (.contextSave task) := by
  intro c w _ h
  exact absurd h (by simp [encode])

theorem contextRestore (task : Nat) (core : Nat) : Statement (.contextRestore task core) := by
  intro c w _ h
  exact absurd h (by simp [encode])

theorem selfTestComplete (core : Nat) (unit : Nat) (lasting : Bool) (residue : Bool) (ctx : Nat) : Statement (.selfTestComplete core unit lasting residue ctx) := by
  intro c w _ h
  exact absurd h (by simp [encode])

theorem pageWalk (core : Nat) (part : Nat) (va : Nat) (write : Bool) : Statement (.pageWalk core part va write) := by
  intro c w _ h
  exact absurd h (by simp [encode])

theorem trackerEpochEnd : Statement .trackerEpochEnd := by
  intro c w _ h
  exact absurd h (by simp [encode])

theorem swapLineMove (pair : Nat) (bad : Bool) : Statement (.swapLineMove pair bad) := by
  intro c w _ h
  exact absurd h (by simp [encode])

theorem regload (resv : BitVec 56) (arg0 : BitVec 64) (arg1 : BitVec 64) (seq : BitVec 64) : Statement (.regload resv arg0 arg1 seq) := by
  intro c w _ h
  exact absurd h (by simp [encode])

theorem regfree (resv : BitVec 56) (arg0 : BitVec 64) (arg1 : BitVec 64) (seq : BitVec 64) : Statement (.regfree resv arg0 arg1 seq) := by
  intro c w _ h
  exact absurd h (by simp [encode])

theorem qset (resv : BitVec 56) (arg0 : BitVec 64) (arg1 : BitVec 64) (seq : BitVec 64) : Statement (.qset resv arg0 arg1 seq) := by
  intro c w _ h
  exact absurd h (by simp [encode])

theorem qstop (resv : BitVec 56) (arg0 : BitVec 64) (arg1 : BitVec 64) (seq : BitVec 64) : Statement (.qstop resv arg0 arg1 seq) := by
  intro c w _ h
  exact absurd h (by simp [encode])

theorem semset (resv : BitVec 56) (arg0 : BitVec 64) (arg1 : BitVec 64) (seq : BitVec 64) : Statement (.semset resv arg0 arg1 seq) := by
  intro c w _ h
  exact absurd h (by simp [encode])

theorem hostSlotWrite (q : Nat) (rec : Nat × List (BitVec 8)) : Statement (.hostSlotWrite q rec) := by
  intro c w _ h
  exact absurd h (by simp [encode])

theorem launchDequeue : Statement .launchDequeue := by
  intro c w _ h
  exact absurd h (by simp [encode])

theorem launchSemaphoreWait (serial : Nat) : Statement (.launchSemaphoreWait serial) := by
  intro c w _ h
  exact absurd h (by simp [encode])

theorem piecePlacement (die : Nat) : Statement (.piecePlacement die) := by
  intro c w _ h
  exact absurd h (by simp [encode])

theorem completionRecordWrite (serial : Nat) : Statement (.completionRecordWrite serial) := by
  intro c w _ h
  exact absurd h (by simp [encode])

theorem dieResetOrderly (die : Nat) : Statement (.dieResetOrderly die) := by
  intro c w _ h
  exact absurd h (by simp [encode])

theorem dieResetUnplanned (die : Nat) : Statement (.dieResetUnplanned die) := by
  intro c w _ h
  exact absurd h (by simp [encode])

theorem dieResetReturn (die : Nat) : Statement (.dieResetReturn die) := by
  intro c w _ h
  exact absurd h (by simp [encode])

theorem moduleReset : Statement .moduleReset := by
  intro c w _ h
  exact absurd h (by simp [encode])

theorem bringupRom (ok : Bool) : Statement (.bringupRom ok) := by
  intro c w _ h
  exact absurd h (by simp [encode])

theorem bringupFw (ok : Bool) : Statement (.bringupFw ok) := by
  intro c w _ h
  exact absurd h (by simp [encode])

theorem bringupConfig (image : List (BitVec 8)) (sigOk : Bool) : Statement (.bringupConfig image sigOk) := by
  intro c w _ h
  exact absurd h (by simp [encode])

theorem bringupMemory (ok : Bool) : Statement (.bringupMemory ok) := by
  intro c w _ h
  exact absurd h (by simp [encode])

theorem bringupDies (ok : Bool) : Statement (.bringupDies ok) := by
  intro c w _ h
  exact absurd h (by simp [encode])

theorem bringupHost (ok : Bool) : Statement (.bringupHost ok) := by
  intro c w _ h
  exact absurd h (by simp [encode])

theorem configRecordLoad (image : List (BitVec 8)) (sigOk : Bool) : Statement (.configRecordLoad image sigOk) := by
  intro c w _ h
  exact absurd h (by simp [encode])

theorem rootRegisterSet (part : Nat) (val : BitVec 64) : Statement (.rootRegisterSet part val) := by
  intro c w _ h
  exact absurd h (by simp [encode])

theorem capabilityRegisterSet (part : Nat) (val : BitVec 64) : Statement (.capabilityRegisterSet part val) := by
  intro c w _ h
  exact absurd h (by simp [encode])

theorem attestationRequest (part : Nat) (nonce : BitVec 256) : Statement (.attestationRequest part nonce) := by
  intro c w _ h
  exact absurd h (by simp [encode])

theorem hostMemWrite (pa : Nat) (data : List (BitVec 8)) : Statement (.hostMemWrite pa data) := by
  intro c w _ h
  exact absurd h (by simp [encode])

theorem hostMemRead (pa : Nat) (size : Nat) : Statement (.hostMemRead pa size) := by
  intro c w _ h
  exact absurd h (by simp [encode])

theorem backInvalidateResponse (n : Nat) : Statement (.backInvalidateResponse n) := by
  intro c w _ h
  exact absurd h (by simp [encode])

theorem droopReport (die : Nat) (steps : Nat) : Statement (.droopReport die steps) := by
  intro c w _ h
  exact absurd h (by simp [encode])

theorem clockStepRise (die : Nat) : Statement (.clockStepRise die) := by
  intro c w _ h
  exact absurd h (by simp [encode])

theorem sagCounterClear (die : Nat) (val : BitVec 64) : Statement (.sagCounterClear die val) := by
  intro c w _ h
  exact absurd h (by simp [encode])

theorem trackerControlWrite (part : Nat) (val : BitVec 64) : Statement (.trackerControlWrite part val) := by
  intro c w _ h
  exact absurd h (by simp [encode])

theorem registerWrite (part : Nat) (reg : Nat) (val : BitVec 64) : Statement (.registerWrite part reg val) := by
  intro c w _ h
  exact absurd h (by simp [encode])

theorem pendingHorizonGuardReached (ctx : Nat) (pathNo : Nat) : Statement (.pendingHorizonGuardReached ctx pathNo) := by
  intro c w _ h
  exact absurd h (by simp [encode])

theorem powerLoss : Statement .powerLoss := by
  intro c w _ h
  exact absurd h (by simp [encode])

theorem hostLineAccess (pa : Nat) (data : List (BitVec 8)) (write : Bool) : Statement (.hostLineAccess pa data write) := by
  intro c w _ h
  exact absurd h (by simp [encode])

end Sys2Proof.Laws.Encoding
end

