-- ==== Sys2Proof/Laws/Signatures.lean ====
section
/-! SUPPORT. The lengths of digests and signatures: a digest has 32 bytes and a signature of the device 2,820 (R411, R414). -/

namespace Sys2Proof.Machine

theorem lanesBy_length (f : Nat → Nat → Nat) : (lanesBy f).length = 25 := by simp [lanesBy]

theorem keccakRound_length (a : List Nat) (k : Nat) : (keccakRound a k).length = 25 := by
  unfold keccakRound
  exact lanesBy_length _

theorem keccak_length (a : List Nat) : (keccak a).length = 25 := by
  have h (l : List Nat) (k : Nat) (b : List Nat) : ((k :: l).foldl keccakRound b).length = 25 := by
    induction l generalizing k b with
    | nil => exact keccakRound_length _ _
    | cons _ _ ih => exact ih _ _
  exact h _ _ _

theorem absorbAll_length (fuel : Nat) (a : List Nat) (l : List Byte) (h : a.length = 25) : (absorbAll fuel a l).length = 25 := by
  induction fuel generalizing a l with
  | zero => exact h
  | succ n ih =>
    unfold absorbAll
    split
    · exact h
    · exact ih _ _ (keccak_length _)

/-- A digest has 32 bytes. -/
theorem shake256_length (m : List Byte) : (shake256 m).length = 32 := by
  unfold shake256
  rw [flatMap_length _ _ 8 fun _ => bytesLE_length 8 _, List.length_take, absorbAll_length _ _ _ (by simp)]
  rfl

theorem bytesBE_length (n x : Nat) : (bytesBE n x).length = n := by simp [bytesBE, bytesLE_length]

theorem keyed_length (k : Nat) (key m : List Byte) : (keyed k key m).length = 32 := shake256_length _

theorem hashPair_length (seed : List Byte) (p : HashPlace) (l r : List Byte) : (hashPair seed p l r).length = 32 :=
  keyed_length _ _ _

theorem SignKey.chain_length (k : SignKey) (leaf c n : Nat) : (k.chain leaf c n).length = 32 := by
  cases n with
  | zero => exact bytesBE_length _ _
  | succ n => exact keyed_length _ _ _

theorem levelUp_shape (seed : List Byte) (leaf height i : Nat) (l : List (List Byte)) (h : ∀ x ∈ l, x.length = 32) :
    (∀ x ∈ levelUp seed leaf height i l, x.length = 32) ∧ (l ≠ [] → levelUp seed leaf height i l ≠ []) := by
  fun_induction levelUp seed leaf height i l with
  | case1 i l r rest ih =>
    refine ⟨?_, by simp⟩
    intro x hx
    rcases List.mem_cons.mp hx with rfl | hx
    · exact keyed_length _ _ _
    · exact (ih fun y hy => h y (by simp [hy])).1 x hx
  | case2 i l => exact ⟨h, id⟩

theorem leafRoot_length (seed : List Byte) (leaf : Nat) (ends : List (List Byte)) (h : ∀ x ∈ ends, x.length = 32) (hn : ends ≠ []) :
    (leafRoot seed leaf ends).length = 32 := by
  have key (hs : List Nat) (l : List (List Byte)) (h : ∀ x ∈ l, x.length = 32) (hn : l ≠ []) :
      ((hs.foldl (fun l k => levelUp seed leaf k 0 l) l).headD []).length = 32 := by
    induction hs generalizing l with
    | nil =>
      obtain ⟨x, l, rfl⟩ := List.exists_cons_of_ne_nil hn
      exact h x (by simp)
    | cons k hs ih =>
      have := levelUp_shape seed leaf k 0 l h
      exact ih _ this.1 (this.2 hn)
  exact key _ _ h hn

theorem SignKey.leaf_length (k : SignKey) (leaf : Nat) : (k.leaf leaf).length = 32 := by
  have hn : List.range chainCount ≠ [] := by decide
  unfold SignKey.leaf
  refine leafRoot_length _ _ _ (fun x hx => ?_) (mt List.map_eq_nil_iff.mp hn)
  obtain ⟨c, -, rfl⟩ := List.mem_map.mp hx
  exact k.chain_length _ _ _

theorem SignKey.node_length (k : SignKey) (h i : Nat) : (k.node h i).length = 32 := by
  cases h with
  | zero => exact k.leaf_length i
  | succ h =>
    unfold SignKey.node
    exact hashPair_length _ _ _ _

theorem chainDigits_length (d : List Byte) (h : d.length = 32) : (chainDigits d).length = chainCount := by
  have hex (l : List Byte) : (hexDigits l).length = 2 * l.length := by
    induction l with
    | nil => rfl
    | cons x l ih =>
      simp only [hexDigits, List.flatMap_cons, List.length_append, List.length_cons, List.length_nil] at ih ⊢
      omega
  simp [chainDigits, hex, h, bytesBE_length, chainCount]

theorem messageDigest_length (r root : List Byte) (leaf : Nat) (m : List Byte) : (messageDigest r root leaf m).length = 32 :=
  keyed_length _ _ _

/-- A signature has the length that R411 and R414 give it. -/
theorem SignKey.sign_length (k : SignKey) (leaf : Nat) (r m : List Byte) (h : r.length = 32) :
    (k.sign leaf r m).length = signatureLength := by
  unfold SignKey.sign
  simp only [List.length_append, bytesBE_length, h]
  rw [flatMap_length _ _ 32 fun d => k.chain_length _ _ _, flatMap_length _ _ 32 fun _ => k.node_length _ _, List.length_zip,
    chainDigits_length _ (messageDigest_length _ _ _ _)]
  simp [signatureLength, chainCount]

/-- A signature of the device has 2,820 bytes (R414). -/
theorem signatureOf_length (leaf : Nat) (m : List Byte) : (signatureOf leaf m).length = 2820 :=
  deviceKey.sign_length _ _ _ (keyed_length _ _ _)

/-! ## A signature that a key makes holds under its public half -/

theorem chainOn_add (seed : List Byte) (leaf c i j n : Nat) (x : List Byte) :
    chainOn seed leaf c (i + j) (chainOn seed leaf c i x j) n = chainOn seed leaf c i x (j + n) := by
  induction n with
  | zero => rfl
  | succ n ih =>
    rw [← Nat.add_assoc j n 1]
    simp only [chainOn, ih, Nat.add_assoc]

theorem hexDigits_le (l : List Byte) : ∀ d ∈ hexDigits l, d ≤ 15 := by
  intro d hd
  obtain ⟨b, -, hb⟩ := List.mem_flatMap.mp hd
  have := b.isLt
  simp only [List.mem_cons, List.not_mem_nil, or_false] at hb
  omega

theorem chainDigits_le (l : List Byte) : ∀ d ∈ chainDigits l, d ≤ 15 := by
  intro d hd
  rcases List.mem_append.mp hd with h | h
  · exact hexDigits_le _ d h
  · exact hexDigits_le _ d (List.mem_of_mem_take h)

/-- A piece of equal pieces one after another. -/
theorem stringAt_flatMap {α : Type} (f : α → List Byte) (hf : ∀ x, (f x).length = 32) (l : List α) (n : Nat) (x : α) (h : l[n]? = some x)
    (rest : List Byte) : stringAt (l.flatMap f ++ rest) n = f x := by
  unfold stringAt
  induction l generalizing n with
  | nil => simp at h
  | cons y l ih =>
    cases n with
    | zero =>
      obtain rfl : y = x := by simpa using h
      simp [hf]
    | succ n =>
      have e : 32 * (n + 1) = (f y).length + 32 * n := by rw [hf]; omega
      rw [List.flatMap_cons, List.append_assoc, e, ← List.drop_drop, List.drop_left]
      exact ih n (by simpa using h)

theorem ofBytesBE_bytesBE (n x : Nat) (h : x < 256 ^ n) : ofBytesBE (bytesBE n x) = x := by
  have key : ∀ n x, ofBytesLE (bytesLE n x) = x % 256 ^ n := by
    intro n
    induction n with
    | zero => intro x; simp [bytesLE, ofBytesLE, Nat.mod_one]
    | succ n ih =>
      intro x
      rw [Nat.pow_succ', Nat.mod_mul]
      simp only [bytesLE, ofBytesLE, ih, BitVec.toNat_ofNat, Nat.reducePow]
  rw [ofBytesBE, bytesBE, List.reverse_reverse, key, Nat.mod_eq_of_lt h]

/-- The ends of the chains that a signature leads to are those of its key. -/
theorem SignKey.ends (k : SignKey) (leaf : Nat) (digest rest : List Byte) (h : digest.length = 32) :
    endsOf k.seedBytes leaf digest (((List.zip (chainDigits digest) (List.range chainCount)).flatMap fun d => k.chain leaf d.2 d.1) ++ rest)
      = (List.range chainCount).map fun c => k.chain leaf c 15 := by
  unfold endsOf
  have hl : (List.zip (chainDigits digest) (List.range chainCount)).length = chainCount := by
    rw [List.length_zip, chainDigits_length _ h, List.length_range, Nat.min_self]
  refine List.ext_getElem (by rw [List.length_map, List.length_map, hl, List.length_range]) fun n h1 h2 => ?_
  have hn : n < chainCount := by simpa using h2
  have hz : n < (List.zip (chainDigits digest) (List.range chainCount)).length := by rw [hl]; exact hn
  simp only [List.getElem_map, List.getElem_zip, List.getElem_range]
  have hs := stringAt_flatMap (fun d : Nat × Nat => k.chain leaf d.2 d.1) (fun d => k.chain_length _ _ _) _ n _
    (List.getElem?_eq_getElem hz) rest
  rw [hs, List.getElem_zip, List.getElem_range]
  have hd : n < (chainDigits digest).length := by rw [chainDigits_length _ h]; exact hn
  have := chainDigits_le digest _ (List.getElem_mem hd)
  have e := chainOn_add k.seedBytes leaf n 0 (chainDigits digest)[n] (15 - (chainDigits digest)[n]) (string256 (k.secret leaf n))
  rw [Nat.zero_add, Nat.add_sub_cancel' this] at e
  exact e

/-- Up the tree, the path of a leaf passes the nodes above it. -/
theorem SignKey.climbs (k : SignKey) (leaf : Nat) (rest : List Byte) (n : Nat) (hn : n ≤ treeHeight) :
    (List.range n).foldl (climb k.seedBytes leaf (((List.range treeHeight).flatMap fun h => k.node h (natXor (leaf / 2 ^ h) 1)) ++ rest))
      (k.leaf leaf) = k.node n (leaf / 2 ^ n) := by
  induction n with
  | zero => rw [List.range_zero, List.foldl_nil, Nat.pow_zero, Nat.div_one, SignKey.node]
  | succ n ih =>
    rw [List.range_succ, List.foldl_append, ih (by omega)]
    have hs := stringAt_flatMap (fun h => k.node h (natXor (leaf / 2 ^ h) 1)) (fun h => k.node_length _ _) (List.range treeHeight) n n
      (by rw [List.getElem?_range (by omega)]) rest
    simp only [List.foldl_cons, List.foldl_nil, climb, hs, SignKey.node]
    have hq : leaf / 2 ^ (n + 1) = leaf / 2 ^ n / 2 := by rw [Nat.pow_succ, Nat.div_div_eq_div_mul]
    rw [hq]
    generalize leaf / 2 ^ n = q
    have hx : natXor q 1 = if q % 2 = 0 then q + 1 else q - 1 := by
      unfold natXor
      have d : (q ^^^ 1) / 2 = q / 2 := by simpa using Nat.xor_div_two (a := q) (b := 1)
      have e := Nat.xor_mod_two_eq_one (a := q) (b := 1)
      split <;> omega
    split <;> rename_i h
    · rw [hx, if_pos h, show 2 * (q / 2) = q by omega]
    · rw [hx, if_neg h, show 2 * (q / 2) + 1 = q by omega, show 2 * (q / 2) = q - 1 by omega]

/-- A signature that a key makes holds under its public half (R414). -/
theorem SignKey.sign_holds (k : SignKey) (leaf : Nat) (r m : List Byte) (h : leaf < 2 ^ treeHeight) (hr : r.length = 32) :
    signatureHolds k.public m (k.sign leaf r m) = true := by
  have hl : ofBytesBE (bytesBE 4 leaf) = leaf := ofBytesBE_bytesBE 4 leaf (Nat.lt_trans h (by decide))
  have h4 : (bytesBE 4 leaf).length = 4 := bytesBE_length _ _
  let digest := messageDigest r k.public.1 leaf m
  let chains := (List.zip (chainDigits digest) (List.range chainCount)).flatMap fun d => k.chain leaf d.2 d.1
  let path := (List.range treeHeight).flatMap fun h => k.node h (natXor (leaf / 2 ^ h) 1)
  have hs : k.sign leaf r m = bytesBE 4 leaf ++ (r ++ (chains ++ path)) := by
    simp only [SignKey.sign, List.append_assoc, chains, path, digest]
  have hd : digest.length = 32 := messageDigest_length _ _ _ _
  have hc : chains.length = 32 * chainCount := by
    rw [flatMap_length _ _ 32 fun d => k.chain_length _ _ _, List.length_zip, chainDigits_length _ hd]; rfl
  have t4 : (k.sign leaf r m).take 4 = bytesBE 4 leaf := by rw [hs, List.take_left' h4]
  have d4 : (k.sign leaf r m).drop 4 = r ++ (chains ++ path) := by rw [hs, List.drop_left' h4]
  have d36 : (k.sign leaf r m).drop 36 = chains ++ path := by
    rw [show 36 = 4 + 32 from rfl, ← List.drop_drop, d4, List.drop_left' hr]
  have dp : (k.sign leaf r m).drop (36 + 32 * chainCount) = path := by
    rw [← List.drop_drop,  d36, List.drop_left' hc]
  have hp := k.climbs leaf [] treeHeight (Nat.le_refl _)
  rw [List.append_nil] at hp
  have hq : leaf / 2 ^ treeHeight = 0 := Nat.div_eq_of_lt h
  rw [hq] at hp
  have hu : k.public.2 = k.seedBytes := rfl
  have hv : k.public.1 = k.node treeHeight 0 := rfl
  have hf : leafRoot k.seedBytes leaf ((List.range chainCount).map fun c => k.chain leaf c 15) = k.leaf leaf := rfl
  have hr' : (r ++ (chains ++ path)).take 32 = r := List.take_left' hr
  have he := k.ends leaf digest path hd
  simp only [signatureHolds, k.sign_length leaf r m hr, beq_self_eq_true, Bool.true_and, t4, hl, d4, d36, dp, hr', h, decide_true, hu]
  simp only [digest, chains, path] at he hp ⊢
  rw [he, hf, hp, hv, beq_self_eq_true]

end Sys2Proof.Machine
end

