-- ==== Sys2Proof/Tests/Slice0.lean ====
section
/-! SUPPORT. Tests of single steps: words written out in the spec decode to their instructions, ill-formed terms are refused,
and every statement's hypotheses are met by some state (one theorem per statement, one conjunct per clause). -/

set_option autoImplicit false
set_option Elab.async false
set_option linter.unusedSimpArgs false

namespace Sys2Proof.Tests

open Sys2Proof.Machine

/-! ## A small machine -/

/-- v registers 0 to 15 of tag int32, 16 to 31 of tag f32, the rest raw; lane l of register n holds n + l. -/
def someV : Vector VReg 64 :=
  Vector.ofFn fun n => ⟨Vector.ofFn fun l => BitVec.ofNat 32 (n.val + l.val), if n.val < 16 then .int32 else if n.val < 32 then .f32 else .raw⟩

/-- A uniform integer form. -/
def num (x : Nat) : AReg := uniform (BitVec.ofNat 64 x) .int32

/-- Registers with some a-registers set. -/
def regsWith (l : List (Nat × AReg)) : Regs :=
  { Regs.reset with v := someV, a := l.foldl (fun v x => vset v x.1 x.2) Regs.reset.a }

/-- A path with the word in slot 0 of packet 4 under issue. -/
def onePath (mask : Word64) : Path := { Path.start 0 4 mask with slot := 1, run := some (4, [0]) }

/-- A region with a handler at packet 2 of code 0x9000, and a wait limit of 256 ns. -/
def region1 : Region where
  num := 1
  addr := 0x5000
  parent := none
  prio := 3
  part := 0
  level := 0
  state := 1
  inherit := 0
  cores := 8
  farPages := 0
  vquota := 0
  waitLim := 1
  budget := Vector.replicate 5 96
  dieMask := 1
  clFirst := 0
  clLast := 0
  coreMask := 1
  lease := Vector.replicate 4 0
  hcode := 0x9000
  hentry := 2
  fring := 0
  frsize := 0
  frhead := 0
  frtail := 0
  semBase := 0
  semCnt := 16
  used := Vector.replicate 5 0
  cused := 0
  fused := 0
  lost := 0

/-- A running task of region 1 with 32 KiB of pad. -/
def task1 : Task :=
  { Task.none with tid := 1, region := 1, code := 0x8000, box := ⟨0, 64, 0, 1, 0, 1⟩, epb := 0x3000, epblen := 64, phase := .running, fsize := 2
                   padSlots := [0, 1], pinned := false, placedAt := 0 }

/-- The leaf entry of a 1 GiB page at frame 0: V, R, W, X, LEAF, A and D. -/
def leaf1 : Word64 := 0xDF#64

/-- A core with the translation of the first GiB. -/
def core1 : Core := { Core.reset 0 with tlb := [⟨0, 0, 30, leaf1⟩] }

/-- A stand of 64 items, one word of it under issue. -/
def stand (l : List (Nat × AReg)) (mask : Word64) : State :=
  { State.reset with
    time := 1000
    me := { Context.idle with id := 7, task := 1, kind := .stand, box := ⟨0, 64, 0, 1, 0, 1⟩, regs := regsWith l, path := onePath mask
                              nextPath := 1 }
    task := task1
    core := core1
    dev := { Device.reset with bringState := 6, regions := [region1] } }

/-- All lanes. -/
def all : Word64 := 0xFFFFFFFFFFFFFFFF#64

/-- The same context as a tract. -/
def tract (l : List (Nat × AReg)) : State :=
  let s := stand l 0
  { s with me := { s.me with kind := .tract } }

/-- The state with leading words before its word. -/
def led (s : State) (l : Lead) : State := { s with me := { s.me with path := { s.me.path with lead := l } } }

/-- The state in its handler. -/
def handled (s : State) : State :=
  { s with me := { s.me with frame := some ⟨s.me.path.settled, [], [], 0, 0x8000, ⟨1, 0, 0, 0, 0⟩, 0x9000⟩ } }

/-- A leading word of kind 3 alone: predicate, aux, type and third operand (R214). -/
def lead3 (third typ pred aux : Nat) : Lead :=
  { Lead.none with extra := some (BitVec.ofNat 22 (third * 2 ^ 15 + typ * 2 ^ 10 + pred * 2 ^ 7 + aux)), count := 1 }

/-- A result is a value that passes a test. -/
def resOk {α : Type} (r : Res α) (p : α → Bool) : Bool := match r with | .ok a => p a | _ => false

/-- A result is a value that passes a test. -/
def excOk {ε α : Type} (r : Except ε α) (p : α → Bool) : Bool := match r with | .ok a => p a | .error _ => false

theorem resOk_spec {α : Type} {r : Res α} {p : α → Bool} (h : resOk r p = true) : ∃ a, r = .ok a ∧ p a = true := by
  cases r <;> simp_all [resOk]

theorem excOk_spec {ε α : Type} {r : Except ε α} {p : α → Bool} (h : excOk r p = true) : ∃ a, r = .ok a ∧ p a = true := by
  cases r <;> simp_all [excOk]

/-- A value that is there and passes a test. -/
theorem opt_spec {α : Type} {r : Option α} {p : α → Bool} (h : r.any p = true) : ∃ a, r = some a ∧ p a = true := by
  cases r <;> simp_all

/-- The base register a5 at an address of the first page. -/
def at5 (x m : Nat) : State := stand [(5, num x)] (BitVec.ofNat 64 m)

theorem quiet_at5 (x m : Nat) : Quiet (at5 x m) :=
  ⟨rfl, ⟨rfl, fun t h => by rw [show t = task1 from List.mem_singleton.mp h]; rfl, rfl⟩, Nat.zero_le _⟩

/-- The stand with its task's REG bank. -/
def withFile (s : State) : State := { s with core := setBanks s.core [32] .reg (some 1) }

/-- No context, engine or remote atomic of a task waits on an empty line. -/
def calm (s : State) (t : Task) : Bool :=
  ((everyCtxOf s t.tid).all fun c => (pathsOf c).all fun p => (linesAwaited p).isEmpty)
    && (getCore s t.core).matq.all (fun o => o.since.isNone)
    && ((getCore s t.core).chans.toList.all fun q => q.queue.all fun c => c.since.isNone) && s.remote.isEmpty

theorem served_calm {s : State} {t : Task} (h : calm s t = true) (k : Nat) : servedFirst s t k = false := by
  simp only [calm, Bool.and_eq_true, List.all_eq_true, List.isEmpty_iff, Option.isNone_iff_eq_none] at h
  obtain ⟨⟨⟨h1, h2⟩, h3⟩, h4⟩ := h
  have a : pathServed s t k = false := by
    simp only [pathServed, List.any_eq_false]
    intro c hc hp
    simp only [List.any_eq_true] at hp
    obtain ⟨p, hm, hp⟩ := hp
    simp [h1 c hc p hm] at hp
  have b : engineServed s t k = false := by
    simp only [engineServed, Bool.or_eq_false_iff, List.any_eq_false]
    refine ⟨fun o ho => by simp [h2 o ho], fun q hq hp => ?_⟩
    simp only [List.any_eq_true] at hp
    obtain ⟨c, hc, hp⟩ := hp
    simp [h3 q hq c hc] at hp
  simp [servedFirst, a, b, remoteServed, h4]

/-! ## Words that the spec writes out: file 09, then files 10 to 13 -/

theorem test_decode_ldg_lead : decodeWord 0xD9285F10#32 = .ok (.ldg 74#7 2#5 31#5 0#2 16#6) := rfl

theorem test_decode_fma : decodeWord 0xC6104090#32 = .ok (.fma 4#7 8#7 9#7 0#4) := rfl

theorem test_decode_xpfx : decodeWord 0xFE001000#32 = .ok (.xpfx 0#3 0x1000#22) := rfl

theorem test_decode_amovi : decodeWord 0x15740000#32 = .ok (.amovi 93#7 0#11) := rfl

theorem test_decode_brc : decodeWord 0x04A20004#32 = .ok (.brc 5#4 2#5 4#16) := rfl

theorem test_decode_nop : decodeWord 0x00000000#32 = .ok (.nop) := rfl

theorem test_decode_time : decodeWord 0x01500008#32 = .ok (.time 84#7) := rfl

theorem test_decode_gets : decodeWord 0x1D700090#32 = .ok (.gets 92#7 9#7) := rfl

theorem test_decode_pfirst : decodeWord 0x1B280805#32 = .ok (.pfirstA 74#7 1#3) := rfl

theorem test_decode_aadd : decodeWord 0x0B224460#32 = .ok (.aadd 72#7 72#7 70#7) := rfl

theorem test_decode_iadd : decodeWord 0x202046D0#32 = .ok (.iadd 8#7 8#7 109#7 0#4) := rfl

theorem test_decode_icmp : decodeWord 0x2E2CF001#32 = .ok (.icmp 11#7 30#7 0#7 1#3) := rfl

theorem test_decode_lshc : decodeWord 0x36141011#32 = .ok (.lshc 5#7 2#7 1#7 1#4) := rfl

theorem test_decode_vred : decodeWord 0x3C101008#32 = .ok (.vred 4#7 2#7 8#4) := rfl

theorem test_decode_frcp : decodeWord 0x4E102010#32 = .ok (.frcp 4#7 4#7 0#4) := rfl

theorem test_decode_cvt : decodeWord 0x50181090#32 = .ok (.cvt 6#7 2#7 9#5 0#4) := rfl

theorem test_decode_xsum : decodeWord 0x5308DF00#32 = .ok (.xsum 66#7 6#5 31#5 0#2 0#6) := rfl

theorem test_decode_ldg : decodeWord 0x5808BF00#32 = .ok (.ldg 2#7 5#5 31#5 0#2 0#6) := rfl

theorem test_decode_stg : decodeWord 0x5C04BF00#32 = .ok (.stg 1#7 5#5 31#5 0#2 0#6) := rfl

theorem test_decode_ldp : decodeWord 0x61316280#32 = .ok (.ldp 76#7 11#5 2#5 2#2 0#6) := rfl

theorem test_decode_atomg : decodeWord 0x64143490#32 = .ok (.atomg 5#7 6#5 73#7 0#4) := rfl

theorem test_decode_cpy : decodeWord 0x671A5CE1#32 = .ok (.cpy 70#7 75#7 78#7 1#2) := rfl

theorem test_decode_cseal : decodeWord 0x66000008#32 = .ok (.cseal) := rfl

theorem test_decode_cwait : decodeWord 0x66000009#32 = .ok (.cwait 0#7) := rfl

theorem test_decode_fence : decodeWord 0x68000000#32 = .ok (.fence) := rfl

theorem test_decode_bararr : decodeWord 0x690E6002#32 = .ok (.bararr 67#7 76#7) := rfl

theorem test_decode_sendq : decodeWord 0x6A044010#32 = .ok (.sendq 1#7 8#7 1#7) := rfl

theorem test_decode_recvq : decodeWord 0x6B244001#32 = .ok (.recvq 73#7 8#7) := rfl

theorem test_decode_mma : decodeWord 0x70000800#32 = .ok (.mma 0#3 0#7 8#7 0#4 0#2) := rfl

theorem test_decode_mma_step : decodeWord 0x70A24691#32 = .ok (.mma 2#3 68#7 70#7 9#4 1#2) := rfl

theorem test_decode_mmas : decodeWord 0x72404680#32 = .ok (.mmas 1#3 0#7 70#7 8#4 0#2) := rfl

theorem test_decode_mzero : decodeWord 0x74000000#32 = .ok (.mzero 0#3 0#1) := rfl

theorem test_decode_mseal : decodeWord 0x76000000#32 = .ok (.mseal) := rfl

theorem test_decode_mwait : decodeWord 0x76000010#32 = .ok (.mwait 0#4) := rfl

theorem test_decode_epload : decodeWord 0x76640020#32 = .ok (.epload 1#3 72#7) := rfl

theorem test_decode_rset : decodeWord 0x790E04C0#32 = .ok (.rset 67#7 64#7 76#7 0#2) := rfl

theorem test_decode_trav : decodeWord 0x78288317#32 = .ok (.travBox 10#7 16#7 6#4 1#3) := rfl

theorem test_decode_vtest : decodeWord 0x7A040143#32 = .ok (.vtest 1#3 0#3 20#7 3#4) := rfl

theorem test_decode_fbw : decodeWord 0x7A701146#32 = .ok (.fbw 28#7 2#3 20#7 6#4) := rfl

theorem test_decode_vsplit : decodeWord 0x7C280800#32 = .ok (.vsplit 2#3 1#3 1#3) := rfl

theorem test_decode_vends : decodeWord 0x7C601001#32 = .ok (.vends 24#7 2#3) := rfl

/-- A set bit in a field that must be zero, a reserved function code, an unassigned major opcode (R211, R215, R217). -/
theorem test_decode_refuses :
    decodeWord 0x00000020#32 = .error .unusedFieldNotZero ∧ decodeWord 0x0000000F#32 = .error .minorReserved
      ∧ decodeWord 0x3E000000#32 = .error .majorUnassigned ∧ decodeWord 0x7E000000#32 = .error .leadWithoutChain := ⟨rfl, rfl, rfl, rfl⟩

/-! ## Ill-formed terms are refused, one for each check of operandsOk -/

theorem test_illformed_control : ∀ i ∈ ([
    .rjoin 64#7 1#7, .rjoin 0#7 9#7, .rjoin 1#7 0#7, .time 0#7, .laneid 64#7, .idx 0#7 0#7, .idx 65#7 3#7, .locq 0#7 64#7, .locq 64#7 0#7, .launch 0#7 64#7 64#7, .launch 64#7 0#7 64#7, .launch 64#7 64#7 0#7, .xset 4#7 0#7, .xset 0#7 64#7, .xset 3#7 8#7, .brc 8#4 0#5 0#16, .brx 127#7, .gets 0#7 0#7, .sets 0#7 0#7, .lread 0#7 0#7 64#7, .lread 64#7 64#7 64#7, .lread 64#7 0#7 0#7, .lwrite 64#7 64#7 64#7, .lwrite 0#7 0#7 64#7, .lwrite 0#7 64#7 0#7] : List Instr), ¬ i.WellFormed := by
  unfold Instr.WellFormed; decide

theorem test_illformed_affine : ∀ i ∈ ([
    .aadd 0#7 64#7 64#7, .aadd 64#7 0#7 64#7, .acmpLeu 64#7 64#7 96#7, .aaddi 0#7 64#7 0#11, .aandi 64#7 0#7 0#11, .amovi 0#7 0#11, .ald 0#7 0#5 0#6] : List Instr), ¬ i.WellFormed := by
  unfold Instr.WellFormed; decide

theorem test_illformed_predicate : ∀ i ∈ ([
    .pand 0#3 1#3 1#3, .pnot 0#3 1#3, .pfirstP 0#3 1#3, .pcnt 0#7 1#3, .pfirstA 0#7 1#3, .ballot 8#7 0#7] : List Instr), ¬ i.WellFormed := by
  unfold Instr.WellFormed; decide

theorem test_illformed_vector : ∀ i ∈ ([
    .iadd 100#7 0#7 0#7 0#4, .iadd 0#7 0#7 0#7 7#4, .imulh 0#7 0#7 0#7 6#3, .iabs 0#7 0#7 1#4, .icmp 48#7 0#7 0#7 0#3, .icmp 8#7 0#7 0#7 0#3, .icmp 1#7 0#7 0#7 6#3, .sel 127#7 0#7 0#7 1#3, .and 96#7 0#7 0#7, .popc 96#7 0#7, .blut 0#7 0#7 93#7, .blut 0#7 0#7 63#7, .bshuf 96#7 0#7 0#7, .lshc 0#7 0#7 0#7 0#4, .xperm 96#7 0#7 0#7, .vscan 0#7 0#7 14#4, .vscan 64#7 0#7 8#4, .vred 64#7 0#7 11#4] : List Instr), ¬ i.WellFormed := by
  unfold Instr.WellFormed; decide

theorem test_illformed_float : ∀ i ∈ ([
    .fadd 96#7 0#7 0#7 0#4, .fadd 0#7 0#7 0#7 7#4, .fmin 96#7 0#7 0#7, .fcmp 8#7 0#7 0#7, .fcmp 65#7 0#7 0#7, .fsqrt 0#7 0#7 7#4, .fclass 96#7 0#7, .cvt 0#7 0#7 17#5 0#4] : List Instr), ¬ i.WellFormed := by
  unfold Instr.WellFormed; decide

theorem test_illformed_memory : ∀ i ∈ ([
    .ldk 127#7 0#5 0#2 0#6, .ldk 0#7 0#5 1#2 0#6, .atomg 0#7 0#5 0#7 9#4, .atomr 96#7 0#5 0#7 0#4, .cpy 0#7 64#7 64#7 0#2, .cpyi 64#7 64#7 0#7 0#2, .cwait 16#7, .pempty 0#7 64#7, .barinit 64#7 96#7, .bararr 0#7 64#7, .barwait 64#7 0#7, .barinv 0#7, .semw 0#7 64#7 64#7, .sems 0#7 64#7, .tlbinv 64#7 1#7, .tlbinv 64#7 2#7, .sendq 8#7 0#7 1#7, .sendq 0#7 64#7 1#7, .sendq 0#7 0#7 9#7, .recvq 0#7 0#7, .padopen 0#2 0#2 0#7 64#7, .poolset 64#7 1#3 1#3 1#7 0#3, .poolset 64#7 6#3 1#3 1#7 0#3, .poolset 64#7 1#3 2#3 97#7 0#3, .poolset 64#7 1#3 2#3 1#7 3#3, .poolset 64#7 2#3 1#3 1#7 1#3, .poolq 0#7 0#3 0#3, .poolq 64#7 6#3 0#3] : List Instr), ¬ i.WellFormed := by
  unfold Instr.WellFormed; decide

theorem test_illformed_matrix : ∀ i ∈ ([
    .mma 0#3 127#7 0#7 0#4 0#2, .mma 0#3 0#7 0#7 10#4 0#2, .mmas 0#3 0#7 0#7 0#4 0#2, .mmas 0#3 0#7 0#7 6#4 0#2, .mload 0#3 0#7 0#1, .mload 0#3 95#7 0#1, .mdrain 0#3 93#7 0#4, .epload 4#3 64#7, .epload 0#3 0#7] : List Instr), ¬ i.WellFormed := by
  unfold Instr.WellFormed; decide

theorem test_illformed_geometry : ∀ i ∈ ([
    .rset 0#7 64#7 64#7 0#2, .rset 64#7 85#7 64#7 0#2, .rset 64#7 64#7 95#7 0#2, .rast 64#7 64#7 0#3 1#3, .rast 0#7 0#7 0#3 1#3, .rast 0#7 64#7 0#3 0#3, .travset 64#7 0#4, .travRay 64#7 0#7 0#4 1#3, .travBox 0#7 64#7 0#4 1#3, .travRay 0#7 0#7 0#4 0#3, .fbload 0#2 0#7 64#7, .fbstore 0#2 64#7 0#7, .fbdone 64#7 0#7, .vtest 0#3 0#3 64#7 0#4, .vtest 0#3 0#3 0#7 6#4, .fbw 64#7 0#3 0#7 6#4, .fbw 0#7 0#3 0#7 5#4, .vsplit 1#3 1#3 0#3, .vhalve 1#3 1#3 0#3, .vends 64#7 0#3, .vmask 0#3 0#3 127#7] : List Instr), ¬ i.WellFormed := by
  unfold Instr.WellFormed; decide

theorem test_illformed_lead : ∀ i ∈ ([
    .xpfx 1#3 0x10000#22, .xpfx 2#3 0x300000#22, .xpfx 2#3 1#22, .xpfx 3#3 0x4800#22, .xpfx 4#3 0#22] : List Instr), ¬ i.WellFormed := by
  unfold Instr.WellFormed; decide

/-! ## Every statement's hypotheses are met: encoding, the step, reset -/

theorem witness_DecodeOfEncode :
    (Instr.fma 4#7 8#7 9#7 0#4).WellFormed ∧ encode 1#1 (.fma 4#7 8#7 9#7 0#4) = some 0xC6104090#32
      ∧ (Instr.laneid 63#7).WellFormed ∧ encode 0#1 (.laneid 63#7) = some 0x00FC0009#32 := by
  unfold Instr.WellFormed; decide

/-- A stand between chains, at packet 0 of code at 0x8000, whose turn is next; its packet holds NOP, TIME a20, NOP. -/
def waiting : State :=
  let s := stand [] all
  { s with
    agenda := [.issue 7 0]
    me := { s.me with path := Path.start 0 0 all }
    mem := Memory.setBytes [] 0x8000 ([0, 0, 0, 0] ++ bytesLE 4 0x01500008 ++ [0, 0, 0, 0]) }

/-- The stand with slots of its chain under issue. -/
def slots (s : State) (l : List Nat) : State := { s with me := { s.me with path := { s.me.path with run := some (4, l) } } }

/-- The stand at packet 0 with slots of its chain under issue. -/
def chained (l : List Nat) : State := { waiting with me := { waiting.me with path := { waiting.me.path with run := some (0, l) } } }

/-- The same with its second word under issue. -/
def underIssue : State := { waiting with me := { waiting.me with path := { waiting.me.path with slot := 2, run := some (0, [1]) } } }

/-- The state whose turn it is after a turn is taken from the agenda. -/
def turned (s : State) : State := tick { s with agenda := [] }

/-- The path whose turn it is. -/
def turnOf (s : State) : Option State := selectPath (turned s) (readyPath (turned s)) 7 0

/-- A word under issue with one more after it in its chain, and a last one: step runs on after the first alone. -/
theorem witness_StepRunsFetchedWord :
    (underIssue.power = true ∧ underIssue.agenda = .issue 7 0 :: [] ∧ (turnOf underIssue).isSome = true)
    ∧ (∀ q ∈ [(chained [0, 1], 0, [1], Instr.nop, true), (chained [1], 1, [], .time 84#7, false)],
        q.1.me.path.run = some (0, q.2.1 :: q.2.2.1) ∧ (transfers q.2.2.2.1 = true → q.1.me.path.pend = none) ∧ q.1.me.path.first = none
        ∧ ∃ (u t : State) (w : Word32), chainWord q.1 0 q.2.1 = .ok (u, w) ∧ decodeWord w = .ok q.2.2.2.1
          ∧ heldBack u q.2.2.2.1 = none ∧ exec q.2.2.2.1 u = .next t ∧ goesOn u t = q.2.2.2.2)
    ∧ (waiting.me.path.words = none ∧ excOk (fetchPacket waiting 0) fun q => decide (q.2 = (0, 0x01500008, 0))) := by
  have h : ∀ q ∈ [(chained [0, 1], 0, [1], Instr.nop, true), (chained [1], 1, [], .time 84#7, false)],
      (excOk (chainWord q.1 0 q.2.1) fun r => excOk (decodeWord r.2) (fun i => i == q.2.2.2.1)
        && (heldBack r.1 q.2.2.2.1).isNone
        && (match exec q.2.2.2.1 r.1 with | .next t => goesOn r.1 t == q.2.2.2.2 | _ => false)) = true := by
    decide +kernel
  refine ⟨⟨rfl, rfl, by decide +kernel⟩, fun q hq => ?_, ⟨rfl, by decide +kernel⟩⟩
  have hx : q.1.me.path.run = some (0, q.2.1 :: q.2.2.1) ∧ (transfers q.2.2.2.1 = true → q.1.me.path.pend = none)
      ∧ q.1.me.path.first = none := by
    simp only [List.mem_cons, List.not_mem_nil, or_false] at hq
    rcases hq with rfl | rfl <;> exact ⟨rfl, fun _ => rfl, rfl⟩
  obtain ⟨⟨u, w⟩, hu, h⟩ := excOk_spec (h q hq)
  simp only [Bool.and_eq_true] at h
  obtain ⟨⟨h1, h2⟩, h3⟩ := h
  obtain ⟨i, hi, h1⟩ := excOk_spec h1
  rw [eq_of_beq h1] at hi
  refine ⟨hx.1, hx.2.1, hx.2.2, u, ?_⟩
  cases he : exec q.2.2.2.1 u with
  | next t => rw [he] at h3; exact ⟨t, w, hu, hi, Option.isNone_iff_eq_none.mp h2, rfl, eq_of_beq h3⟩
  | fault f => rw [he] at h3; cases h3
  | refused f => rw [he] at h3; cases h3

/-- A transfer that is issued again, its packet as it was fetched and the registers of its first issue with it. -/
def reissued : State :=
  let s := chained [1]
  { s with me := { s.me with path := { s.me.path with words := some (0, 0x02000007, 0), first := some s.me.regs, slot := 2 } } }

theorem witness_StepRunsFetchedWord_again :
    reissued.me.path.run = some (0, 1 :: []) ∧ reissued.me.path.first = some reissued.me.regs ∧ reissued.me.path.pend = none
    ∧ reissued.me.path.words = some (0, 0x02000007, 0) ∧ reissued.me.path.slot ≠ 0 ∧ waiting.me.path.slot = 0
    ∧ decodeWord 0x02000007#32 = .ok (.bra 7#16) ∧ transfers (.bra 7#16) = true
    ∧ (let u : State := { reissued with me := { reissued.me with path := { reissued.me.path with snap := some reissued.me.regs } } }
       (heldBack u (.bra 7#16)).isNone = true ∧ (match exec (.bra 7#16) u with | .next t => !goesOn u t | _ => false) = true) :=
  ⟨rfl, rfl, rfl, rfl, by decide, rfl, rfl, rfl, by decide +kernel⟩

/-- The same with the next chain in another slot. -/
def waitingAt (n : Nat) : State := { waiting with me := { waiting.me with path := { waiting.me.path with slot := n } } }

/-- The packet of the next chain is fetched with no change of the context. -/
theorem packetNow_me {s t : State} {w : Word32 × Word32 × Word32} (h : packetNow s = .ok (t, w)) : t.me = s.me := by
  unfold packetNow at h
  split at h
  · cases h; rfl
  · exact congrArg (fun x => x.me) (fetchPacket_keeps h).rest

/-- Both places that the last clauses tell apart: slot 1, and slot 2, the packet's last. -/
theorem witness_StepRunsFetchedWord_start :
    ∀ q ∈ [(1, Instr.time 84#7), (2, .nop)], ∃ (u v : State) (w : Word32 × Word32 × Word32),
      (waitingAt q.1).power = true ∧ (waitingAt q.1).agenda = .issue 7 0 :: [] ∧ turnOf (waitingAt q.1) = some u
      ∧ u.me.path.run = none ∧ u.me.path.slot = q.1 ∧ u.me.path.pend = none
      ∧ packetNow u = .ok (v, w) ∧ v.me = u.me
      ∧ decodeWord (packetWord w u.me.path.slot) = .ok q.2 ∧ (∀ k p, q.2 ≠ .xpfx k p) ∧ chainBit (packetWord w u.me.path.slot) = false
      ∧ placementFault w u.me.path.slot [⟨u.me.path.slot, [], Lead.none, none, some q.2⟩] = none
      ∧ heldBack (beginChain v u.me.path.pc w [⟨u.me.path.slot, [], Lead.none, none, some q.2⟩]) q.2 = none := by
  have h : ∀ q ∈ [(1, Instr.time 84#7), (2, .nop)],
      ((turnOf (waitingAt q.1)).any fun u =>
        decide (u.me.path.run = none ∧ u.me.path.slot = q.1 ∧ u.me.path.pend = none)
          && excOk (packetNow u) fun r =>
            excOk (decodeWord (packetWord r.2 u.me.path.slot)) (fun j => j == q.2) && !chainBit (packetWord r.2 u.me.path.slot)
            && decide (placementFault r.2 u.me.path.slot [⟨u.me.path.slot, [], Lead.none, none, some q.2⟩] = none)
            && (heldBack (beginChain r.1 u.me.path.pc r.2 [⟨u.me.path.slot, [], Lead.none, none, some q.2⟩]) q.2).isNone) = true := by
    decide +kernel
  intro q hq
  have hx : (∀ k p, q.2 ≠ .xpfx k p) ∧ (waitingAt q.1).power = true ∧ (waitingAt q.1).agenda = .issue 7 0 :: [] := by
    simp only [List.mem_cons, List.not_mem_nil, or_false] at hq
    rcases hq with rfl | rfl <;> exact ⟨(by intro _ _ h; cases h), rfl, rfl⟩
  obtain ⟨u, hu, h⟩ := opt_spec (h q hq)
  simp only [Bool.and_eq_true, decide_eq_true_eq] at h
  obtain ⟨⟨h1, h2, h3⟩, h⟩ := h
  obtain ⟨⟨v, w⟩, hv, h⟩ := excOk_spec h
  simp only [Bool.and_eq_true, decide_eq_true_eq, Bool.not_eq_true'] at h
  obtain ⟨⟨⟨h5, h6⟩, h7⟩, h8⟩ := h
  obtain ⟨j, hj, h5⟩ := excOk_spec h5
  rw [eq_of_beq h5] at hj
  exact ⟨u, v, w, hx.2.1, hx.2.2, hu, h1, h2, h3, hv, packetNow_me hv, hj, hx.1, h6, h7, Option.isNone_iff_eq_none.mp h8⟩

theorem witness_StepOutcome :
    State.reset.power = true ∧ ({ State.reset with power := false }).power = false
      ∧ ({ State.reset with power := false, agenda := [.event .moduleReset] }).agenda = .event .moduleReset :: [] := ⟨rfl, rfl, rfl⟩

theorem witness_StepKeepsMemoryForm : Formed waiting ∧ (∃ t, step waiting = .next t) := by
  refine ⟨by unfold Formed; decide +kernel, ?_⟩
  have h : (match step waiting with | .next _ => true | _ => false) = true := by decide +kernel
  split at h <;> simp_all

/-- Eight pending copy batches of the context, and a copy of it that no batch holds. -/
def batchesFull (s : State) : State :=
  { s with
    me := { s.me with copyBat := ⟨8, Vector.ofFn fun n => if n.val < 8 then [n.val] else [], 0⟩ }
    task := { s.task with ops := ((List.range 8).map fun n => ⟨n, 7, false, some n, false, none, 0⟩) ++ [⟨8, 7, false, none, false, none, 0⟩] } }

/-! ## The checks before a chain issues -/

theorem batchesFull_stalls : materialise (batchesFull (tract [])) = .stall .batch := by
  have h : (match materialise (batchesFull (tract [])) with | .stall .batch => true | _ => false) = true := by decide +kernel
  revert h
  cases materialise (batchesFull (tract [])) <;> simp
  rename_i w
  cases w <;> simp

/-- A stand whose setup slot 0 is valid, and whose pixel serials differ from it in lane 5 alone. -/
def serialled : State :=
  let s := stand [] 0x21
  { s with
    me := { s.me with regs := { s.me.regs with
      slots := vset s.me.regs.slots 0 { Setup.empty with valid := true, serial := 0 }
      w := vset s.me.regs.w 1 (vset (Vector.replicate 64 0) 5 (1#64 <<< 32))
      v := Vector.ofFn fun n : Fin 64 => if n.val < 48 then vget someV n.val VReg.fresh else ⟨Vector.replicate 64 7#32, .view⟩ } }
    task := { s.task with views := true } }

/-- One word for each clause; a tract's word that makes stands, parks, and waits; the second clause's seven words; a lane that fails
alone; a handler for the privileged words. -/
theorem witness_IssueChecks :
    (encode 0#1 (.time 0#7) = some 0x00000008#32 ∧ encodingOk (.time 0#7) Lead.none 2 false 0 = false)
    ∧ ((encode 0#1 (.iadd 0#7 1#7 2#7 0#4)).isSome = true
        ∧ (∀ s ∈ [withFile (tract []), tract [], batchesFull (tract [])], encodingOk (.iadd 0#7 1#7 2#7 0#4) s.me.path.lead s.task.fsize s.task.views (readRegs s).xc = true
          ∧ materialises s (.iadd 0#7 1#7 2#7 0#4) = true)
        ∧ (∃ t, materialise (withFile (tract [])) = .ok t ∧ (t.me.kind == .stand) = true)
        ∧ (∃ t, materialise (tract []) = .ok t ∧ (t.me.kind == .parked) = true)
        ∧ materialise (batchesFull (tract [])) = .stall .batch)
    ∧ (∀ i ∈ ([.tlbinv 64#7 0#7, .lread 64#7 0#7 64#7, .lwrite 0#7 64#7 64#7, .hret, .sets 64#7 9#7, .sets 64#7 10#7, .sets 64#7 11#7] : List Instr),
        encodingOk i (stand [] all).me.path.lead (stand [] all).task.fsize (stand [] all).task.views (readRegs (stand [] all)).xc = true
          ∧ materialises (stand [] all) i = false ∧ (stand [] all).me.frame = none)
    ∧ ((encode 0#1 (.fadd 0#7 1#7 2#7 0#4)).isSome = true
        ∧ encodingOk (.fadd 0#7 1#7 2#7 0#4) Lead.none 2 false 0 = true ∧ privileged (.fadd 0#7 1#7 2#7 0#4) = false
        ∧ materialises (stand [] all) (.fadd 0#7 1#7 2#7 0#4) = false
        ∧ tagsOk (.fadd 0#7 1#7 2#7 0#4) Lead.none (stand [] all).me (readRegs (stand [] all)) = false
        ∧ tagLane (.fadd 0#7 1#7 2#7 0#4) Lead.none (stand [] all).me (readRegs (stand [] all)) = none)
    ∧ ((encode 0#1 (.vtest 1#3 1#3 2#7 0#4)).isSome = true
        ∧ encodingOk (.vtest 1#3 1#3 2#7 0#4) (lead3 78 31 0 0) 2 true 0 = true ∧ materialises serialled (.vtest 1#3 1#3 2#7 0#4) = false
        ∧ tagsOk (.vtest 1#3 1#3 2#7 0#4) (lead3 78 31 0 0) serialled.me (readRegs serialled) = false
        ∧ tagLane (.vtest 1#3 1#3 2#7 0#4) (lead3 78 31 0 0) serialled.me (readRegs serialled) = some 5)
    ∧ (tagsOk .hret Lead.none (handled (stand [] all)).me (readRegs (handled (stand [] all))) = true
        ∧ (handled (stand [] all)).me.frame.isSome = true)
    ∧ (encodingOk (.sems 64#7 64#7) Lead.none 2 false 0 = true
        ∧ tagsOk (.sems 64#7 64#7) Lead.none (stand [(0, ⟨0, 1, 0, 0, .int32⟩)] all).me (readRegs (stand [(0, ⟨0, 1, 0, 0, .int32⟩)] all)) = true
        ∧ uniformOk (.sems 64#7 64#7) Lead.none (readRegs (stand [(0, ⟨0, 1, 0, 0, .int32⟩)] all)) = false) := by
  refine ⟨by decide +kernel, ⟨by decide +kernel, by decide +kernel, resOk_spec (by decide +kernel), resOk_spec (by decide +kernel), batchesFull_stalls⟩,
    by decide +kernel, by decide +kernel, by decide +kernel, by decide +kernel, by decide +kernel⟩

/-! ## Traps and handlers -/

/-- In a stand and in a tract. -/
theorem witness_TrapEntersHandler :
    (⟨0x0A, 16, 0, 0, 5⟩ : Trap).code ≠ 0x18 ∧ (⟨0x0A, 16, 0, 0, 5⟩ : Trap).code ≠ 0x20 ∧ (⟨0x0A, 16, 0, 0, 5⟩ : Trap).code ≠ 0x21 ∧ (stand [] all).me.frame = none ∧ (tract []).me.frame = none
      ∧ effective (stand [] all) (stand [] all).task.region 5 = some region1 ∧ effective (tract []) (tract []).task.region 5 = some region1
      ∧ region1.hcode ≠ 0 := by decide +kernel

/-- No region, a region without a handler, a handler that traps, and 0x18 of an exposed task and of one that is not. -/
theorem witness_UnhandledTrapsEnd :
    (⟨0x01, 0, 0, 0, 0⟩ : Trap).code ≠ 0x18 ∧ (⟨0x01, 0, 0, 0, 0⟩ : Trap).code ≠ 0x20 ∧ (⟨0x01, 0, 0, 0, 0⟩ : Trap).code ≠ 0x21
      ∧ (⟨0x20, 0, 0, 0, 0⟩ : Trap).code = 0x20 ∧ (⟨0x21, 0, 0, 0, 0⟩ : Trap).code = 0x21 ∧ (handled (stand [] all)).me.frame.isSome = true
      ∧ effective { stand [] all with dev := Device.reset } 1 5 = none
      ∧ effective { stand [] all with dev := { Device.reset with regions := [{ region1 with hcode := 0 }] } } 1 5 = some { region1 with hcode := 0 }
      ∧ (⟨0x18, 0, 0, 0, 0⟩ : Trap).code = 0x18 ∧ (stand [] all).task.exposed = false ∧ (expose (stand [] all)).task.exposed = true := by
  decide +kernel

/-- An error of a TILE bank, which is put down for its test, and one of memory. -/
theorem witness_UnhandledTrapsEnd_units :
    faultUnit { stand [] all with task := { task1 with badTiles := [3] } } ⟨0x21, BitVec.ofNat 8 (roleCode .tile), 0, 0, 5⟩ = some (0, 3)
    ∧ faultUnit (stand [] all) ⟨0x21, BitVec.ofNat 8 (roleCode .off), 0, 0, 5⟩ = none := by
  decide +kernel

theorem witness_TrapWord :
    Issues (.trap 9#7) (stand [] all) ∧ (stand [] all).me.path.run = some (4, [0]) ∧ (stand [] all).me.path.pendSlots = []
      ∧ (stand [] all).me.frame = none ∧ effective (stand [] all) (stand [] all).task.region 5 = some region1 ∧ region1.hcode ≠ 0 := by
  unfold Issues; decide +kernel

/-- HRET in a handler, with no deferral, with one and no other handler, and with one and another handler of the task; EXIT in a handler,
in a tract and in a stand. -/
theorem witness_HandlerReturns :
    Issues .hret (handled (stand [] all)) ∧ (handled (stand [] all)).me.frame.isSome = true
      ∧ (handled (stand [] all)).task.preqAt = none
      ∧ (let s := handled (stand [] all)
         let u : State := { s with task := { s.task with preqAt := some 5 } }
         let v : State := { u with ctxs := [{ u.me with id := 8 }] }
         Issues .hret u ∧ u.task.preqAt ≠ none ∧ (∀ c ∈ ctxsOf u u.task.tid, c.id ≠ u.me.id → c.frame = none)
         ∧ Issues .hret v ∧ (∃ c ∈ ctxsOf v v.task.tid, c.id ≠ v.me.id ∧ c.frame.isSome = true))
      ∧ Issues .exit (handled (tract [])) ∧ (handled (tract [])).me.frame.isSome = true
      ∧ Issues .exit (tract []) ∧ (tract []).me.frame = none ∧ isStand (tract []) = false
      ∧ Issues .exit (stand [] all) ∧ isStand (stand [] all) = true := by
  unfold Issues; decide +kernel

/-- The last lane, the first past it, and a tract. -/
theorem witness_LaneAccess :
    Issues (.lread 64#7 3#7 65#7) (handled (stand [(1, num 63)] all)) ∧ isStand (handled (stand [(1, num 63)] all)) = true
      ∧ (aCode (readRegs (handled (stand [(1, num 63)] all))) 65#7).base.toNat = 63
      ∧ Issues (.lwrite 3#7 65#7 64#7) (handled (stand [(1, num 63)] all))
      ∧ Issues (.lread 64#7 3#7 65#7) (handled (stand [(1, num 64)] all)) ∧ Issues (.lwrite 3#7 65#7 64#7) (handled (stand [(1, num 64)] all))
      ∧ (aCode (readRegs (handled (stand [(1, num 64)] all))) 65#7).base.toNat = 64
      ∧ Issues (.lread 64#7 3#7 65#7) (handled (tract [(1, num 63)])) ∧ Issues (.lwrite 3#7 65#7 64#7) (handled (tract [(1, num 63)]))
      ∧ isStand (handled (tract [(1, num 63)])) = false := by
  unfold Issues; decide +kernel

/-! ## Control words -/

/-- A record whose join is a packet, of the path under issue. -/
def recordAt (join : BitVec 32) (others : List Nat) : Record := ⟨3, some join, false, 0 :: others, [], none, 0, none⟩

/-- The stand with a record that encloses its path. -/
def inRecord (s : State) (r : Record) : State := { s with me := { s.me with recs := [r] } }

theorem witness_PlainWords :
    (Issues .nop (stand [] all) ∧ Issues .nop (tract []) ∧ Issues .matl (stand [] all) ∧ Issues .yield (stand [] all) ∧ Issues .yield (tract []))
    ∧ (issueTrap .matl (tract []) = none ∧ isStand (tract []) = false ∧ needsStand .matl Lead.none (readRegs (tract [])) = true
        ∧ (∃ t, materialise (withFile (tract [])) = .ok t ∧ (t.me.kind == .stand) = true)
        ∧ (∃ t, materialise (tract []) = .ok t ∧ (t.me.kind == .parked) = true)
        ∧ materialise (batchesFull (tract [])) = .stall .batch)
    ∧ (Issues .join (stand [] all) ∧ innerJoin (stand [] all).me = none)
    ∧ (Issues .join (inRecord (stand [] all) (recordAt 5 [])) ∧ innerJoin (inRecord (stand [] all) (recordAt 5 [])).me = some (recordAt 5 [])
        ∧ (recordAt 5 []).join ≠ some (packetOf (stand [] all).me.path))
    ∧ (slots (stand [] all) [0, 1]).me.path.run = some (4, 0 :: 1 :: []) := by
  refine ⟨?_, ⟨?_, ?_, ?_, resOk_spec (by decide +kernel), resOk_spec (by decide +kernel),
    batchesFull_stalls⟩, ?_, ?_, rfl⟩
  · unfold Issues; decide +kernel
  · decide +kernel
  · decide +kernel
  · decide +kernel
  · unfold Issues; decide +kernel
  · unfold Issues; decide +kernel

/-- A tract of two windows and of one, whose task has both a REG file of each bank and none. -/
def wide (n : Nat) (files : Bool) (sealed : Bool) : State :=
  let s := tract [(1, ⟨5, 1, 2, 3, .int32⟩)]
  { s with
    me := { s.me with box := ⟨0, n, 0, 1, 0, 1⟩, sealedOnce := sealed, regs := { s.me.regs with vforms := [⟨7, 1, 2, .int32⟩] } }
    core := if files then setBanks s.core [32, 33] .reg (some 1) else s.core }

/-- Files and slots for every window, sealed before or now; more windows than files; no file. -/
theorem witness_PlainWords_stands :
    (∀ s ∈ [wide 128 true true, wide 128 true false, wide 320 true true, wide 128 false true], issueTrap .matl s = none ∧ isStand s = false)
    ∧ (wide 128 true true).me.sealedOnce = true ∧ (wide 128 true false).me.sealedOnce = false
    ∧ (∃ q, sealTract (wide 128 true false) = .ok q
      ∧ (decide (2 ≤ (freeFiles q q.task).length) && decide (2 ≤ (freeSlots q q.task.core).length)) = true)
    ∧ piecesFrom (wide 128 true true).me.box (wide 128 true true).me.seams 49 (firstCursor (wide 128 true true).me.box) = [(0, 0, 0), (0, 0, 64)]
    ∧ 2 ≤ (freeFiles (wide 128 true true) (wide 128 true true).task).length
    ∧ 2 ≤ (freeSlots (wide 128 true true) (wide 128 true true).task.core).length
    ∧ (piecesFrom (wide 320 true true).me.box (wide 320 true true).me.seams 49 (firstCursor (wide 320 true true).me.box)).length = 5
    ∧ (freeFiles (wide 320 true true) (wide 320 true true).task).length < 5
    ∧ freeFiles (wide 128 false true) (wide 128 false true).task = [] := by
  refine ⟨by decide +kernel, rfl, rfl, resOk_spec (by decide +kernel), ?_, ?_, ?_, ?_, ?_, ?_⟩ <;> decide +kernel

/-- Every dimension in a stand and in a tract; LOCQ at the last byte of the parameter window, past it, above it, and where no
translation is. -/
theorem witness_PlaceWords :
    (∀ b ∈ [0#7, 1#7, 2#7], Issues (.idx 64#7 b) (stand [] all) ∧ Issues (.idx 64#7 b) (tract []))
    ∧ isStand (tract []) = false ∧ isStand (stand [] all) = true
    ∧ (Issues (.time 64#7) (stand [] all) ∧ Issues (.time 95#7) (tract []) ∧ Issues (.laneid 0#7) (stand [] all))
    ∧ (issueTrap (.laneid 0#7) (tract []) = none ∧ ∃ t, materialise (withFile (tract [])) = .ok t ∧ (t.me.kind == .stand) = true)
    ∧ (∀ x ∈ [63, 64, 4095, 4096], Issues (.locq 64#7 65#7) (stand [(1, num x)] all) ∧ x = (aCode (readRegs (stand [(1, num x)] all)) 65#7).base.toNat)
    ∧ (∀ x ∈ [63, 4096], ∃ r, translate (stand [(1, num x)] all) 0 (if x < 4096 then 0x3000 + x else x) .look = .ok r ∧ true = true)
    ∧ translate (stand [(1, num (2 ^ 48))] all) 0 (2 ^ 48) .look = .error ⟨0x09, 1, 0⟩ := by
  refine ⟨?_, ?_, ?_, ?_, ⟨?_, resOk_spec (by decide +kernel)⟩, ?_, ?_, rfl⟩
  · unfold Issues; decide +kernel
  · decide
  · decide
  · unfold Issues; decide +kernel
  · decide +kernel
  · unfold Issues; decide +kernel
  · have h : ∀ x ∈ [63, 4096], excOk (translate (stand [(1, num x)] all) 0 (if x < 4096 then 0x3000 + x else x) .look) (fun _ => true) = true := by
      decide +kernel
    exact fun x hx => excOk_spec (h x hx)

/-- A stand at the first word of a chain of two. -/
def headed : State :=
  let s := stand [(0, num 1)] all
  { s with me := { s.me with path := { s.me.path with snap := some s.me.regs, run := some (4, [0, 1]) } } }

/-- Every register the clauses name; the least and the greatest value of each rule, and the values next to them that break it. -/
theorem witness_SpecialRegisters :
    (∀ b ∈ [0#7, 1#7, 2#7, 3#7, 5#7, 6#7, 9#7, 10#7, 11#7, 12#7, 15#7], Issues (.gets 64#7 b) (stand [] all) ∧ Issues (.gets 64#7 b) (tract []))
    ∧ (∀ q ∈ [(0#7, 1), (0#7, 6), (0#7, 2 ^ 32 - 2), (1#7, 0), (1#7, 2 ^ 21 - 1), (12#7, 1), (12#7, 2 ^ 16 - 1), (9#7, 5), (10#7, 5), (11#7, 5)],
        Issues (.sets 64#7 q.1) (handled (stand [(0, num q.2)] all)) ∧ setsOk q.1.toNat (aCode (readRegs (stand [(0, num q.2)] all)) 64#7).base = true)
    ∧ (∀ q ∈ [(0#7, 0), (0#7, 7), (0#7, 2 ^ 32 + 1), (1#7, 2 ^ 21), (12#7, 0), (12#7, 2 ^ 16)],
        Issues (.sets 64#7 q.1) (stand [(0, num q.2)] all) ∧ setsOk q.1.toNat (aCode (readRegs (stand [(0, num q.2)] all)) 64#7).base = false)
    ∧ (∀ d ∈ [0#7, 1#7, 2#7, 3#7], Issues (.xset d 7#7) (stand [] all)) ∧ (stand [] all).me.regs.xc.toNat < 2 ^ 21 := by
  unfold Issues; decide +kernel

theorem witness_SpecialRegisters_seed :
    Issues (.sets 64#7 0#7) headed ∧ headed.me.path.snap.isSome = true ∧ stepPast headed.me.path ≠ headed.me.path.settled
    ∧ (stand [] all).me.path.snap.isNone = true := by
  unfold Issues; decide +kernel

/-- The stand with a return stack. -/
def withRet (s : State) (n : Nat) : State := { s with me := { s.me with path := { s.me.path with ret := List.replicate n 9 } } }

/-- CALL with 15 and 16 return addresses, RET with one and none, LOOP to 0 and past it, BRX of both files, every condition of BRC. -/
theorem witness_Transfers :
    (Issues (.bra 0xFFFF#16) (tract []) ∧ Issues (.call 3#16) (withRet (stand [] all) 15) ∧ (withRet (stand [] all) 15).me.path.ret.length < 16
      ∧ Issues (.call 3#16) (withRet (stand [] all) 16) ∧ 16 ≤ (withRet (stand [] all) 16).me.path.ret.length
      ∧ Issues .ret (withRet (stand [] all) 1) ∧ (withRet (stand [] all) 1).me.path.ret = 9 :: [] ∧ Issues .ret (stand [] all)
      ∧ (stand [] all).me.path.ret = [])
    ∧ (Issues (.brx 67#7) (stand [(3, num 5)] all) ∧ isStand (stand [] all) = true)
    ∧ (∀ x ∈ [1, 2, 0], Issues (.loop 3#5 0xFFFD#16) (tract [(3, num x)]))
    ∧ (Issues (.brx 67#7) (tract [(3, num 5)]) ∧ (aCode (readRegs (tract [(3, num 5)])) 67#7).isUniform = true
      ∧ (aCode (readRegs (tract [(3, num 5)])) 67#7).base = (5#32).setWidth 64)
    ∧ (Issues (.brx 3#7) (stand [] 1) ∧ isA 3#7 = false ∧ (stand [] 1).me.path.mask ≠ 0
      ∧ ∀ l, (stand [] 1).me.path.mask.getLsbD l = true → laneA (stand [] 1) 3#7 32 l = 3#32)
    ∧ (∀ c ∈ [0#4, 1#4, 2#4, 3#4, 4#4, 5#4, 6#4, 7#4], Issues (.brc c 3#5 4#16) (tract [(3, num 5)])
      ∧ (aReg (readRegs (tract [(3, num 5)])) 3).isUniform = true) := by
  refine ⟨?_, ?_, ?_, ?_, ⟨?_, ?_, ?_, ?_⟩, ?_⟩
  · unfold Issues; decide +kernel
  · unfold Issues; decide +kernel
  · unfold Issues; decide +kernel
  · unfold Issues; decide +kernel
  · unfold Issues; decide +kernel
  · decide
  · decide
  · intro l h
    have : l = 0 := by
      change (1#64).getLsbD l = true at h
      simpa using h
    subst this
    decide +kernel
  · unfold Issues; decide +kernel

/-- A BRX target of 2^32: in a tract, and in lane 5 of a stand. -/
theorem witness_Transfers_far :
    (Issues (.brx 67#7) (tract [(3, num (2 ^ 32))]) ∧ (aCode (readRegs (tract [(3, num (2 ^ 32))])) 67#7).isUniform = true
      ∧ 2 ^ 32 ≤ (aCode (readRegs (tract [(3, num (2 ^ 32))])) 67#7).base.toNat)
    ∧ (let s := stand [(3, ⟨0xFFFFFFFB, 1, 0, 0, .int32⟩)] all
       Issues (.brx 67#7) s ∧ s.me.path.mask.getLsbD 5 = true
        ∧ 2 ^ 32 ≤ (formLane s.me (aCode (readRegs s) 67#7) 5).toNat) := by
  unfold Issues; decide +kernel

/-- The stand with JOIN at packet 6, and a join displacement of 2 packets before its word. -/
def named (s : State) : State :=
  led { s with mem := Memory.setBytes [] (0x8000 + 12 * 6) [4, 0, 0, 0] } { Lead.none with join := some 2, count := 1 }

/-- a3 is 0 in no lane, in all, in lane 5 alone; p1 holds lane 0. -/
theorem witness_StandBranches :
    (∀ x ∈ [0, 1], Issues (.brc 0#4 3#5 9#16) (stand [(3, num x)] all))
    ∧ all &&& maskWhere (fun l => brcHolds 0 (formLane (stand [] all).me (num 1) l)) = 0
    ∧ all &&& maskWhere (fun l => brcHolds 0 (formLane (stand [] all).me (num 0) l)) = all
    ∧ (Issues (.brc 0#4 3#5 9#16) (stand [(3, ⟨BitVec.ofInt 64 (-5), 1, 0, 0, .int32⟩)] all)
      ∧ all &&& maskWhere (fun l => brcHolds 0 (formLane (stand [] all).me ⟨BitVec.ofInt 64 (-5), 1, 0, 0, .int32⟩ l)) = 32#64
      ∧ (stand [] all).me.path.lead.join = none ∧ serialises (stand [] all).me = false)
    ∧ (∀ i ∈ [Instr.brc 0#4 3#5 9#16, .brv 0#1 1#3 9#16, .brv 1#1 1#3 9#16],
      Issues i (named { stand [(3, ⟨BitVec.ofInt 64 (-5), 1, 0, 0, .int32⟩)] all with
        me := { (stand [(3, ⟨BitVec.ofInt 64 (-5), 1, 0, 0, .int32⟩)] all).me with
          regs := { regsWith [(3, ⟨BitVec.ofInt 64 (-5), 1, 0, 0, .int32⟩)] with p := vset (Vector.replicate 8 0) 1 1 } } }))
    ∧ serialises (named (stand [] all)).me = false ∧ (named (stand [] all)).me.recs.length < 32
    ∧ (named (stand [] all)).me.path.lead.join = some 2
    ∧ packetJoins (named (stand [] all)) (packetOf (named (stand [] all)).me.path + (2#16).signExtend 32) = true
    ∧ (let s := stand [(3, ⟨BitVec.ofInt 64 (-5), 1, 0, 0, .int32⟩)] all
       let full (k : Nat) (paths : List Path) : State := { named s with me := { (named s).me with recs := List.replicate k (recordAt 5 []), paths := paths } }
       let i := Instr.brc 0#4 3#5 9#16
       let seven := (List.range 7).map fun k => Path.start (k + 1) 4 0
       Issues i (led s { Lead.none with join := some 2, count := 1 })
        ∧ packetJoins (led s { Lead.none with join := some 2, count := 1 }) (packetOf s.me.path + (2#16).signExtend 32) = false
        ∧ Issues i (full 32 []) ∧ 32 ≤ (full 32 []).me.recs.length
        ∧ Issues i (full 0 seven) ∧ serialises (full 0 seven).me = true ∧ (full 0 seven).me.recs.length < 32) := by
  unfold Issues; decide +kernel

/-- A stand whose three active lanes have a BRX target each, with other paths and records. -/
def fanned (paths : Nat) (recs : List Record) : State :=
  let s := stand [(3, ⟨0, 1, 0, 0, .int32⟩)] 7
  { s with me := { s.me with recs := recs, paths := (List.range paths).map fun k => Path.start (k + 1) 4 0 } }

/-- The same within the serial record for which its path issues the BRX again. -/
def serialised : State :=
  let s := fanned 0 [{ recordAt 5 [] with serial := true }]
  { s with me := { s.me with path := { s.me.path with serial := some 3 } } }

/-- Three targets, with room for their paths, no join, one at a JOIN, and one at a packet without one; a full stack; 8 paths; within a
serial record, and within the one for which the path issues the BRX again. -/
theorem witness_StandBranches_targets :
    (∀ s ∈ [fanned 0 [], named (fanned 5 []), led (fanned 0 []) { Lead.none with join := some 2, count := 1 },
        named (fanned 0 (List.replicate 32 (recordAt 5 []))), fanned 7 [], fanned 7 (List.replicate 32 (recordAt 5 [])),
        fanned 0 [{ recordAt 5 [] with serial := true }], serialised],
      Issues (.brx 67#7) s ∧ isStand s = true ∧ s.me.path.mask = 7 ∧ ∀ l ∈ List.range 3, formLane s.me (aCode (readRegs s) 67#7) l = BitVec.ofNat 64 l)
    ∧ (∀ l < 64, (1#64).getLsbD l = ((7#64).getLsbD l && decide (BitVec.ofNat 32 l = BitVec.ofNat 32 0)))
    ∧ (serialises (fanned 0 []).me = false ∧ serialises (named (fanned 5 [])).me = false ∧ (named (fanned 5 [])).me.recs.length < 32
      ∧ packetJoins (named (fanned 5 [])) (packetOf (named (fanned 5 [])).me.path + (2#16).signExtend 32) = true
      ∧ ([0#32, 1#32, 2#32] : List (BitVec 32)).length + (fanned 5 []).me.paths.length ≤ 8)
    ∧ (let s := led (fanned 0 []) { Lead.none with join := some 2, count := 1 }
       s.me.path.serial = none ∧ packetJoins s (packetOf s.me.path + (2#16).signExtend 32) = false)
    ∧ brxRecord (named (fanned 0 (List.replicate 32 (recordAt 5 [])))).me = none
    ∧ (serialises (fanned 7 (List.replicate 32 (recordAt 5 []))).me = true ∧ brxRecord (fanned 7 (List.replicate 32 (recordAt 5 []))).me = none)
    ∧ (∀ s ∈ [fanned 7 [], fanned 0 [{ recordAt 5 [] with serial := true }]], serialises s.me = true ∧ brxRecord s.me = none ∧ s.me.recs.length < 32)
    ∧ serialises serialised.me = true ∧ brxRecord serialised.me = some { recordAt 5 [] with serial := true } := by
  unfold Issues; decide +kernel

/-- One run, and two that meet at index 10. -/
theorem witness_TractSplitsByCondition :
    splitRuns ⟨0, 64, 0, 1, 0, 1⟩ 2 ⟨BitVec.ofInt 64 (-10), 1, 0, 0, .int32⟩ = some (0, [(0, 10, true), (10, 64, false)])
    ∧ splitRuns ⟨0, 64, 0, 1, 0, 1⟩ 2 ⟨0, 1, 0, 0, .int32⟩ = some (0, [(0, 64, false)])
    ∧ (extentIn ⟨0, 64, 0, 1, 0, 1⟩ 0).1 < (extentIn ⟨0, 64, 0, 1, 0, 1⟩ 0).2 ∧ (extentIn ⟨0, 64, 0, 1, 0, 1⟩ 0).2 ≤ 2 ^ 32 := by
  decide +kernel

/-- A BRC below zero of a tract: two runs, with room and with eight batches pending, and one. -/
theorem witness_TractSplitsByCondition_branch :
    (∀ s ∈ [tract [(3, ⟨BitVec.ofInt 64 (-10), 1, 0, 0, .int32⟩)], batchesFull (tract [(3, ⟨BitVec.ofInt 64 (-10), 1, 0, 0, .int32⟩)])],
      Issues (.brc 2#4 3#5 9#16) s ∧ isStand s = false ∧ (aReg (readRegs s) 3).isUniform = false ∧ s.me.path.run = some (4, [0])
      ∧ splitRuns s.me.box 2 (aReg (readRegs s) 3) = some (0, [(0, 10, true), (10, 64, false)]))
    ∧ pendingCount (tract []).task (tract []).me.copyBat < 8
    ∧ (let s := batchesFull (tract [])
       8 ≤ pendingCount s.task s.me.copyBat ∧ s.task.ops.any (fun o => o.ctx == s.me.id && !o.matrix && o.batch.isNone && !o.done) = true)
    ∧ (let s := tract [(3, ⟨5, 1, 0, 0, .int32⟩)]
       Issues (.brc 2#4 3#5 9#16) s ∧ (aReg (readRegs s) 3).isUniform = false
        ∧ splitRuns s.me.box 2 (aReg (readRegs s) 3) = some (0, [(0, 64, false)])) := by
  and_intros <;> first | decide +kernel | (unfold Issues; decide +kernel)

/-- The other path of a record at packet 4, waiting at its join. -/
def waitingPath : Path := { Path.start 1 4 0xF0 with wait := .join 3 }

theorem witness_PathsRejoin :
    (let s : State := { stand [] 0xF with me := { (stand [] 0xF).me with recs := [{ recordAt 4 [1] with ret := some [] }], paths := [waitingPath] } }
     Issues .join s ∧ isStand s = true ∧ (recordAt 4 [1]).join = some (packetOf s.me.path)
      ∧ (recordAt 4 [1]).members = [s.me.path.id, waitingPath.id] ∧ s.me.path.ret = [] ∧ waitingPath.wait = .join 3
      ∧ s.me.path.id ≠ waitingPath.id ∧ s.me.path.mask ||| waitingPath.mask ≠ 0)
    ∧ (Issues (.rjoin 0#7 2#7) (handled (stand [] all)) ∧ (handled (stand [] all)).me.frame.isSome = true)
    ∧ (Issues (.rjoin 0#7 2#7) (stand [] 5) ∧ (stand [] 5).me.frame = none ∧ isStand (stand [] 5) = true ∧ rejoinForms (stand [] 5) 0 2 = none)
    ∧ (Issues (.rjoin 0#7 2#7) (tract []) ∧ (tract []).me.frame = none ∧ isStand (tract []) = false ∧ ∀ c ∈ (tract []).ctxs, atRejoin c = false) := by
  unfold Issues; decide +kernel

/-- A stand of a run of lanes, at an RJOIN that its two registers pass. -/
theorem witness_PathsRejoin_piece :
    (let s := stand [] 0xF0
     Issues (.rjoin 0#7 2#7) s ∧ s.me.frame = none ∧ isStand s = true ∧ s.me.paths = [] ∧ s.me.recs = []
      ∧ (∀ l < 64, s.me.path.mask.getLsbD l = decide (4 ≤ l ∧ l < 4 + 4)) ∧ allSealed s.task s.me.id = true
      ∧ (∀ m ∈ s.me.regs.m.toList, m.bank = none) ∧ (liveForms s.me ((List.range 2).map fun k => 0 + k)).isSome = true
      ∧ s.flight = [] ∧ s.ctxs = []) := by
  unfold Issues; decide +kernel

/-- A tract of a box before an RJOIN. -/
def piece (mine : Box) : Context := { (tract []).me with box := mine }

/-- Its neighbour of another box, at the RJOIN. -/
def neighbour (other : Box) : Context :=
  { piece other with id := 8, slotNo := 1, path := { stepPast (piece other).path with wait := .rejoin 900 } }

/-- The two, and a pending piece of the neighbour. -/
def meeting (mine other : Box) : State :=
  { tract [] with me := piece mine, ctxs := [neighbour other, { Context.idle with id := 9, task := 1, kind := .pending, holder := 8 }] }

/-- The neighbour above and below in x, with a new seam and at a window's edge; in y; in z. -/
theorem witness_PathsRejoin_merge :
    (∀ q ∈ [((⟨0, 32, 0, 1, 0, 1⟩ : Box), (⟨32, 64, 0, 1, 0, 1⟩ : Box)), (⟨64, 128, 0, 1, 0, 1⟩, ⟨0, 64, 0, 1, 0, 1⟩),
        (⟨0, 64, 0, 1, 0, 1⟩, ⟨0, 64, 1, 2, 0, 1⟩), (⟨0, 64, 0, 1, 1, 3⟩, ⟨0, 64, 0, 1, 0, 1⟩)],
      Issues (.rjoin 0#7 2#7) (meeting q.1 q.2) ∧ isStand (meeting q.1 q.2) = false
        ∧ (pendingOf (meeting q.1 q.2) 7).length + (pendingOf (meeting q.1 q.2) 8).length ≤ 8)
    ∧ (∀ a b, (meeting a b).ctxs.filter atRejoin = [neighbour b] ∧ (meeting a b).me = piece a)
    ∧ (∀ b, (piece b).frame = none ∧ (neighbour b).frame = none ∧ (piece b).id = 7 ∧ (neighbour b).id = 8 ∧ (neighbour b).path.wait = .rejoin 900
      ∧ (piece b).box = b ∧ (neighbour b).box = b ∧ (piece b).seams = [] ∧ (neighbour b).seams = [] ∧ (piece b).task = (neighbour b).task
      ∧ (stepPast (piece b).path).pc = (neighbour b).path.pc ∧ (stepPast (piece b).path).slot = (neighbour b).path.slot
      ∧ (piece b).regs = (neighbour b).regs ∧ (stepPast (piece b).path).ret = (neighbour b).path.ret
      ∧ (piece b).copyBat = (neighbour b).copyBat ∧ (piece b).matBat = (neighbour b).matBat)
    ∧ allSealed (tract []).task 7 = true ∧ allSealed (tract []).task 8 = true := by
  refine ⟨by unfold Issues; decide +kernel, fun _ _ => ⟨rfl, rfl⟩, fun b => ⟨rfl, rfl, rfl, rfl, rfl, rfl, rfl, rfl, rfl, rfl, rfl, rfl, rfl, rfl, rfl, rfl⟩, ?_, ?_⟩ <;> decide

/-- Every word, with lanes of p0 missing. -/
theorem witness_PredicateWords :
    ∀ i ∈ [Instr.pand 1#3 0#3 2#3, .por 1#3 0#3 2#3, .pxor 1#3 0#3 2#3, .pnot 7#3 0#3, .pcnt 64#7 1#3, .pfirstA 64#7 1#3, .pfirstP 1#3 2#3,
      .ballot 64#7 3#7, .ballot 7#7 3#7], Issues i (stand [] 5) := by
  unfold Issues; decide +kernel

/-! ## Affine words -/

/-- An affine form in x of tag int32. -/
def aff (x : Nat) (sx : Int) : AReg := ⟨BitVec.ofNat 64 x, BitVec.ofInt 32 sx, 0, 0, .int32⟩

/-- Strides whose sum is the greatest that fits, and the least that does not. -/
theorem witness_AffineSums :
    (∀ i ∈ [Instr.aadd 64#7 65#7 66#7, .asub 64#7 65#7 66#7, .aaddi 64#7 65#7 0x400#11],
      Issues i (stand [(1, aff 7 5), (2, aff 1 3)] all) ∧ Issues i (tract [(1, aff 7 5), (2, aff 1 3)]))
    ∧ Issues (.aaddi 64#7 65#7 0#11) (led (stand [(1, aff 7 5)] all) { Lead.none with imm := some 5, count := 1 })
    ∧ cellType (stand [] all).me.path.lead = false
    ∧ fitsSigned 32 ((aCode (readRegs (stand [(1, aff 0 (2 ^ 31 - 2)), (2, aff 0 1)] all)) 65#7).sx.toInt + 1 * (aff 0 1).sx.toInt) = true
    ∧ fitsSigned 32 ((aCode (readRegs (stand [(1, aff 0 (2 ^ 31 - 1)), (2, aff 0 1)] all)) 65#7).sx.toInt + 1 * (aff 0 1).sx.toInt) = false
    ∧ Issues (.aadd 64#7 65#7 66#7) (stand [(1, aff 0 (2 ^ 31 - 1)), (2, aff 0 1)] all) ∧ isStand (stand [] all) = true := by
  unfold Issues; decide +kernel

/-- Strides in every dimension; a sum with a cell, and one that does not fit in y or in z. -/
theorem witness_AffineSums_forms :
    Issues (.aadd 64#7 65#7 66#7) (tract [(1, ⟨7, 5, 4, 3, .int32⟩), (2, ⟨1, 3, 2, 1, .cell⟩)])
    ∧ Issues (.aaddi 64#7 65#7 8#11) (led (stand [(1, aff 7 5)] all) (lead3 0 17 0 0)) ∧ cellType (lead3 0 17 0 0) = true
    ∧ (∀ f ∈ [(⟨0, 0, 0x7FFFFFFF, 0, .int32⟩ : AReg), ⟨0, 0, 0, 0x7FFFFFFF, .int32⟩],
        Issues (.aadd 64#7 65#7 65#7) (stand [(1, f)] all) ∧ isStand (stand [(1, f)] all) = true
        ∧ (fitsSigned 32 (f.sy.toInt + 1 * f.sy.toInt) = false ∨ fitsSigned 32 (f.sz.toInt + 1 * f.sz.toInt) = false)) := by
  unfold Issues; decide +kernel

/-- Each word; the greatest amount. -/
theorem witness_AffineProducts :
    (∀ i ∈ [Instr.amul 64#7 65#7 66#7, .amuli 64#7 65#7 0x7FF#11, .ashl 64#7 65#7 66#7, .ashli 64#7 65#7 63#11],
      Issues i (stand [(1, aff 7 5), (2, num 63)] all) ∧ Issues i (tract [(1, aff 7 0), (2, num 63)]))
    ∧ (affineB Lead.none (readRegs (stand [(1, aff 7 5), (2, num 63)] all)) 66#7).isUniform = true
    ∧ (affineB Lead.none (readRegs (stand [(1, aff 7 5), (2, num 63)] all)) 66#7).base = BitVec.ofNat 64 63
    ∧ immI Lead.none 63#11 = Int.ofNat 63 ∧ fitsSigned 32 ((aff 7 5).sx.toInt * 2 ^ 28) = true ∧ fitsSigned 32 ((aff 7 0).sx.toInt * 2 ^ 63) = true := by
  unfold Issues; decide +kernel

/-- A uniform value by a form; a product that does not fit, one of two forms; shifts by 64 and by a form. -/
theorem witness_AffineProducts_orders :
    (Issues (.amul 64#7 65#7 66#7) (tract [(1, num 3), (2, ⟨7, 5, 4, 3, .int32⟩)])
      ∧ (aCode (readRegs (tract [(1, num 3)])) 65#7).isUniform = true)
    ∧ (Issues (.amul 64#7 65#7 66#7) (stand [(1, aff 0 (2 ^ 31 - 1)), (2, num 2)] all) ∧ fitsSigned 32 ((aff 0 (2 ^ 31 - 1)).sx.toInt * 2) = false)
    ∧ (Issues (.amul 64#7 65#7 66#7) (stand [(1, aff 0 1), (2, aff 0 1)] all) ∧ (aff 0 1).isUniform = false)
    ∧ (∀ f ∈ [num 64, aff 0 1], Issues (.ashl 64#7 65#7 66#7) (stand [(1, aff 0 1), (2, f)] all)
      ∧ (affineB Lead.none (readRegs (stand [(1, aff 0 1), (2, f)] all)) 66#7) = f ∧ (f.isUniform = false ∨ 64 ≤ f.base.toNat)) := by
  unfold Issues; decide +kernel

theorem witness_UniformWords :
    (∀ i ∈ [Instr.aand 64#7 65#7 66#7, .aor 64#7 65#7 66#7, .axor 64#7 65#7 66#7, .amin 64#7 65#7 66#7, .amax 64#7 65#7 66#7, .ashr 64#7 65#7 66#7,
        .acmpEq 64#7 65#7 66#7, .acmpNe 64#7 65#7 66#7, .acmpLt 64#7 65#7 66#7, .acmpLe 64#7 65#7 66#7, .acmpLtu 64#7 65#7 66#7,
        .acmpLeu 64#7 65#7 66#7, .aandi 64#7 65#7 0x400#11, .ashri 64#7 65#7 3#11, .amovi 64#7 0x400#11, .aaddi 64#7 65#7 0#11],
      Issues i (stand [(1, num 9), (2, num 64)] all) ∧ Issues i (tract [(1, num 9), (2, num 64)]))
    ∧ (aCode (readRegs (tract [(1, num 9), (2, num 64)])) 65#7).isUniform = true
    ∧ (affineB Lead.none (readRegs (tract [(1, num 9), (2, num 64)])) 66#7).isUniform = true := by
  unfold Issues; decide +kernel

/-- An affine source, first or second. -/
theorem witness_UniformWords_affine :
    (∀ i ∈ [Instr.aand 64#7 65#7 66#7, .aor 64#7 65#7 66#7, .axor 64#7 65#7 66#7, .amin 64#7 65#7 66#7, .amax 64#7 65#7 66#7, .ashr 64#7 65#7 66#7,
        .acmpEq 64#7 65#7 66#7, .acmpNe 64#7 65#7 66#7, .acmpLt 64#7 65#7 66#7, .acmpLe 64#7 65#7 66#7, .acmpLtu 64#7 65#7 66#7,
        .acmpLeu 64#7 65#7 66#7, .aandi 64#7 65#7 3#11, .ashri 64#7 65#7 3#11],
      ∀ s ∈ [stand [(1, aff 0 1), (2, num 1)] all], Issues i s ∧ isStand s = true ∧ (aCode (readRegs s) 65#7).isUniform = false)
    ∧ Issues (.aand 64#7 65#7 66#7) (stand [(1, num 1), (2, aff 0 1)] all)
    ∧ (affineB Lead.none (readRegs (stand [(1, num 1), (2, aff 0 1)] all)) 66#7).isUniform = false := by
  unfold Issues; decide +kernel

/-! ## Integer, bit, byte and lane words: into a v register and into an a-register -/

theorem witness_IntegerWords :
    ∀ d ∈ [3#7, 64#7], ∀ i ∈ [Instr.iadd d 1#7 2#7 0#4, .isub d 1#7 2#7 9#4, .imul d 1#7 2#7 8#4, .imad 3#7 1#7 2#7 1#4, .imulh d 1#7 2#7 1#3,
      .imin d 1#7 2#7 0#3, .imax d 1#7 2#7 1#3, .iabs d 1#7 8#4, .iadd d 40#7 41#7 5#4, .imul d 40#7 41#7 2#4], Issues i (stand [] 5) := by
  unfold Issues; decide +kernel

/-- Every condition of ICMP. -/
theorem witness_CompareAndSelect :
    (∀ d ∈ [1#7, 9#7, 17#7, 25#7, 33#7, 41#7], Issues (.icmp d 1#7 2#7 0#3) (stand [] 5))
    ∧ (∀ d ∈ [3#7, 64#7], Issues (.sel d 1#7 2#7 1#3) (stand [] 5)) := by
  unfold Issues; decide +kernel

theorem witness_BitAndLaneWords :
    ∀ d ∈ [3#7, 64#7], ∀ i ∈ [Instr.and d 40#7 41#7, .or d 40#7 41#7, .xor d 40#7 41#7, .andn d 40#7 41#7, .shl d 40#7 41#7, .shr d 40#7 41#7,
      .sar d 40#7 41#7, .rotl d 40#7 41#7, .popc d 40#7, .clz d 40#7, .brev d 40#7, .lshc d 40#7 41#7 1#4, .lshc d 40#7 41#7 15#4, .xperm d 40#7 41#7],
      Issues i (stand [] 5) := by
  unfold Issues; decide +kernel

theorem witness_ByteWords :
    ∀ d ∈ [3#7, 64#7], ∀ i ∈ [Instr.bcmpEq d 40#7 41#7, .bcmpLt d 40#7 41#7, .bcmpLtu d 40#7 41#7, .baddsI8 d 40#7 41#7, .baddsN8 d 40#7 41#7,
      .bshuf d 40#7 41#7, .blut d 40#7 92#7], Issues i (stand [] 5) := by
  unfold Issues; decide +kernel

/-! ## Floating-point words -/

/-- The stand with a mode register whose traps are all enabled, lane 1 of v16 a signalling NaN, v17 all 1.0. -/
def floaty (l : List (Nat × AReg)) : State :=
  let s := stand l 7
  { s with me := { s.me with regs := { s.me.regs with
      mode := 0xF81
      v := vset (vset s.me.regs.v 17 ⟨Vector.replicate 64 0x3F800000#32, .f32⟩) 16
        ⟨vset (Vector.replicate 64 0x3F800000#32) 1 0x7F800001#32, .f32⟩ } } }

/-- Every word; lanes without a flag, and lane 1 the first with an enabled one. -/
theorem witness_FloatWords :
    (∀ d ∈ [3#7, 64#7], ∀ i ∈ [Instr.fadd d 17#7 17#7 0#4, .fsub d 17#7 17#7 1#4, .fmul d 17#7 17#7 13#4, .fma 17#7 17#7 17#7 6#4, .fmin d 17#7 17#7,
      .fmax d 17#7 17#7, .fdiv d 17#7 17#7 0#4, .fsqrt d 17#7 0#4, .frcp d 17#7 0#4, .frsq d 17#7 0#4, .fexp2 d 17#7 0#4, .flog2 d 17#7 0#4,
      .fsin d 17#7 0#4, .fcos d 17#7 0#4], Issues i (floaty []))
    ∧ (∀ l ∈ lanesOf (floaty []).me.path.mask, (floatLanes (floaty []) 0 (pairOf 17#7 17#7 (floaty []))
        (fun t r l => fAdd t r false (opd l 0) (opd l 1)) l).flags &&& modeTen (readRegs (floaty [])).mode = 0)
    ∧ ((lanesOf (floaty []).me.path.mask).find? fun l => (floatLanes (floaty []) 0 (pairOf 16#7 17#7 (floaty []))
        (fun t r l => fAdd t r false (opd l 0) (opd l 1)) l).flags &&& modeTen (readRegs (floaty [])).mode != 0) = some 1
    ∧ (laneForm (floaty []) .f32 false fun _ => 5).isSome = true ∧ laneForm (floaty []) .f32 false (fun l => BitVec.ofNat 32 (l * l)) = none := by
  unfold Issues; decide +kernel

/-- Ties, and nothing rounded away. -/
theorem witness_RoundingRule : (12 : Nat) % 2 ^ 2 = 0 ∧ 2 * (6 % 2 ^ 2) = 2 ^ 2 ∧ (7 : Nat) % 2 ^ 0 = 0 := by decide

theorem witness_FloatTests :
    (∀ d ∈ [1#7, 9#7, 57#7], Issues (.fcmp d 17#7 17#7) (floaty []) ∧ Issues (.fcmp d 16#7 17#7) (floaty []))
    ∧ (let cmp (a : BitVec 7) (l : Nat) := fCompare 0 (fmtOf 10)
        (readOperand (fmtOf 10) false (floatSrc (floaty []) (fSrc (floaty []) 0 a.toNat) 32 l)) 0x3F800000
      (∀ l ∈ lanesOf (floaty []).me.path.mask, (cmp 17#7 l).2 &&& modeTen (readRegs (floaty [])).mode = 0)
      ∧ ((lanesOf (floaty []).me.path.mask).find? fun l => (cmp 16#7 l).2 &&& modeTen (readRegs (floaty [])).mode != 0) = some 1)
    ∧ (∀ d ∈ [3#7, 64#7], Issues (.fclass d 16#7) (floaty [])) ∧ fpType (floaty []).me.path.lead = 10 := by
  unfold Issues; decide +kernel

/-- To bf16, e4m3, int32 with saturation, and into an a-register. -/
theorem witness_ConvertWord :
    (∀ i ∈ [Instr.cvt 6#7 18#7 9#5 0#4, .cvt 6#7 16#7 12#5 8#4, .cvt 6#7 17#7 5#5 10#4, .cvt 64#7 17#7 5#5 0#4], Issues i (stand [] 5))
    ∧ fpType (stand [] 5).me.path.lead = 10 := by
  unfold Issues; decide +kernel

/-- One lane and several; the 32-bit sum and the f32 sum. -/
theorem witness_ScanWords :
    (∀ m ∈ [1, 6], ∀ i ∈ [Instr.vscan 3#7 1#7 0#4, .vred 3#7 1#7 0#4, .vscan 64#7 1#7 0#4, .vred 64#7 1#7 0#4, .vscan 4#7 16#7 8#4, .vred 4#7 16#7 8#4],
      Issues i (stand [] (BitVec.ofNat 64 m)))
    ∧ lowestLane 6#64 = some 1 ∧ lanesOf 1#64 = [0] ∧ (6#64).getLsbD 2 = true := by
  unfold Issues; decide +kernel

/-! ## Loads, stores and atomics -/

/-- A result is a trap. -/
def resTraps {α : Type} (r : Res α) (k : Trap) : Bool := match r with | .trap t => t == k | _ => false

theorem resTraps_spec {α : Type} {r : Res α} {k : Trap} (h : resTraps r k = true) : r = .trap k := by
  cases r <;> simp_all [resTraps]

/-- An access of device memory under its own key, in one part. -/
def plainSpots (n : Nat) (q : State × List Spot) : Bool :=
  q.2.length == n && q.2.all fun a => a.parts.length == 1
    && a.parts.all fun p => paKind p.pa != some .mmio && !sealed q.1 q.1.task.part (placeOf q.1 p.pa)

/-- One access in one part, of a line that cannot be read, at a home that answers. -/
def badSpot (q : State × List Spot) : Bool :=
  q.2.length == 1 && q.2.all fun a => a.parts.length == 1 && a.parts.all fun p => lineBad q.1 p.pa && !homeDown q.1 p.pa p.home

/-- One lane and three; an address that is not aligned, and one past 2^48; a line that cannot be read. -/
theorem witness_GlobalLoads :
    (∀ m ∈ [1, 7], ∀ i ∈ [Instr.ldg 2#7 5#5 31#5 0#2 0#6, .ldgF 66#7 5#5 31#5 0#2 0#6, .ldk 2#7 5#5 0#2 0#6], Issues i (at5 0x10000 m))
    ∧ (∃ q, access .read true anyKind 4 (wordAddrs (at5 0x10000 1) 5#5 31#5 0#2 0#6 4) [0] (at5 0x10000 1) = .ok q ∧ plainSpots 1 q = true)
    ∧ (∃ q, access .read true anyKind 4 (wordAddrs (at5 0x10000 7) 5#5 31#5 0#2 0#6 4) [0, 1, 2] (at5 0x10000 7) = .ok q ∧ plainSpots 3 q = true)
    ∧ (∃ q, access .read true noMmio 4 (wordAddrs (at5 0x10000 7) 5#5 31#5 0#2 0#6 4) [0] (at5 0x10000 7) = .ok q ∧ plainSpots 1 q = true)
    ∧ (at5 0x10000 1).core.cache = [] ∧ Quiet (at5 0x10000 1) ∧ electedLane (at5 0x10000 7) = 0
    ∧ access .read true anyKind 4 (wordAddrs (at5 0x10002 1) 5#5 31#5 0#2 0#6 4) [0] (at5 0x10002 1) = .trap (trapLane 0x08 0 0x10002 0)
    ∧ access .read true anyKind 4 (wordAddrs (at5 (2 ^ 48) 1) 5#5 31#5 0#2 0#6 4) [0] (at5 (2 ^ 48) 1) = .trap (trapLane 0x09 1 (2 ^ 48) 0)
    ∧ Issues (.ldg 2#7 5#5 31#5 0#2 0#6) (at5 0x10002 1)
    ∧ (let s : State := { at5 0x10000 1 with dev := { (at5 0x10000 1).dev with badLines := [512] } }
       (∀ i ∈ [Instr.ldg 2#7 5#5 31#5 0#2 0#6, .ldgF 66#7 5#5 31#5 0#2 0#6, .ldk 2#7 5#5 0#2 0#6], Issues i s)
        ∧ s.flight = [] ∧ s.me.loadAfter ≤ myTime s ∧ s.core.cache = []
        ∧ ∃ q, access .read true anyKind 4 (wordAddrs s 5#5 31#5 0#2 0#6 4) [0] s = .ok q ∧ badSpot q = true) :=
  ⟨by unfold Issues; decide +kernel, resOk_spec (by decide +kernel), resOk_spec (by decide +kernel), resOk_spec (by decide +kernel), rfl,
    quiet_at5 _ _, by decide +kernel, resTraps_spec (by decide +kernel), resTraps_spec (by decide +kernel), by unfold Issues; decide +kernel,
    by unfold Issues; decide +kernel, rfl, by decide, rfl, resOk_spec (by decide +kernel)⟩

theorem witness_AffineLoadAndPrefetch :
    (Issues (.ald 70#7 5#5 0#6) (at5 0x10000 7) ∧ (aReg (readRegs (at5 0x10000 7)) 5).isUniform = true
      ∧ (∃ q, access .read true anyKind (aldSize 31) (memAddr (at5 0x10000 7).me (readRegs (at5 0x10000 7)) 5#5 31#5 0#2 0#6 (aldSize 31))
          [electedLane (at5 0x10000 7)] (at5 0x10000 7) = .ok q ∧ plainSpots 1 q = true)
      ∧ Quiet (at5 0x10000 7) ∧ (at5 0x10000 7).core.cache = [])
    ∧ (∀ x ∈ [0x10000, 2 ^ 48], Issues (.pref 5#5 31#5 0#2 0#6) (at5 x 7)) :=
  ⟨⟨by unfold Issues; decide +kernel, by decide +kernel, resOk_spec (by decide +kernel), quiet_at5 _ _, rfl⟩, by unfold Issues; decide +kernel⟩

/-- Three lanes at one address; no lane; an address that is not aligned. -/
theorem witness_GlobalStores :
    (∀ m ∈ [7, 0], Issues (.stg 2#7 5#5 31#5 0#2 0#6) (at5 0x10000 m) ∧ (at5 0x10000 m).task.vmode = false)
    ∧ Quiet (at5 0x10000 7)
    ∧ (∃ q, access .write false anyKind 4 (wordAddrs (at5 0x10000 7) 5#5 31#5 0#2 0#6 4) (lanesOf 7) (at5 0x10000 7) = .ok q ∧ plainSpots 3 q = true)
    ∧ access .write false anyKind 4 (wordAddrs (at5 0x10002 7) 5#5 31#5 0#2 0#6 4) (lanesOf 7) (at5 0x10002 7) = .trap (trapLane 0x08 0 0x10002 0) :=
  ⟨by unfold Issues; decide +kernel, quiet_at5 _ _, resOk_spec (by decide +kernel), resTraps_spec (by decide +kernel)⟩

/-- A request on its way. -/
def request (k : ReqKind) : Req := ⟨7, 1, 0, 0, 0x10000, 0x10000, homeOf 0x10000 false, 0, k⟩

/-- The stand with requests on their way. -/
def sending (l : List ReqKind) : State := { at5 0 7 with flight := l.map request }

/-- A store and an add alone; each behind a store of its task to the same line. -/
theorem witness_HomeRequests :
    (∀ k ∈ [ReqKind.store [1, 2, 3, 4], .exactAdd (.finite 5)], hostHolds (sending [k]) 0x10000 = false ∧ HomesOpen (sending [k])
      ∧ (sending [k]).dev.swaps = [] ∧ paKind 0x10000 ≠ some .mmio ∧ sealed (sending [k]) 0 (placeOf (sending [k]) 0x10000) = false
      ∧ (sending [k]).mem.wf = true ∧ behindOther (sending [k]) (request k) = false
      ∧ behindOther (sending [.store [9], k]) (request k) = true)
    ∧ (∀ n ∈ [0, 1], ((sending [.store [9], .store [1, 2, 3, 4]]).flight.filter fun r => match r.kind with | .store _ => true | _ => false)[n]?
        = some (request (if n = 0 then .store [9] else .store [1, 2, 3, 4])))
    ∧ (∀ l ∈ [[], [ReqKind.store [9]]], ((sending (l ++ [.exactAdd (.finite 5)])).flight.filter fun r => match r.kind with | .exactAdd _ => true | _ => false)[0]?
        = some (request (.exactAdd (.finite 5))))
    ∧ (at5 0 7).flight = [] := by
  unfold HomesOpen; decide +kernel

/-- An add behind another of its context, to another line; no capability page. -/
theorem witness_HomeRequests_adds :
    (let s : State := { sending [] with flight := [{ request (.exactAdd (.finite 3)) with pa := 0x20000 }, request (.exactAdd (.finite 5))] }
     (s.flight.filter fun r => match r.kind with | .exactAdd _ => true | _ => false)[1]? = some (request (.exactAdd (.finite 5)))
      ∧ behindOther s (request (.exactAdd (.finite 5))) = true)
    ∧ ∀ k, inCapPage (sending [k]) 0x10000 = false := ⟨by decide +kernel, fun _ => rfl⟩

theorem witness_WriteTimesCoverLeases :
    let s : State := { at5 0 7 with lines := [⟨512, homeOf 0x10000 false, 1500, 0, [], true, 0, 0, 0, 0⟩] }
    s.dev.swaps = [] ∧ homeOf 0x10000 false < 256 ∧ (lineState s (lineOf 0x10000) (homeOf 0x10000 false)).resident = true
      ∧ (lineState s (lineOf 0x10000) (homeOf 0x10000 false)).expiry = 1500 := by
  decide +kernel

/-- A commit of the line at a time past every lease, and one sooner. -/
theorem witness_WriteTimesCoverLeases_commit :
    ∀ w ∈ [2000, 1200],
      let s : State := { at5 0 7 with
        lines := [⟨512, homeOf 0x10000 false, 1500, 0, [], true, 0, 0, 0, 0⟩]
        tasks := [{ task1 with tid := 3, vlines := [(0x10000, 5)], commitAt := some w }] }
      commitTimes s 0x10000 = [w] ∧ (lineState s (lineOf 0x10000) (homeOf 0x10000 false)).resident = true
        ∧ decide (homeClock s (homeOf 0x10000 false) + 500 < w ∧ (lineState s (lineOf 0x10000) (homeOf 0x10000 false)).expiry < w)
          = decide (w = 2000) := by
  decide +kernel

/-- The stand on another die than its line's home, its lane 0 reported as failed, its effect applied or not. -/
def netFailed (applied : Nat) : State :=
  let s := at5 0x10000 1
  { s with
    me := { s.me with netError := some (1, BitVec.ofNat 64 applied) }
    task := { s.task with core := 300 }
    core := { s.core with id := 300 } }

/-- A uniform destination, one lane, three; an address that is not aligned. -/
theorem witness_GlobalAtomics :
    (∀ f ∈ [0#4, 7#4], ∀ d ∈ [4#7, 64#7], Issues (.atomg d 5#5 6#7 f) (at5 0x10000 1)) ∧ Issues (.atomg 20#7 5#5 21#7 8#4) (at5 0x10000 1)
    ∧ Issues (.atomg 4#7 5#5 6#7 0#4) (at5 0x10000 7) ∧ Quiet (at5 0x10000 1) ∧ (at5 0x10000 1).dev.hostHeld = []
    ∧ (∃ q, access .rmw false (atomBad 0#4 32) 4 (atomAddr (at5 0x10000 1) 5#5) (atomLanes (at5 0x10000 1) 4#7) (at5 0x10000 1) = .ok q
        ∧ (plainSpots 1 q && q.1.dev.swaps.isEmpty && q.1.mem.wf) = true)
    ∧ (∃ q, access .rmw false (atomBad 0#4 32) 4 (atomAddr (at5 0x10000 7) 5#5) (atomLanes (at5 0x10000 7) 64#7) (at5 0x10000 7) = .ok q
        ∧ (plainSpots 1 q && q.1.dev.swaps.isEmpty && q.1.mem.wf) = true)
    ∧ access .rmw false (atomBad 0#4 32) 4 (atomAddr (at5 0x10002 1) 5#5) (atomLanes (at5 0x10002 1) 4#7) (at5 0x10002 1)
        = .trap (trapLane 0x08 0 0x10002 0)
    ∧ (at5 0x10000 1).me.netError = none
    ∧ (∀ x ∈ [0, 1], (∀ d ∈ [4#7, 64#7], Issues (.atomg d 5#5 6#7 0#4) (netFailed x)) ∧ Quiet (netFailed x) ∧ (netFailed x).dev.hostHeld = []
      ∧ ∃ q, access .rmw false (atomBad 0#4 32) 4 (atomAddr (netFailed x) 5#5) (atomLanes (netFailed x) 4#7) (netFailed x) = .ok q
        ∧ (q.2.length == 1 && decide (netLanes q.1 q.2 = ([0], if x = 0 then [] else [0]))) = true) :=
  ⟨by unfold Issues; decide +kernel, by unfold Issues; decide +kernel, by unfold Issues; decide +kernel, quiet_at5 _ _, rfl,
    resOk_spec (by decide +kernel), resOk_spec (by decide +kernel), resTraps_spec (by decide +kernel), rfl, fun x hx => by
    simp only [List.mem_cons, List.not_mem_nil, or_false] at hx
    have i : ∀ x ∈ [0, 1], ∀ d ∈ [4#7, 64#7], Issues (.atomg d 5#5 6#7 0#4) (netFailed x) := by unfold Issues; decide +kernel
    refine ⟨i x (by simpa using hx), ⟨rfl, ⟨rfl, fun t h => by rw [show t = _ from List.mem_singleton.mp h]; rfl, rfl⟩, by
      obtain rfl | rfl := hx <;> decide⟩, rfl, ?_⟩
    obtain rfl | rfl := hx <;> exact resOk_spec (by decide +kernel)⟩

/-- The last 4 bytes of the pad, the first past it, and an offset that is not aligned; one lane of ATOMP, in both files. -/
theorem witness_PadWords :
    (∀ x ∈ [0, 32764], Issues (.ldp 2#7 5#5 31#5 0#2 0#6) (at5 x 7) ∧ Issues (.stp 2#7 5#5 31#5 0#2 0#6) (at5 x 7)
      ∧ (∀ l ∈ lanesOf (at5 x 7).me.path.mask, padTrap (at5 x 7).task (wordAddrs (at5 x 7) 5#5 31#5 0#2 0#6 4 l) 4 l = none
        ∧ emptyIn (at5 x 7).task (wordAddrs (at5 x 7) 5#5 31#5 0#2 0#6 4 l) 4 l = [])
      ∧ (at5 x 7).core.clearing = none ∧ (at5 x 7).core.matq = [] ∧ (at5 x 7).task.pad.wf = true)
    ∧ (∀ q ∈ [(32768, trapLane 0x0A 16 32768 0), (2, trapLane 0x08 0 2 0)],
      Issues (.ldp 2#7 5#5 31#5 0#2 0#6) (at5 q.1 7) ∧ Issues (.stp 2#7 5#5 31#5 0#2 0#6) (at5 q.1 7)
      ∧ firstTrap (fun l => padTrap (at5 q.1 7).task (wordAddrs (at5 q.1 7) 5#5 31#5 0#2 0#6 4 l) 4 l) (lanesOf (at5 q.1 7).me.path.mask) = some q.2)
    ∧ (∀ d ∈ [4#7, 64#7], Issues (.atomp d 5#5 6#7 0#4) (at5 32764 1) ∧ atomLanes (at5 32764 1) d = [0]
      ∧ padTrap (at5 32764 1).task (atomAddr (at5 32764 1) 5#5 0) 4 0 = none ∧ emptyIn (at5 32764 1).task (atomAddr (at5 32764 1) 5#5 0) 4 0 = [])
    ∧ (let s : State := { at5 0 7 with task := { (at5 0 7).task with badPad := [3] } }
       Issues (.ldp 2#7 5#5 31#5 0#2 0#6) s ∧ lanesOf s.me.path.mask = 0 :: [1, 2] ∧ padBad s.task 0 (wordAddrs s 5#5 31#5 0#2 0#6 4 0) 4 = true)
    ∧ (at5 0 7).task.badPad = [] := by
  and_intros <;> first | decide +kernel | (unfold Issues; decide +kernel)

theorem served_at5 (x m k : Nat) : servedFirst (at5 x m) (at5 x m).task k = false := rfl

/-- The base register a5 at a sum cell. -/
def cell5 (x m : Nat) : State := stand [(5, uniform (BitVec.ofNat 64 x) .cell)] (BitVec.ofNat 64 m)

/-- Two cells in global memory; a cell in the pad, a cell at its home. -/
theorem witness_SumCells :
    (∀ d ∈ [2#7, 82#7], Issues (.xsum d 5#5 31#5 0#2 0#6) (cell5 0x10000 3))
    ∧ (∃ q, access .rmw false noHost 64 (wordAddrs (cell5 0x10000 3) 5#5 31#5 0#2 0#6 64) (lanesOf 3) (cell5 0x10000 3) = .ok q ∧ plainSpots 2 q = true)
    ∧ (∀ d ∈ [2#7, 66#7], Issues (.sumrd d 5#5 31#5 0#2 0#6) (led (cell5 64 3) (lead3 0 31 0 1))
      ∧ (extraOf (lead3 0 31 0 1)).aux % 2 = 1
      ∧ ∀ l ∈ lanesOf 3, padTrap (cell5 64 3).task (wordAddrs (cell5 64 3) 5#5 31#5 0#2 0#6 64 l) 64 l = none
        ∧ emptyIn (cell5 64 3).task (wordAddrs (cell5 64 3) 5#5 31#5 0#2 0#6 64 l) 64 l = [])
    ∧ (∀ d ∈ [2#7, 66#7], Issues (.sumrd d 5#5 31#5 0#2 0#6) (cell5 0x10000 3)) ∧ (extraOf Lead.none).aux % 2 = 0 ∧ Quiet (cell5 0x10000 3)
    ∧ (∃ q, access .read false noMmio 64 (wordAddrs (cell5 0x10000 3) 5#5 31#5 0#2 0#6 64) (lanesOf 3) (cell5 0x10000 3) = .ok q ∧ plainSpots 2 q = true) :=
  ⟨by unfold Issues; decide +kernel, resOk_spec (by decide +kernel), by unfold Issues; decide +kernel, by unfold Issues; decide +kernel, by decide,
    ⟨rfl, ⟨rfl, fun t h => by rw [show t = task1 from List.mem_singleton.mp h]; rfl, rfl⟩, Nat.zero_le _⟩, resOk_spec (by decide +kernel)⟩

/-- Cells of which one lies in a line that cannot be read, and cells that can. -/
theorem witness_SumCells_bad :
    (let s : State := { cell5 0x10000 3 with dev := { (cell5 0x10000 3).dev with badLines := [512] } }
     Issues (.xsum 2#7 5#5 31#5 0#2 0#6) s ∧ s.flight = []
      ∧ ∃ q, access .rmw false noHost 64 (wordAddrs s 5#5 31#5 0#2 0#6 64) (lanesOf 3) s = .ok q ∧ (spotsTrap q.1 q.2).isSome = true)
    ∧ (cell5 0x10000 3).flight = []
    ∧ ∃ q, access .rmw false noHost 64 (wordAddrs (cell5 0x10000 3) 5#5 31#5 0#2 0#6 64) (lanesOf 3) (cell5 0x10000 3) = .ok q
      ∧ (spotsTrap q.1 q.2).isNone = true :=
  ⟨⟨by unfold Issues; decide +kernel, rfl, resOk_spec (by decide +kernel)⟩, rfl, resOk_spec (by decide +kernel)⟩

/-! ## Order and synchronisation -/

/-- Batch 3 of both families holds one operation, done or not. -/
def batch3 (s : State) (done : Bool) : State :=
  let b : Batches := ⟨4, Vector.ofFn fun n => if n.val = 3 then [5] else [], 0⟩
  { s with
    me := { s.me with copyBat := b, matBat := b }
    task := { s.task with ops := [⟨5, 7, false, some 5, done, none, 40⟩] } }

/-- The batches full of both families. -/
def matFull (s : State) : State :=
  let u := batchesFull s
  { u with me := { u.me with matBat := u.me.copyBat } }

/-- The same batch with a failed operation. -/
def failed3 (s : State) : State :=
  let u := batch3 s true
  { u with task := { u.task with ops := [⟨5, 7, false, some 5, true, some ⟨0x08, 0, 0, 64, 64⟩, 40⟩] } }

/-- Nothing to wait for and something, in each word; a failed batch; a request of the context on its way. -/
theorem witness_OrderingWords :
    (Issues .fence (stand [] all) ∧ Issues .fence (tract []) ∧ fenceReady (stand [] all) = true
      ∧ fenceReady { stand [] all with me := { (stand [] all).me with horizon := 997 } } = false)
    ∧ (Issues .cseal (stand [] all) ∧ Issues .mseal (tract []) ∧ pendingCount (stand [] all).task (stand [] all).me.copyBat < 8
      ∧ pendingCount (stand [] all).task (stand [] all).me.matBat < 8)
    ∧ (Issues (.cwait 3#7) (batch3 (stand [] all) true) ∧ Issues (.mwait 3#4) (batch3 (tract []) true)
      ∧ (∀ b ∈ [(batch3 (stand [] all) true).me.copyBat, (batch3 (stand [] all) true).me.matBat],
        batchPending (batch3 (stand [] all) true).task b 3 = false ∧ batchFailed (batch3 (stand [] all) true).task b 3 = false
          ∧ batchPending (batch3 (stand [] all) false).task b 3 = true)
      ∧ Issues (.cwait 3#7) (batch3 (stand [] all) false) ∧ Issues (.mwait 3#4) (batch3 (stand [] all) false)
      ∧ Issues (.cwait 3#7) (failed3 (stand [] all)) ∧ Issues (.mwait 3#4) (failed3 (stand [] all))
      ∧ ∀ b ∈ [(failed3 (stand [] all)).me.copyBat, (failed3 (stand [] all)).me.matBat], batchPending (failed3 (stand [] all)).task b 3 = false
        ∧ batchFailed (failed3 (stand [] all)).task b 3 = true ∧ batchFault (failed3 (stand [] all)).task b 3 = some ⟨0x08, 0, 0, 64, 64⟩)
    ∧ (Issues .cseal (batchesFull (stand [] all)) ∧ 8 ≤ pendingCount (batchesFull (stand [] all)).task (batchesFull (stand [] all)).me.copyBat
      ∧ Issues .mseal (matFull (stand [] all)) ∧ 8 ≤ pendingCount (matFull (stand [] all)).task (matFull (stand [] all)).me.matBat)
    ∧ (Issues .fence (sending [.store [9]]) ∧ (∃ q ∈ (sending [.store [9]]).flight, q.ctx = (sending [.store [9]]).me.id ∧ q.kind ≠ .fill)
      ∧ Issues (.tlbinv 0#7 1#7) (handled (sending [.store [9]])) ∧ ∃ q ∈ (handled (sending [.store [9]])).flight, q.part = (handled (sending [.store [9]])).task.part)
    ∧ (Issues (.tlbinv 65#7 0#7) (handled (stand [(1, num (2 ^ 48 - 1))] all)) ∧ Issues (.tlbinv 0#7 1#7) (handled (stand [] all))
      ∧ Issues (.tlbinv 65#7 0#7) (handled (stand [(1, num (2 ^ 48))] all)) ∧ (∀ q ∈ (stand [] all).flight, q.part ≠ (stand [] all).task.part)
      ∧ (stand [] all).dev.swaps = []) := by
  and_intros <;> decide +kernel

/-- A barrier word at pad offset 16: arrivals, expectation, generation, state. -/
def barrierAt (s : State) (arr exp gen state : Nat) : State :=
  { s with task := { s.task with pad := Memory.setBytes [] 16 (bytesLE 16 (barWord 0 arr exp gen state)) } }

/-- Registers of the barrier words: offset in a1, a number in a2; 64 lanes. -/
def barStand (n arr exp gen state : Nat) : State := barrierAt (stand [(1, num 16), (2, num n)] all) arr exp gen state

/-- Expectations 1, 2^32 − 1, 0 and 2^32; the last arrival, one before it, one too many; a barrier that is not active. -/
theorem witness_BarrierWords :
    (∀ n arr exp gen state, (barStand n arr exp gen state).core.clearing = none ∧ (barStand n arr exp gen state).core.matq = [] ∧ (barStand n arr exp gen state).task.badPad = []
      ∧ (∀ k, servedFirst (barStand n arr exp gen state) (barStand n arr exp gen state).task k = false)
      ∧ emptyIn (barStand n arr exp gen state).task 16 16 (electedLane (barStand n arr exp gen state)) = []
      ∧ padTrap (barStand n arr exp gen state).task 16 16 (electedLane (barStand n arr exp gen state)) = none)
    ∧ (∀ q ∈ [(1, 0, 64, 1), (2 ^ 32 - 1, 0, 64, 1), (0, 0, 64, 1), (2 ^ 32, 0, 64, 1), (1, 0, 65, 1), (1, 1, 64, 1), (1, 0, 64, 0), (9, 0, 64, 1), (8, 0, 64, 1), (9, 0, 64, 0)],
        (barStand q.1 q.2.1 q.2.2.1 9 q.2.2.2).task.pad.wf = true
          ∧ barWaiters (barStand q.1 q.2.1 q.2.2.1 9 q.2.2.2) (barStand q.1 q.2.1 q.2.2.1 9 q.2.2.2).task 16 = [])
    ∧ (∀ n ∈ [1, 2 ^ 32 - 1, 0, 2 ^ 32], Issues (.barinit 65#7 66#7) (barStand n 0 64 9 1) ∧ valueA (barStand n 0 64 9 1) 65#7 = 16
      ∧ valueB (barStand n 0 64 9 1) 66#7 = n)
    ∧ (∀ q ∈ [(0, 64, 1), (0, 65, 1), (1, 64, 1), (0, 64, 0)], Issues (.bararr 67#7 65#7) (barStand 1 q.1 q.2.1 9 q.2.2) ∧ valueA (barStand 1 q.1 q.2.1 9 q.2.2) 65#7 = 16
      ∧ fenceReady (barStand 1 q.1 q.2.1 9 q.2.2) = true)
    ∧ itemsNow (barStand 1 0 64 9 1) = 64 ∧ barExp (ofBytesLE ((barStand 1 0 64 9 1).task.pad.getBytes 16 16)) = 64
    ∧ barState (ofBytesLE ((barStand 1 0 64 9 0).task.pad.getBytes 16 16)) = 0
    ∧ (∀ q ∈ [(9, 1), (8, 1), (9, 0)], Issues (.barwait 65#7 66#7) (barStand q.1 0 64 9 q.2))
    ∧ barGen (ofBytesLE ((barStand 9 0 64 9 1).task.pad.getBytes 16 16)) = 9 ∧ valueA (barStand 9 0 64 9 1) 66#7 % 2 ^ 16 = 9
    ∧ valueA (barStand 8 0 64 9 1) 66#7 % 2 ^ 16 = 8 ∧ Issues (.barinv 65#7) (barStand 1 0 64 9 1) := by
  refine ⟨fun n arr exp gen state => ⟨rfl, rfl, rfl, fun k => rfl, rfl, rfl⟩, ?_⟩
  and_intros <;> first | decide +kernel | (unfold Issues; decide +kernel)

/-! ## Messages and windows -/

/-- A peer task of the launch on core 1. -/
def task2 : Task :=
  { task1 with tid := 2, core := 1, windows := vset (Vector.replicate 4 ⟨0, 0, false, false⟩) 0 ⟨0, 256, true, true⟩ }

/-- The stand with its peer, whose core has FIFO banks 94 and 95 when they are asked for. -/
def peered (s : State) (fifo : Bool) : State :=
  { s with tasks := [task2], cores := [if fifo then setBanks (Core.reset 1) [94, 95] .fifo (some 2) else Core.reset 1] }

/-- A message of 4 words from the context. -/
def message1 : Message := ⟨7, 0, 2, [1, 2, 3, 4], 10, 0, 0, none⟩

/-- The stand with an entry of its inbox. -/
def inboxed (s : State) : State := { s with task := { s.task with inbox := [message1], credits := vset s.task.credits 0 1 } }

/-- A remote atomic in transit of lane 0 at offset 8 of core 1. -/
def remote1 (d : BitVec 7) : Remote := ⟨7, 0, [(0, BitVec.ofNat 64 (2 ^ 21 + 8), 5, 0)], 0, 4, d⟩

/-- The stand whose path waits for it. -/
def remoted (d : BitVec 7) : State := { peered (stand [] 1) false with remote := [remote1 d] }

theorem witness_PeerWords :
    (∀ d ∈ [1#7, 65#7], Issues (.sendq d 8#7 1#7) (peered (stand [(1, num 1)] all) true))
    ∧ (let s := peered (stand [(1, num 1)] all) true
       leaderOf s (extraOf s.me.path.lead).pred = some 0 ∧ inboxOf s (peerCore s.task.core 1) s.task.serial = some task2 ∧ s.flight = []
        ∧ vget task2.credits (s.task.core % 8) 0 < creditCap s task2
        ∧ inboxOf (peered (stand [] all) false) (peerCore s.task.core 7) s.task.serial = none)
    ∧ (Issues (.sendq 65#7 8#7 1#7) (stand [(1, num 8)] all) ∧ 7 < (aCode (readRegs (stand [(1, num 8)] all)) 65#7).base.toNat)
    ∧ (let s : State := { peered (stand [] all) true with transit := [message1] }
       s.transit[0]? = some message1 ∧ (∀ k ∈ s.transit.take 0, k.fromCtx ≠ message1.fromCtx ∨ k.toTask ≠ message1.toTask)
        ∧ getTask s message1.toTask = some task2 ∧ ringNext s task2 = some (94, 1))
    ∧ (Issues (.recvq 73#7 8#7) (inboxed (stand [] all)) ∧ entryFor (inboxed (stand [] all)) (7, 0) = some message1
      ∧ 8 + message1.words.length ≤ fileRegs 2 ∧ message1.horizon + 4 ≤ myTime (inboxed (stand [] all)))
    ∧ (message1.bank, message1.line) ∉ (inboxed (stand [] all)).task.badInbox
    ∧ (Issues (.recvq 73#7 8#7) (stand [] all) ∧ entryFor (stand [] all) (7, 0) = none)
    ∧ (let t : Task := { task2 with credits := Vector.replicate 8 31 }
       let s : State := { peered (stand [(1, num 1)] all) true with tasks := [t] }
       Issues (.sendq 65#7 8#7 1#7) s ∧ inboxOf s (peerCore s.task.core 1) s.task.serial = some t ∧ s.flight = []
        ∧ creditCap s t ≤ vget t.credits (s.task.core % 8) 0) := by
  and_intros <;> first | decide +kernel | (unfold Issues; decide +kernel)

/-- The clauses of PADOPEN and ATOMR: a window closed, the least, the whole pad; the last location a peer offset can name. -/
theorem witness_PeerWords_windows :
    (∀ n ∈ [0, 128, 32768], Issues (.padopen 3#2 2#2 64#7 65#7) (stand [(0, num 0), (1, num n)] all)
      ∧ valueB (stand [(0, num 0), (1, num n)] all) 65#7 = n ∧ n % 128 = 0 ∧ (n ≠ 0 → padIn task1 0 n = true)
      ∧ ownRemote (stand [(0, num 0), (1, num n)] all) = false)
    ∧ (let s : State := { stand [(0, num 0), (1, num 128)] all with remote := [⟨7, 1, [(0, 8, 5, 0)], 0, 4, 4⟩] }
       Issues (.padopen 3#2 2#2 64#7 65#7) s ∧ ownRemote s = true)
    ∧ (∀ d ∈ [4#7, 64#7], Issues (.atomr d 5#5 6#7 0#4) (at5 (2 ^ 24 - 4) 1))
    ∧ (∀ l ∈ atomLanes (at5 (2 ^ 24 - 4) 1) 4#7, remoteTrap (atomAddr (at5 (2 ^ 24 - 4) 1) 5#5 l) 4 l = none)
    ∧ remoteOf (at5 0 1) 7 0 = none := by
  unfold Issues; decide +kernel

/-- The last clause of the same statement: the atomic at its peer, into both files. -/
theorem witness_PeerWords_executes :
    ∀ d ∈ [4#7, 64#7], (remoted d).remote[0]? = some (remote1 d) ∧ (remoted d).me.kind ≠ .idle ∧ (remote1 d).ctx = (remoted d).me.id
      ∧ (remote1 d).path = (remoted d).me.path.id ∧ bitsOf (2 ^ 21 + 8) 0 21 = 8
      ∧ peerTask (remoted d) (peerCore 0 (bitsOf (2 ^ 21 + 8) 21 3)) 0 = some task2 ∧ task2.tid ≠ (remoted d).task.tid
      ∧ ((remoted d).tasks.filter fun t => t.tid == task2.tid) = [task2] ∧ (remoted d).core.clearing = none
      ∧ (∀ e ∈ (remoted d).cores, e.clearing = none) ∧ inWindow task2 (fun w => w.atomic) 8 4 = true ∧ padIn task2 8 4 = true
      ∧ emptyIn task2 8 4 0 = [] ∧ (remoted d).me.path.pend = none ∧ (remoted d).me.path.reseed = false ∧ (remoted d).dev.spilled = []
      ∧ task2.badPad = [] ∧ task2.pad.wf = true ∧ electedLane (remoted d) = 0
      ∧ lanesOf (remoted d).me.path.mask = [0] := by
  decide +kernel

theorem witness_PeerWords_served : ∀ d k, servedFirst (remoted d) task2 k = false := fun _ _ => rfl

/-- Nothing of the context left at the merge unit, and one held write. -/
theorem witness_PeerWords_held :
    (∀ n ∈ [0, 128, 32768], writesOpen (stand [(0, num 0), (1, num n)] all) = false)
    ∧ (let s := stand [(0, num 0), (1, num 128)] all
       let u : State := { s with core := { s.core with merge := [⟨1, 0, 0, 1, [], [⟨7, 0, 2, 0, 0, 1, 0, 0, none⟩]⟩] } }
       Issues (.padopen 3#2 2#2 64#7 65#7) u ∧ ownRemote u = false ∧ writesOpen u = true)
    ∧ ∀ d, (remoted d).core.matq = [] := by
  refine ⟨by decide +kernel, by unfold Issues; decide +kernel, fun _ => rfl⟩

/-- A semaphore of the region: value 5. -/
def sem5 (s : State) (value : Nat) : State := { s with dev := { s.dev with sems := [⟨3, value, 20, []⟩] } }

/-- The last granted number and the first past it, counts 0 and 2^32; a value that suffices and one that does not. -/
theorem witness_SemaphoreWords :
    (∀ q ∈ [(15, 1), (15, 2 ^ 32 - 1), (16, 1), (15, 0), (15, 2 ^ 32)], Issues (.sems 65#7 66#7) (sem5 (stand [(1, num q.1), (2, num q.2)] all) 5))
    ∧ semCheck (sem5 (stand [(1, num 15), (2, num 1)] all) 5) 15 (2 ^ 32 - 1) = none
    ∧ (∀ q ∈ [(16, 1), (15, 0), (15, 2 ^ 32)], (semCheck (sem5 (stand [] all) 5) q.1 q.2).isSome = true)
    ∧ fenceReady (sem5 (stand [] all) 5) = true
    ∧ (∀ v ∈ [5, 4], Issues (.semw 67#7 65#7 66#7) (sem5 (stand [(1, num 3), (2, num 5)] all) v)
      ∧ semCheck (sem5 (stand [(1, num 3), (2, num 5)] all) v) 3 5 = none ∧ (semOf (sem5 (stand [] all) v) 3).waiters = []
      ∧ (semOf (sem5 (stand [] all) v) 3).value = v)
    ∧ fenceReady (sem5 (sending [.store [9]]) 5) = false
    ∧ Issues (.sems 65#7 66#7) (sem5 { stand [(1, num 3), (2, num 5)] all with flight := [request (.store [9])] } 5)
    ∧ (let s : State := { stand [(1, num 3), (2, num 5)] all with dev := { (stand [] all).dev with sems := [⟨3, 9, 20, [(8, 0)]⟩] } }
       Issues (.semw 67#7 65#7 66#7) s ∧ semCheck s 3 5 = none ∧ (semOf s 3).waiters.head? = some (8, 0) ∧ (8, 0) ≠ (s.me.id, s.me.path.id))
    ∧ (∀ q ∈ [(16, 1), (3, 0), (3, 2 ^ 32)], Issues (.semw 67#7 65#7 66#7) (sem5 (stand [(1, num q.1), (2, num q.2)] all) 5)
      ∧ valueA (sem5 (stand [(1, num q.1), (2, num q.2)] all) 5) 65#7 = q.1 ∧ valueB (sem5 (stand [(1, num q.1), (2, num q.2)] all) 5) 66#7 = q.2)
    ∧ semGranted (sem5 (stand [] all) 5) 1 16 = false ∧ semGranted (sem5 (stand [] all) 5) 1 3 = true := by
  and_intros <;> first | decide +kernel | (unfold Issues; decide +kernel)

/-! ## Glade, copies -/

/-- The task with two FIFO banks, whose inbox's senders hold more credits than one bank gives. -/
def crediting : State :=
  let s := stand [] all
  { s with core := setBanks s.core [94, 95] .fifo (some 1), task := { s.task with credits := Vector.replicate 8 25 } }

/-- The task with its two PAD banks, of the second of which a queued load reads. -/
def padding : State :=
  let s := stand [] all
  { s with core := { setBanks s.core [0, 1] .pad (some 1) with matq := [⟨9, 7, 1, 3, .f32, all, .load (.pad (BitVec.ofNat 64 (16384 + 2 * 2 ^ 21)) 0), none⟩] } }

/-- POOLSET of 4 banks from OFF to TILE, which holds, and of too many; FIFO banks whose credits are out; a PAD bank still read. -/
theorem witness_GladeWords :
    Issues (.poolq 64#7 0#3 0#3) (stand [] all)
    ∧ (∀ f ∈ [0#3, 4#3], Issues (.poolset 84#7 5#3 4#3 33#7 f) (stand [] all)) ∧ (stand [] all).core.clearing = none
    ∧ (poolCode (stand [] all) ⟨.off, .tile, 33, false, false⟩ ≠ 0 ∧ poolCode (stand [] all) ⟨.off, .tile, 33, false, false⟩ ≠ 6)
    ∧ (Issues (.poolset 84#7 5#3 4#3 4#7 0#3) (stand [] all) ∧ poolCode (stand [] all) ⟨.off, .tile, 4, false, false⟩ = 0
      ∧ padBusy (stand [] all) (departSlots (stand [] all) ⟨.off, .tile, 4, false, false⟩) = false)
    ∧ (let s : State := { stand [] all with core := { core1 with clearing := some ⟨7, 0, 1, 84, [], []⟩ } }
       s.core.clearing = some ⟨7, 0, 1, 84, [], []⟩ ∧ s.me.id = 7 ∧ s.me.path.id = 0 ∧ s.me.kind ≠ .idle ∧ s.me.path.pend = none
        ∧ s.me.path.reseed = false ∧ s.dev.spilled = [])
    ∧ (∀ f ∈ [0#3, 4#3], Issues (.poolset 84#7 3#3 5#3 1#7 f) crediting) ∧ poolCode crediting ⟨.fifo, .off, 1, false, false⟩ = 6
    ∧ (Issues (.poolset 84#7 1#3 5#3 1#7 2#3) padding ∧ poolCode padding ⟨.pad, .off, 1, false, true⟩ = 0
      ∧ padBusy padding (departSlots padding ⟨.pad, .off, 1, false, true⟩) = true) := by
  and_intros <;> first | decide +kernel | (unfold Issues; decide +kernel)

/-- The banks that a POOLSET of four takes. -/
theorem witness_GladeWords_banks :
    let m : Move := ⟨.off, .tile, 4, false, false⟩
    (pickBanks m (needed (stand [] all) m) (freePool (stand [] all))).isSome = true := by
  decide +kernel

/-- A layout record: one element of 4 bytes at 0x20000 into the pad. -/
def record1 : Nat := 0x20000 + 2 ^ 48 + 4 * 2 ^ 51 + 16 * 2 ^ 64

/-- Record addresses in a6, the pad side in a11, coordinates from a14; the record in memory at 0x10000 and in the pad at 0. -/
def copier : State :=
  let s := stand [(6, num 0x10000), (7, num 0), (11, num 256), (14, num 3)] all
  { s with mem := Memory.setBytes [] 0x10000 (bytesLE 64 record1), task := { s.task with pad := Memory.setBytes [] 0 (bytesLE 64 record1) } }

/-- The conditions on a record's bytes and on the state after it is read. -/
def copyReady (q : State × List Byte) : Bool :=
  !coordsVary copier 14 q.2 && layoutOk (BitVec.ofNat 512 (ofBytesLE q.2)) 14
    && (cellsMisaligned (layoutOf (BitVec.ofNat 512 (ofBytesLE q.2))) 256).isNone
    && (padSideOut q.1.task (layoutOf (BitVec.ofNat 512 (ofBytesLE q.2))) 256 none).isNone
    && decide ((channel q.1.core 1).queue.length < 16) && decide (q.1.me.path = copier.me.path)

theorem witness_CopyWords :
    (Issues (.cpy 70#7 75#7 78#7 1#2) copier ∧ Issues (.cpyi 71#7 75#7 78#7 1#2) copier ∧ (extraOf copier.me.path.lead).aux ≠ 1
      ∧ atLeader copier 70 0 = 0x10000 ∧ atLeader copier 71 0 = 0 ∧ atLeader copier 75 0 = 256
      ∧ leaderOf copier (extraOf copier.me.path.lead).pred = some 0)
    ∧ (∃ q, readOnce copier 0x10000 64 0 true = .ok q ∧ copyReady q = true)
    ∧ (padTrap copier.task 0 64 0 = none ∧ emptyIn copier.task 0 64 0 = [] ∧ copier.core.clearing = none
      ∧ copyReady (copier, copier.task.pad.getBytes 0 64) = true)
    ∧ (layoutOk 0 14 = false ∧ coordsVary copier 14 (copier.task.pad.getBytes 512 64) = false ∧ padTrap copier.task 512 64 0 = none
      ∧ BitVec.ofNat 512 (ofBytesLE (copier.task.pad.getBytes 512 64)) = 0 ∧ copier.task.badPad = [])
    ∧ (let s : State := { copier with core := { copier.core with chans := vset copier.core.chans 1 ⟨List.replicate 16 ⟨4, 7, 1, .layout 0 [] 0 none, false, 0, 0, 0, none, []⟩, 0, 0, false⟩ } }
       Issues (.cpyi 71#7 75#7 78#7 1#2) s ∧ 16 ≤ (channel s.core 1).queue.length)
    ∧ (let s := led copier (lead3 71 31 0 1)
       Issues (.cpyi 71#7 75#7 78#7 1#2) s ∧ (extraOf s.me.path.lead).aux = 1 ∧ atLeader s (extraOf s.me.path.lead).third 0 = 0
        ∧ leaderOf s (extraOf s.me.path.lead).pred = some 0
        ∧ padSideOut s.task (layoutOf (BitVec.ofNat 512 record1)) 256 (some 0) = none)
    ∧ (Issues (.cpy 78#7 75#7 78#7 1#2) copier ∧ atLeader copier 78 0 = 3)
    ∧ (Issues (.cpy 70#7 75#7 78#7 1#2) (led copier (lead3 0 31 1 0)) ∧ leaderOf (led copier (lead3 0 31 1 0)) 1 = none)
    ∧ (∀ n ∈ [0, 128, 32768], Issues (.pempty 64#7 65#7) (stand [(0, num 0), (1, num n)] all) ∧ valueB (stand [(0, num 0), (1, num n)] all) 65#7 = n
      ∧ n % 128 = 0 ∧ padIn task1 0 n = true) :=
  ⟨by unfold Issues; decide +kernel, resOk_spec (by decide +kernel), by decide +kernel, by decide +kernel, by unfold Issues; decide +kernel,
    by unfold Issues; decide +kernel, by unfold Issues; decide +kernel, by unfold Issues; decide +kernel, by unfold Issues; decide +kernel⟩

theorem witness_CopyWords_empty :
    (∀ c, (channel (stand [] all).core c).queue = []) ∧ (stand [] all).core.matq = []
    ∧ (∀ k, servedFirst (stand [] all) (stand [] all).task k = false) ∧ lanesOpen (stand [] all) (stand [] all).task = false := by
  refine ⟨fun c => ?_, rfl, fun k => rfl, rfl⟩
  by_cases h : c < 4 <;> simp [channel, vget, stand, core1, Core.reset, Vector.getD, h]

/-! ## Matrix words -/

/-- m0 bound to bank 3 with tag f32; pads at 0 and 1024, scales' columns in a10. -/
def matrixed : State :=
  let s := stand [(4, num (2 * 2 ^ 21)), (5, num 0), (6, num (1024 + 2 * 2 ^ 21)), (7, num 0), (8, num 64), (10, num 512), (24, num 0)] all
  { s with
    me := { s.me with regs := { s.me.regs with m := vset s.me.regs.m 0 ⟨some 3, .f32⟩ } }
    core := setBanks s.core [3, 4] .tile (some 1) }

theorem witness_MatrixWords :
    (∀ i ∈ [Instr.mma 0#3 68#7 70#7 0#4 0#2, .mma 0#3 32#7 40#7 0#4 3#2, .mma 0#3 68#7 70#7 9#4 3#2], Issues i matrixed)
    ∧ matrixed.core.matq.length < 16 ∧ pairTrap matrixed (stepPairs matrixed 68 70) lanes64 0 32 = none
    ∧ pairTrap matrixed (stepPairs matrixed 32 40) lanes64 3 32 = none
    ∧ (Issues (.mmas 0#3 68#7 70#7 8#4 1#2) (led matrixed (lead3 32 31 0 10)) ∧ (aReg (readRegs matrixed) (10 % 32)).base.toNat = 512
      ∧ padIn task1 (512 + 512 * 1) 512 = true)
    ∧ (∀ i ∈ [Instr.mzero 0#3 0#1, .mzero 1#3 1#1, .mload 0#3 68#7 0#1, .mload 1#3 68#7 0#1], Issues i matrixed)
    ∧ (mRegOf matrixed 0#3).bank = some 3 ∧ (mRegOf matrixed 1#3).bank = none ∧ (unboundTiles matrixed matrixed.task).head? = some 4
    ∧ pairTrap matrixed [padPair matrixed 68] (lanesOf matrixed.me.path.mask) 0 256 = none
    ∧ (∀ f ∈ [0#4, 1#4, 15#4], Issues (.mdrain 0#3 88#7 f) matrixed)
    ∧ Issues (.epload 1#3 72#7) matrixed ∧ padTrap task1 64 64 (electedLane matrixed) = none ∧ emptyIn task1 64 64 (electedLane matrixed) = []
    ∧ programOk ((List.range 16).map fun k => BitVec.ofNat 32 (ofBytesLE (task1.pad.getBytes (64 + 4 * k) 4))) = true
    ∧ programOk [0xFFFFFFFF#32] = false ∧ task1.badPad = [] ∧ task1.badTiles = [] := by
  and_intros <;> first | decide +kernel | (unfold Issues; decide +kernel)

/-- A queue with a zero, a load and a drain of an empty program on bank 3. -/
def opOf (work : MatWork) : MatOp := ⟨9, 7, 1, 3, .f32, all, work, none⟩

/-- No context under issue, the operation alone in the queue. -/
def executing (work : MatWork) : State := { matrixed with me := Context.idle, core := { matrixed.core with matq := [opOf work] } }

theorem witness_MatrixExecution :
    (∀ w ∈ [MatWork.zero, .load (.pad (num (2 * 2 ^ 21)).base 0)], (executing w).core.matq[0]? = some (opOf w) ∧ isDrain (opOf w) = false
      ∧ (executing w).core.clearing = none ∧ matEmpty (executing w).task (opOf w) = none ∧ (∀ k ∈ (executing w).core.matq.take 0, k.bank ≠ 3)
      ∧ (executing w).task.core = (executing w).core.id ∧ (executing w).task.phase = .running ∧ (executing w).tasks = []
      ∧ (opOf w).task = (executing w).task.tid ∧ matBad (executing w).task (opOf w) = none)
    ∧ (let s : State := { executing .zero with task := { (executing .zero).task with badPad := [3], badTiles := [3] } }
       let u := opOf (.load (.pad (num (2 * 2 ^ 21)).base 0))
       let o := opOf (.drain (Vector.replicate 16 0) (Vector.replicate 4 0) false false)
       isDrain u = false ∧ matEmpty s.task u = none ∧ (matBad s.task u).isSome = true
        ∧ isDrain o = true ∧ matEmpty s.task o = none ∧ (matBad s.task o).isSome = true)
    ∧ (let o := opOf (.drain (Vector.replicate 16 0) (Vector.replicate 4 0) false false)
       matBad (executing o.work).task o = none ∧
       (drainRows o (Vector.replicate 16 0) (Vector.replicate 4 0) false (lanesOf o.rows) ⟨executing o.work, ⟨[], [], 32, 0, 0⟩, none, none, 0, [], (executing o.work).task⟩).stall = none) := by
  and_intros <;> decide +kernel

/-- Lanes 1 and 2 of the stand, with bits in p1. -/
def predicated (m : Word64) : State :=
  let s := stand [] 6
  { s with me := { s.me with regs := { s.me.regs with p := vset (Vector.replicate 8 0) 1 m } } }

/-- The states of the statements before, where these words have nothing to wait for. -/
theorem witness_WordsComplete :
    (∀ i ∈ [Instr.icmp 9#7 1#7 2#7 0#3, .sel 3#7 1#7 2#7 1#3, .vscan 4#7 16#7 8#4, .vred 3#7 1#7 0#4], Issues i (stand [] 6))
    ∧ modeTen (readRegs (stand [] 6)).mode = 0 :=
  ⟨by unfold Issues; decide +kernel, by decide +kernel⟩

theorem witness_WordsComplete_branches :
    (∀ m ∈ [6, 8], ∀ n ∈ [0#1, 1#1], Issues (.brv n 1#3 9#16) (predicated (BitVec.ofNat 64 m))) ∧ isStand (predicated 6) = true
    ∧ 6#64 &&& pReg (predicated 6).me (readRegs (predicated 6)) 1 = 6 ∧ 6#64 &&& pReg (predicated 8).me (readRegs (predicated 8)) 1 = 0 :=
  ⟨by unfold Issues; decide +kernel, rfl, by decide +kernel, by decide +kernel⟩

theorem witness_WordsComplete_waits :
    (Issues .fence (stand [] all) ∧ Issues .cseal (stand [] all) ∧ Issues .mseal (stand [] all)) ∧ (stand [] all).flight = []
    ∧ (stand [] all).me.horizon + 4 ≤ myTime (stand [] all) ∧ (batch3 (stand [] all) true).flight = [] ∧ (stand [] all).dev.swaps = []
    ∧ Issues (.sems 65#7 66#7) (sem5 (stand [(1, num 3), (2, num 5)] all) 5) ∧ semCheck (sem5 (stand [(1, num 3), (2, num 5)] all) 5) 3 5 = none :=
  ⟨by unfold Issues; decide +kernel, rfl, by decide, rfl, rfl, by unfold Issues; decide +kernel, by decide +kernel⟩

theorem witness_WordsComplete_matrix :
    (mRegOf matrixed 0#3).bank.isSome = true ∧ matrixed.task.badTiles = []
    ∧ ∀ i ∈ [Instr.mma 0#3 68#7 70#7 0#4 0#2, .mzero 0#3 0#1, .mload 0#3 68#7 0#1, .mdrain 0#3 88#7 1#4, .epload 1#3 72#7], Issues i matrixed :=
  ⟨rfl, rfl, by unfold Issues; decide +kernel⟩

/-! ## Geometry words -/

/-- A stand of a task with views, all views of every lane set in the w registers, and 12 pad slots. -/
def viewed (l : List (Nat × AReg)) (mask : Word64) : State :=
  let s := stand l mask
  { s with
    me := { s.me with regs := { s.me.regs with
      v := Vector.ofFn fun n : Fin 64 => if n.val < 48 then vget someV n.val VReg.fresh else ⟨Vector.replicate 64 7#32, .view⟩ } }
    task := { s.task with views := true, padSlots := List.range 12, stack := 4 } }

/-- Every word; a header whose ends agree, one of one view whose ends disagree, one of several. -/
theorem witness_ViewWords :
    (∀ i ∈ [Instr.vsplit 2#3 1#3 1#3, .vmask 1#3 0#3 2#7, .vhalve 2#3 1#3 0#3, .vagree 1#3 0#3 2#5 16#5 17#5, .vends 40#7 2#3],
      Issues i (viewed [(2, num 9)] 5))
    ∧ headDis 0x0#64 = false ∧ (headDis 0x200000#64 = true ∧ headFirst 0x200000#64 = headLast 0x200000#64)
    ∧ (headDis 0x200100#64 = true ∧ headFirst 0x200100#64 ≠ headLast 0x200100#64)
    ∧ ((unpack (fmtOf 8) 0x7E00).isNan = true ∧ (unpack (fmtOf 8) 0x3C00).isNan = false
      ∧ unpack (fmtOf 8) 0x7C00 = .inf false ∧ cmpVals (unpack (fmtOf 8) 0x7C00) (unpack (fmtOf 8) 0x3C00) ≠ 0
      ∧ cmpVals (unpack (fmtOf 8) 0x0000) (unpack (fmtOf 8) 0x8000) = 0
      ∧ (∀ x ∈ [0x3C00, 0xBC00, 0x0001], (match unpack (fmtOf 8) x with | .fin _ _ _ => true | _ => false) = true)
      ∧ (match unpack (fmtOf 8) 0x3C00 with | .fin false _ _ => true | _ => false) = true) := by
  and_intros <;> first | decide +kernel | (unfold Issues; decide +kernel)

/-- Three vertices in a0 to a11, the window in a12, the serial in a13, a token in a3 of the second state. -/
def rastered (y2 window : Nat) : State :=
  stand ((List.range 12).map (fun k => (k, uniform (BitVec.ofNat 64 ([0, 0, 0, 0x3F800000, 0x41800000, 0, 0, 0x3F800000, 0, y2, 0, 0x3F800000].getD k 0)) .raw))
    ++ [(12, num window), (13, num 1)]) all

/-- The window of row 2, pixels 0 to 8, views 0 to 3. -/
def window1 : Nat := 8 * 2 ^ 13 + 2 * 2 ^ 21 + 3 * 2 ^ 40

/-- A window that R154 refuses; a primitive that sets up, one culled, one with a vertex that does not snap. -/
theorem witness_RasterWords_setup :
    (∀ q ∈ [(0x41800000, 2 ^ 51), (0x41800000, window1), (0xC1800000, window1), (0x7FC00000, window1)],
      Issues (.rset 67#7 64#7 76#7 0#2) (rastered q.1 q.2) ∧ (aCode (readRegs (rastered q.1 q.2)) 76#7).base.toNat = q.2)
    ∧ windowOk (2 ^ 51) 1 = false ∧ windowOk window1 1 = true
    ∧ snapVertex 0 0 0 0x3F800000 = some ⟨0, 0, 0, 0x3F800000⟩ ∧ snapVertex 0x41800000 0 0 0x3F800000 = some ⟨4096, 0, 0, 0x3F800000⟩
    ∧ snapVertex 0 0x41800000 0 0x3F800000 = some ⟨0, 4096, 0, 0x3F800000⟩ ∧ snapVertex 0 0xC1800000 0 0x3F800000 = some ⟨0, -4096, 0, 0x3F800000⟩
    ∧ snapVertex 0 0x7FC00000 0 0x3F800000 = none
    ∧ ((setupOf window1 1 (#v[⟨0, 0, 0, 0x3F800000⟩, ⟨4096, 0, 0, 0x3F800000⟩, ⟨0, 4096, 0, 0x3F800000⟩])).isSome
      != (setupOf window1 1 (#v[⟨0, 0, 0, 0x3F800000⟩, ⟨4096, 0, 0, 0x3F800000⟩, ⟨0, -4096, 0, 0x3F800000⟩])).isSome) = true := by
  unfold Issues; decide +kernel

/-- A valid slot 1 of 9 pixels; tokens of its first and its last pixel. -/
def slot1 : Setup := ⟨true, #v[⟨0, 0, 0, 0x3F800000⟩, ⟨4096, 0, 0, 0x3F800000⟩, ⟨0, 4096, 0, 0x3F800000⟩], true, 0, 8, 2, 0, 3, 0, 1⟩

/-- The stand with it, and a token in a3. -/
def tokened (f : AReg) : State :=
  let s := viewed [(3, f)] all
  { s with me := { s.me with regs := { s.me.regs with slots := vset s.me.regs.slots 1 slot1 } } }

/-- The same with a live token. -/
def slotted (i : Nat) : State := tokened (uniform (tokenWord 1 i) .int32)

/-- Tokens of the first and the last pixel, one past it, token 0, one with a bit that must be 0, a slot that is not valid, and a token
that is not uniform. -/
theorem witness_RasterWords_scan :
    (∀ i ∈ [0, 8, 9], Issues (.rast 20#7 67#7 0#3 1#3) (slotted i) ∧ (aCode (readRegs (slotted i)) 67#7).isUniform = true
      ∧ (aCode (readRegs (slotted i)) 67#7).base = tokenWord 1 i)
    ∧ (∀ i ∈ [0, 8], bitAt (tokenWord 1 i).toNat 63 = true ∧ bitsOf (tokenWord 1 i).toNat 11 52 = 0 ∧ (tokenWord 1 i).toNat % 512 = i
      ∧ bitsOf (tokenWord 1 i).toNat 9 2 = 1 ∧ i ≤ slot1.xw)
    ∧ slot1.xw < 9 ∧ slot1.valid = true ∧ bitAt 5 63 = false ∧ bitsOf 0x8000000000001000 11 52 ≠ 0 ∧ bitsOf (tokenWord 2 0).toNat 9 2 = 2 :=
  ⟨by unfold Issues; decide +kernel, by decide +kernel, by decide, rfl, by decide +kernel, by decide +kernel, by decide +kernel⟩

theorem witness_RasterWords_slots :
    vget (readRegs (slotted 0)).slots 1 Setup.empty = slot1 ∧ (vget (readRegs (slotted 0)).slots 2 Setup.empty).valid = false :=
  ⟨by decide +kernel, by decide +kernel⟩

theorem witness_RasterWords_tokens :
    (∀ x ∈ [0, 5, 0x8000000000001000, (tokenWord 2 0).toNat], Issues (.rast 20#7 67#7 0#3 1#3) (tokened (num x)))
    ∧ (let s := tokened ⟨0, 1, 0, 0, .int32⟩
       encodingOk (.rast 20#7 67#7 0#3 1#3) s.me.path.lead s.task.fsize s.task.views (readRegs s).xc = true
        ∧ materialises s (.rast 20#7 67#7 0#3 1#3) = false ∧ tagsOk (.rast 20#7 67#7 0#3 1#3) s.me.path.lead s.me (readRegs s) = true
        ∧ isA 67#7 = true ∧ (aCode (readRegs s) 67#7).isUniform = false)
    ∧ (tokened (num 0)).me.path.mask ≠ 0 :=
  ⟨by unfold Issues; decide +kernel, by decide +kernel, by decide⟩

/-- The words of the geometry pipe that complete: a window that R154 admits, token 0 and a live token, and the interval tools. -/
theorem witness_WordsComplete_geometry :
    (Issues (.rset 67#7 64#7 76#7 0#2) (rastered 0x41800000 window1)
      ∧ windowOk (aCode (readRegs (rastered 0x41800000 window1)) 76#7).base.toNat
          (aReg (readRegs (rastered 0x41800000 window1)) (76 - 64 + 1)).base.toNat = true)
    ∧ (Issues (.rast 20#7 67#7 0#3 1#3) (tokened (num 0)) ∧ (aCode (readRegs (tokened (num 0))) 67#7).base.toNat = 0)
    ∧ (let s := slotted 8
       let t := (aCode (readRegs s) 67#7).base.toNat
       Issues (.rast 20#7 67#7 0#3 1#3) s ∧ bitAt t 63 = true ∧ bitsOf t 11 52 = 0
        ∧ (vget (readRegs s).slots (bitsOf t 9 2) Setup.empty).valid = true
        ∧ t % 512 ≤ (vget (readRegs s).slots (bitsOf t 9 2) Setup.empty).xw)
    ∧ (∀ i ∈ [Instr.vsplit 2#3 1#3 1#3, .vmask 1#3 0#3 2#7, .vhalve 2#3 1#3 0#3, .vagree 1#3 0#3 2#5 16#5 17#5, .vends 40#7 2#3],
      Issues i (viewed [(2, num 9)] 5)) := by
  unfold Issues; decide +kernel

/-- A tile at pad 0 for pixels from (0, 0), registered with producers 1 and mark 0. -/
def tile1 : Registration := ⟨1, 0, 0, 1, [], []⟩

/-- Lanes of the stand in the tile named by a14, their intervals of a serial; a serial in a3; a framebuffer record's address in a4. -/
def tiledWith (m : Word64) (serial fin : Nat) (merge : List Registration) : State :=
  let s := viewed [(14, uniform 0 .raw), (3, num fin), (4, num 0x10000)] m
  { s with
    me := { s.me with regs := { s.me.regs with
      slots := vset s.me.regs.slots 0 { slot1 with serial := BitVec.ofNat 32 serial }
      w := vset s.me.regs.w 0 (Vector.replicate 64 (BitVec.ofNat 64 (serial * 2 ^ 32))) } }
    core := { s.core with merge := merge } }

/-- Lane 0 alone. -/
def tiled : State := tiledWith 1 0 1 [tile1]

/-- What the checks of VTEST and FBW ask of a state, its word's auxiliary field given. -/
def tileReady (s : State) (depth : Bool) (aux : Nat) : Bool :=
  let u := led s (lead3 78 31 0 aux)
  (lanesTrap u (thirdTile u) depth 2#7 0 (viewLanes u 0)).isNone && u.task.empty.isEmpty && u.core.clearing.isNone && u.core.matq.isEmpty
    && u.task.badPad.isEmpty && calm u u.task && u.me.path.gone == 0

/-- The writes of FBW .ord of a state. -/
def ordWrites (s : State) : List (Nat × Held) :=
  let u := led s (lead3 78 31 0 8)
  fbwWrites u 32#7 (0, 0#7) (0, 2#7) 0 (viewLanes u 0)

/-- One lane and two, cut after the first; every form. -/
theorem witness_TileWords :
    (∀ f ∈ [0#4, 2#4, 3#4, 5#4], Issues (.vtest 1#3 0#3 2#7 f) (led tiled (lead3 78 31 0 0)))
    ∧ tileReady tiled true 0 = true ∧ tiled.cut = none
    ∧ (let s : State := { tiledWith 3 0 1 [tile1] with cut := some 1 }
       Issues (.vtest 1#3 0#3 2#7 3#4) (led s (lead3 78 31 0 0)) ∧ tileReady s true 0 = true ∧ s.cut = some 1
        ∧ 1 < (viewLanes (led s (lead3 78 31 0 0)) 0).length)
    ∧ (∀ f ∈ [6#4, 9#4], Issues (.fbw 32#7 0#3 2#7 f) (led tiled (lead3 78 31 0 0))) ∧ tileReady tiled false 0 = true
    ∧ bitAt (extraOf (lead3 78 31 0 0)).aux 3 = false
    ∧ (Issues (.fbstore 1#2 78#7 68#7) tiled ∧ Issues (.fbload 1#2 78#7 68#7) (tiledWith 1 0 1 [])) := by
  and_intros <;> first | decide +kernel | (unfold Issues; decide +kernel)

/-- FBW .ord: no registration; a serial at the mark, one past it, two past it, 256 past it, and one more; a full unit. -/
theorem witness_TileWords_ordered :
    bitAt (extraOf (lead3 78 31 0 8)).aux 3 = true
    ∧ (Issues (.fbw 32#7 0#3 2#7 6#4) (led (tiledWith 1 1 1 []) (lead3 78 31 0 8)) ∧ tileReady (tiledWith 1 1 1 []) false 8 = true
      ∧ registered (tiledWith 1 1 1 []) 0 = none)
    ∧ (∀ n ∈ [0, 1, 2, 256, 257], Issues (.fbw 32#7 0#3 2#7 6#4) (led (tiledWith 1 n 1 [tile1]) (lead3 78 31 0 8))
      ∧ tileReady (tiledWith 1 n 1 [tile1]) false 8 = true ∧ (tiledWith 1 n 1 [tile1]).cut = none
      ∧ registered (tiledWith 1 n 1 [tile1]) 0 = some tile1 ∧ (ordWrites (tiledWith 1 n 1 [tile1])).map (fun e => (e.1, e.2.serial)) = [(0, n)]
      ∧ heldCount (tiledWith 1 n 1 [tile1]).core + (ordWrites (tiledWith 1 n 1 [tile1])).length ≤ 1024)
    ∧ (let g : Registration := { tile1 with held := List.replicate 1024 ⟨7, 0, 2, 0, 0, 1, 0, 0, none⟩ }
       Issues (.fbw 32#7 0#3 2#7 6#4) (led (tiledWith 1 2 1 [g]) (lead3 78 31 0 8)) ∧ tileReady (tiledWith 1 2 1 [g]) false 8 = true
        ∧ 1024 < heldCount (tiledWith 1 2 1 [g]).core + (ordWrites (tiledWith 1 2 1 [g])).length) := by
  and_intros <;> first | decide +kernel | (unfold Issues; decide +kernel)

/-- FBDONE: no registration; a serial at the mark, one with all its arrivals but one, with one to come before the last, the last serial
that fits and the first that does not, and one with an arrival too many. -/
theorem witness_TileWords_done :
    (∀ n ∈ [0, 1, 256, 257], Issues (.fbdone 78#7 67#7) (tiledWith 1 0 n [tile1]) ∧ (aCode (readRegs (tiledWith 1 0 n [tile1])) 67#7).base.toNat % 2 ^ 32 = n
      ∧ tileTrap (tiledWith 1 0 n [tile1]) 0 = none ∧ ownLanesOpen (tiledWith 1 0 n [tile1]) = false)
    ∧ registered tiled (tileBase 0) = some tile1 ∧ tile1.held = [] ∧ tile1.mark = 0 ∧ arrivalsOf tile1 1 < tile1.prod
    ∧ (Issues (.fbdone 78#7 67#7) (tiledWith 1 0 1 []) ∧ registered (tiledWith 1 0 1 []) 0 = none)
    ∧ arrivalsOf { tile1 with arrivals := [(1, 1)] } 1 = tile1.prod ∧ tile1.prod < arrivalsOf { tile1 with arrivals := [(1, 2)] } 1 := by
  and_intros <;> first | decide +kernel | (unfold Issues; decide +kernel)

theorem witness_TileWords_arrivals :
    (∀ n, arrivalsOf tile1 n ≤ tile1.prod) ∧ ∀ n, n ≠ 1 → arrivalsOf { tile1 with arrivals := [(1, 1)] } n ≤ tile1.prod :=
  ⟨fun _ => Nat.zero_le _, fun n h => by simp [arrivalsOf, lookupNat, Ne.symm h]⟩

set_option maxRecDepth 20000 in
theorem tileRecord_reads (m : List Registration) (h : m = [] ∨ m = [tile1]) {q : State × BitVec 512}
    (r : tileRecord (tiledWith 1 0 1 m) 0 (valueA (tiledWith 1 0 1 m) 68#7) = .ok q) :
    q.1.me.path = (tiledWith 1 0 1 m).me.path ∧ q.1.me.regs = (tiledWith 1 0 1 m).me.regs := by
  have k : (match tileRecord (tiledWith 1 0 1 m) 0 (valueA (tiledWith 1 0 1 m) 68#7) with
      | .ok q => (q.1.me.path, q.1.me.regs) | _ => (Path.start 0 0 0, Regs.reset))
      = ((tiledWith 1 0 1 m).me.path, (tiledWith 1 0 1 m).me.regs) := by
    obtain rfl | rfl := h <;> rfl
  rw [r] at k
  exact Prod.mk.inj k

/-- The state after the record is read, for FBLOAD without a registration and for FBSTORE with one. -/
theorem witness_TileWords_copies :
    (∃ q, tileRecord (tiledWith 1 0 1 []) 0 (valueA (tiledWith 1 0 1 []) 68#7) = .ok q
      ∧ ((registered q.1 (tileBase 0)).isNone && decide (q.1.core.merge.length < 4) && q.1.core.matq.isEmpty && q.1.core.clearing.isNone
        && decide (q.1.task.tid = 1)
        && decide (q.1.task.padSlots = List.range 12) && calm q.1 q.1.task && !lanesOpen q.1 q.1.task
        && q.1.core.chans.toList.all fun c => c.queue.isEmpty) = true)
    ∧ (∃ q, tileRecord tiled 0 (valueA tiled 68#7) = .ok q
      ∧ (decide (registered q.1 (tileBase 0) = some tile1) && decide ((channel q.1.core 1).queue.length < 16) && !writesOpen q.1) = true) :=
  ⟨resOk_spec (by decide +kernel), resOk_spec (by decide +kernel)⟩

/-! ## Traversal -/

/-- A descriptor in a12 and a13: BVH at 0x20000, stacks at pad 0; v10 holds counts, 1 in lane 0 and 0 in lane 1; one leaf on lane
0's stack. -/
def traversing : State :=
  let s := viewed [(12, num 0x20000), (13, num 0)] 3
  { s with
    me := { s.me with regs := { s.me.regs with v := vset s.me.regs.v 10 ⟨Vector.ofFn fun l => if l.val = 0 then 1#32 else 0#32, .int32⟩ } }
    task := { s.task with pad := Memory.setBytes [] 0 (bytesLE 8 (entryBits 77 0 true)) } }

/-- The query of a box in v16 to v21. -/
def query1 (l : Nat) : Query :=
  ⟨false, (List.range 6).map fun j => (srcWord traversing.me (readRegs traversing) (srcOf (readRegs traversing) traversing.me.path.lead 0 16) j l).toNat⟩

theorem witness_TraversalWords :
    (Issues (.travset 10#7 6#4) traversing ∧ travTrap traversing (travDesc traversing 6#4) 4 = none
      ∧ (∀ l ∈ lanesOf traversing.me.path.mask, stackTrap traversing (travDesc traversing 6#4) 4 l = none)
      ∧ traversing.core.clearing = none ∧ traversing.core.matq = [] ∧ traversing.task.pad.wf = true
      ∧ traversing.task.badPad = [] ∧ calm traversing traversing.task = true)
    ∧ (Issues (.travBox 10#7 16#7 6#4 1#3) traversing ∧ Issues (.travRay 10#7 16#7 6#4 1#3) traversing)
    ∧ (∀ l ∈ lanesOf traversing.me.path.mask, (vLane (readRegs traversing) 10 l).toInt = Int.ofNat (if l = 0 then 1 else 0)
      ∧ (if l = 0 then 1 else 0) ≤ 4)
    ∧ traversing.me.callout = false ∧ traversing.me.loadAfter ≤ myTime traversing
    ∧ ((query1 0).vals.any isNan32 = false ∧ emptyIn traversing.task (stackAt (travDesc traversing 6#4) 4 0 0) 8 0 = []
      ∧ bitAt (ofBytesLE (traversing.task.pad.getBytes (stackAt (travDesc traversing 6#4) 4 0 0) 8)) 63 = true
      ∧ beyond (bitsOf (entryBits 77 0 true) 32 31) 0x3F800000 = false) := by
  unfold Issues; decide +kernel

/-- The walks of the same lanes, and what they leave. -/
theorem witness_TraversalWords_walks :
    ∃ q, walkLanes (travDesc traversing 6#4) 4 ((readRegs traversing).budget.toNat % 2 ^ 16) query1 (fun l => if l = 0 then 1 else 0)
        (lanesOf traversing.me.path.mask) traversing = .ok q
      ∧ ((q.2.all fun w => w.2.trap.isNone) && decide (q.1.me.path = traversing.me.path)) = true :=
  resOk_spec (by decide +kernel)

/-! ## Contexts that wait -/

/-- A parked tract of a box, with its task's REG file free. -/
def parked (n : Nat) : State :=
  let s := withFile (tract [])
  { s with me := { s.me with kind := .parked, box := ⟨0, n, 0, 1, 0, 1⟩ } }

/-- A blocked stand that holds the one file, and a parked tract of its task; partition 0's save pool is 4 MiB at 16 MiB. -/
def blocked : State :=
  let s := withFile (barrierAt (stand [] all) 0 64 0 1)
  { s with
    me := { s.me with file := some (32, 0), path := { s.me.path with wait := .stall (.barrier 16 0) 900 } }
    ctxs := [{ Context.idle with id := 8, task := 1, kind := .parked, box := ⟨64, 128, 0, 1, 0, 1⟩, cursor := (0, 0, 64), slotNo := 1 }]
    dev := { s.dev with pools := vset s.dev.pools 0 (BitVec.ofNat 64 (1 + 2 ^ 24 + 2 ^ 52)) } }

/-- The stand of the same task in a save area, its file free. -/
def spilled : State :=
  let s := withFile (stand [] all)
  { s with dev := { s.dev with spilled := [{ Context.idle with id := 9, task := 1, kind := .stand, area := some 0x1000000 }] } }

/-- The stand whose word waits since a time. -/
def stalled (w : Stall) (since : Nat) : State :=
  let s := stand [] all
  { s with me := { s.me with path := { s.me.path with wait := .stall w since } }, task := { s.task with empty := [0] } }

/-- The same with every slot of the core taken. -/
def crowded : State :=
  { parked 64 with ctxs := (List.range 47).map fun k => { Context.idle with id := 20 + k, task := 1, kind := .tract, slotNo := k + 1 } }

/-- One window and two; the next slot; no slot. -/
theorem witness_WaitsEnd_parked :
    (∀ n ∈ [64, 128], (parked n).me.kind = .parked ∧ (parked n).task.phase = .running ∧ (parked n).task.tid = (parked n).me.task
      ∧ (∀ c ∈ (parked n).ctxs, c.kind ≠ .parked) ∧ (parked n).dev.spilled = [] ∧ freeFiles (parked n) (parked n).task = (32, 0) :: [])
    ∧ nextCursor (parked 64).me.box [] (0, 0, 0) = none ∧ nextCursor (parked 128).me.box [] (0, 0, 0) = some (0, 0, 64)
    ∧ (freeSlots (parked 128) 0).head? = some 1 ∧ freeSlots crowded crowded.task.core = [] ∧ freeFiles crowded crowded.task = (32, 0) :: [] := by
  decide +kernel

/-- The context that an operation names is there, and is as said. -/
def ctxIs (s : State) (id : Nat) (p : Context → Bool) : Bool := (getCtx s id).any fun c => c.id == id && p c

/-- A pending piece; a piece at its RJOIN at the last moment of its wait and before it. -/
theorem witness_WaitsEnd_pieces :
    ctxIs { stand [] all with ctxs := [{ Context.idle with id := 8, task := 1, kind := .pending, holder := 7 }] } 8
      (fun c => c.kind == .pending && lowestPending { stand [] all with ctxs := [{ Context.idle with id := 8, task := 1, kind := .pending, holder := 7 }] } c
        && !(freeSlots (stand [] all) 0).isEmpty) = true
    ∧ (∀ since ∈ [1000 - clocksNs (stand [] all) 0 256, 1001 - clocksNs (stand [] all) 0 256],
      ctxIs { tract [] with me := { (tract []).me with path := { (tract []).me.path with wait := .rejoin since } } } 7
        (fun c => decide (c.path.wait = .rejoin since)) = true)
    ∧ 1000 - clocksNs (stand [] all) 0 256 + clocksNs (stand [] all) 0 256 ≤ coreClock (stand [] all) 0
    ∧ coreClock (stand [] all) 0 < 1001 - clocksNs (stand [] all) 0 256 + clocksNs (stand [] all) 0 256
    ∧ ctxIs (stand [] all) 7 (fun c => c.kind == .stand) = true := by
  decide +kernel

theorem witness_WaitsEnd_spill :
    ((oldestParked blocked 0 (fun c => !servable blocked c)).any fun p => p.task == 1) = true ∧ filesBlocked blocked 0 = true
    ∧ (youngestBlocked blocked 1).isSome = true ∧ ((getTask blocked 1).any fun t => t.part == 0) = true
    ∧ findArea blocked 0 65536 = some 0x1000000
    ∧ ((returnable spilled 0).any fun c => (getTask spilled c.task).any fun t =>
        decide ((freeFiles spilled t).head? = some (32, 0)) && !(freeSlots spilled 0).isEmpty && c.area == some 0x1000000) = true := by
  refine ⟨by decide +kernel, by decide +kernel, by decide +kernel, by decide +kernel, ?_, by decide +kernel⟩
  exact findArea_empty (size := 0x400000) (by decide +kernel) rfl (by decide)

/-- A save or a spill whose area a die in reset holds up. -/
theorem witness_WaitsEnd_area :
    areaWait blocked 0x1000000 65536 true = none
    ∧ (areaWait { blocked with dev := { blocked.dev with dieDown := Vector.replicate 4 (some 7) } } 0x1000000 65536 true).isSome = true := by
  decide +kernel

theorem witness_WaitsEnd_limits :
    (∀ w ∈ [Stall.emptyLine [(0, 0, 3)], .credits], (stalled w 743).me.kind ≠ .idle ∧ (stalled w 743).me.path.wait = .stall w 743
      ∧ waitLimitOf (stalled w 743) 1 = some 256 ∧ 743 + 256 < myTime (stalled w 743) ∧ (stalled w 743).me.path.run = some (4, [0])
      ∧ (stalled w 743).me.path.pend = none ∧ (stalled w 743).me.path.pendSlots = [] ∧ (stalled w 743).me.path.reseed = false ∧ (stalled w 743).dev.spilled = [] ∧ (stalled w 743).me.frame = none
      ∧ effective (stalled w 743) (stalled w 743).task.region 5 = some region1 ∧ region1.hcode ≠ 0)
    ∧ remoteOf (stalled .credits 743) 7 0 = none
    ∧ (([(0, 0, 3)] : List (Nat × Nat × Nat)).find? fun x => (stalled .credits 743).task.empty.contains x.1) = some (0, 0, 3)
    ∧ ((stalled (.semaphore 64 3) 744).me.path.wait = .stall (.semaphore 64 3) 744 ∧ waitLimitOf (stalled (.semaphore 64 3) 744) 1 = some 256
      ∧ 744 + 256 ≤ myTime (stalled (.semaphore 64 3) 744))
    ∧ (∀ h ∈ [(1000, [8]), (1001, []), (1001, [8])], ({ (stand [] all).me.path with held := some h }).held = some h) ∧ 1000 ≤ myTime (stand [] all)
    ∧ myTime (stand [] all) < 1001
    ∧ ((stalled .fence 900).me.path.wait = .stall .fence 900 ∧ fenceReady (stalled .fence 900) = true)
    ∧ ((stalled .load 900).me.path.wait = .stall .load 900 ∧ (stalled .load 900).me.loadAfter ≤ myTime (stalled .load 900)) := by
  decide +kernel

/-! ## Regions, queues, launches, the module -/

/-- The words of a translation table: root at 0x300000, the page of the first GiB at 0x301000. -/
def tables : Memory := Memory.setBytes (Memory.setBytes [] 0x300000 (bytesLE 8 0x301001)) 0x301000 (bytesLE 8 0xDF)

/-- A queue of 16 records, its ring at 0xA000, its descriptor at 0x7000. -/
def queue1 : Queue := ⟨3, 0xA000, 0, 1, 0, 0, true, false, false, 4, 0, 0x7000, none, []⟩

/-- The stand with partition 0's tables, two regions and one queue; region 2's block at 0x6000, the queue's descriptor at 0x7000. -/
def rooted : State :=
  let s := stand [(5, num 3), (6, num 0xB000), (7, num 4), (8, num 16384), (9, num 16383)] all
  { s with
    mem := Memory.setBytes (Memory.setBytes tables 0x6000 (bytesLE 256 (4 * 2 ^ 80))) 0x7000 (bytesLE 64 (0xA000 + 2 ^ 52 + 2 ^ 128))
    dev := { s.dev with
      regions := [{ region1 with state := 0 }, { region1 with num := 2, addr := 0x5800 }]
      queues := [queue1]
      roots := vset s.dev.roots 0 0x300001 } }

/-- The state with its queue at a tail. -/
def tailed (n : Nat) (en : Bool) : State :=
  { rooted with dev := { rooted.dev with queues := [{ queue1 with tail := BitVec.ofNat 32 n, en := en }] } }

/-- A queue of a state passes a test. -/
def queueIs (s : State) (n : Nat) (p : Queue → Bool) : Bool := (getQueue s n).any p

/-- The same with other regions, and another block at 0x6000. -/
def blocked4 (l : List Region) (block : Nat) : State :=
  { rooted with
    mem := Memory.setBytes rooted.mem 0x6000 (bytesLE 256 block)
    dev := { rooted.dev with regions := l } }

/-- What REGLOAD reads at 0x6000 passes a test, with the region it makes. -/
def loads (s : State) (p : State → Region → Bool) : Bool :=
  excOk (deviceRead s 0 0x6000 256) fun x => bitsOf (ofBytesLE x.2) 0 48 == 0 && p x.1 (parseRegion 0x6000 (ofBytesLE x.2) none)

/-- A new region, one of a level that a root does not have, one that is there, and one in a full tree. -/
theorem witness_QueueCommands_regload :
    (0x6000#64).toNat % 256 = 0 ∧ isReady rooted = true
    ∧ loads rooted (fun t r => regionOk t r && (getRegion t r.num).isNone && decide (t.dev.regions.length < 4096)) = true
    ∧ loads (blocked4 [] (4 * 2 ^ 80 + 2 ^ 58)) (fun t r => !regionOk t r) = true
    ∧ loads (blocked4 [{ region1 with num := 4 }] (4 * 2 ^ 80)) (fun t r => regionOk t r && (getRegion t r.num).isSome) = true := by
  decide +kernel

theorem witness_QueueCommands_full :
    loads (blocked4 (List.replicate 4096 region1) (4 * 2 ^ 80))
      (fun t r => regionOk t r && (getRegion t r.num).isNone && decide (4096 ≤ t.dev.regions.length)) = true := by
  decide +kernel

theorem witness_QueueCommands_commands :
    isReady rooted = true ∧ (5#64).toNat ≤ 4095 ∧ (4095#64).toNat ≤ 4095 ∧ 4095 < (4096#64).toNat ∧ (1#56) ≠ 0
    ∧ (getRegion rooted 2).isSome = true ∧ regionBusy rooted 2 = false ∧ getRegion rooted 5 = none
    ∧ (getRegion rooted 1).isSome = true ∧ regionBusy rooted 1 = true := by
  decide +kernel

/-- A queue with room, the last place of its ring; closed, full, a write of another size or place, a module not yet ready. -/
theorem witness_QueueCommands_queues :
    (∀ n ∈ [3, 16383], n ≤ 16383 ∧ (0x7000#64).toNat % 64 = 0
      ∧ (excOk (deviceRead rooted 0 0x7000 64) fun x =>
          let q := parseQueue n 0x7000 (ofBytesLE x.2) (getQueue x.1 n)
          decide (q.shdie < 5) && q.ring % 4096 == 0 && bitsOf (ofBytesLE x.2) 134 26 == 0 && bitsOf (ofBytesLE x.2) 192 320 == 0
            && (getRegion x.1 q.region).isSome && decide ((q.tail - q.head).toNat ≤ q.room)) = true)
    ∧ queueIs rooted 3 (fun q => (getRegion rooted q.region).isSome) = true ∧ getQueue rooted 4 = none
    ∧ (∀ n ∈ [0, 15], queueIs (tailed n true) 3 (fun k => k.en && k.hasRoom && (k.tail + 1).toNat % 256 != 0
        && (excOk (deviceXlat (tailed n true) 0 (k.ring + 64 * (k.tail.toNat % k.room)) .deviceWrite) fun x =>
          paKind x.2.pa != some .mmio && !inCapPage x.1 x.2.pa && !sealed x.1 0 (placeOf x.1 x.2.pa) && x.1.mem.wf)) = true)
    ∧ rooted.dev.posted = []
    ∧ isReady (tailed 0 true) = true
    ∧ queueIs (tailed 0 false) 3 (fun k => !k.en) = true ∧ queueIs (tailed 16 true) 3 (fun k => !k.hasRoom) = true
    ∧ (List.replicate 64 (0 : Byte)).length = 64 ∧ (List.replicate 8 (0 : Byte)).length ≠ 64 ∧ (8 : Nat) ≠ 0
    ∧ isReady { rooted with dev := { rooted.dev with bringState := 0 } } = false := by
  decide +kernel

/-- The record that LAUNCH reads leaves registers and path as they were. -/
theorem launch_reads (n : Nat) (h : n = 0 ∨ n = 16) {q : State × List Byte}
    (r : readOnce (tailed n true) 0xB000 64 (electedLane (tailed n true)) true = .ok q) :
    q.1.me.path = (tailed n true).me.path ∧ q.1.me.regs = (tailed n true).me.regs := by
  have k : (match readOnce (tailed n true) 0xB000 64 (electedLane (tailed n true)) true with
      | .ok q => (q.1.me.path, q.1.me.regs) | _ => (Path.start 0 0 0, Regs.reset)) = ((tailed n true).me.path, (tailed n true).me.regs) := by
    obtain rfl | rfl := h <;> rfl
  rw [r] at k
  exact Prod.mk.inj k

/-- The queue is another region's, and closed to the task; or its queue does not take records. -/
def foreign (en : Bool) : State :=
  { rooted with dev := { rooted.dev with queues := [{ queue1 with region := 2, en := en }] } }

/-- A queue with room, a full one, one of another region, one that is closed, a number without a queue, the last number and the one past
it; a write on its way. -/
theorem witness_QueueCommands_launch :
    (∀ n ∈ [0, 16], ∀ x ∈ [69#7, 71#7, 72#7, 73#7], Issues (.launch 64#7 x 70#7) (tailed n true) ∧ valueA (tailed n true) 70#7 % 64 = 0)
    ∧ 16383 < valueA (tailed 0 true) 72#7 ∧ (∀ x ∈ [69#7, 71#7, 73#7], valueA (tailed 0 true) x ≤ 16383) ∧ valueA (tailed 0 true) 70#7 = 0xB000
    ∧ fenceReady (tailed 0 true) = true ∧ fenceReady (tailed 16 true) = true
    ∧ (∃ q, readOnce (tailed 0 true) 0xB000 64 (electedLane (tailed 0 true)) true = .ok q
      ∧ (queueIs q.1 3 (fun k => k.en && mayEnqueue q.1 q.1.task k && k.hasRoom) && isReady q.1 && (getQueue q.1 4).isNone) = true)
    ∧ (∃ q, readOnce (tailed 16 true) 0xB000 64 (electedLane (tailed 16 true)) true = .ok q
      ∧ (queueIs q.1 3 (fun k => k.en && mayEnqueue q.1 q.1.task k && !k.hasRoom) && isReady q.1) = true)
    ∧ (∃ q, readOnce (foreign true) 0xB000 64 (electedLane (foreign true)) true = .ok q
      ∧ (queueIs q.1 3 (fun k => k.en && !mayEnqueue q.1 q.1.task k) && isReady q.1) = true)
    ∧ (∃ q, readOnce (foreign false) 0xB000 64 (electedLane (foreign false)) true = .ok q ∧ queueIs q.1 3 (fun k => !k.en) = true)
    ∧ fenceReady { tailed 0 true with flight := [request (.store [9])] } = false
    ∧ Issues (.launch 64#7 69#7 69#7) (tailed 0 true) ∧ valueA (tailed 0 true) 69#7 % 64 ≠ 0 := by
  refine ⟨by unfold Issues; decide +kernel, by decide +kernel, by decide +kernel, by decide +kernel, by decide +kernel, by decide +kernel,
    resOk_spec (by decide +kernel), resOk_spec (by decide +kernel), resOk_spec (by decide +kernel), resOk_spec (by decide +kernel),
    by decide +kernel, by unfold Issues; decide +kernel, by decide +kernel⟩

/-- A launch record: 128 items at code 0x8000, its completion ring at 0xC000 with one slot, tag 5; a plan of REG 1 and CACHE 2. -/
def launchRec (plan resv : Nat) : Nat := 0x8000 + 127 * 2 ^ 64 + resv * 2 ^ 175 + plan * 2 ^ 256 + 0xC000 * 2 ^ 448 + 5 * 2 ^ 496

/-- A plan that holds. -/
def plan1 : Nat := 1 + 2 * 2 ^ 14

/-- A record in the queue's ring; the core mapped out or not. -/
def launching (rec : Nat) (out : Bool) : State :=
  let s := tailed 1 true
  { s with
    me := Context.idle, task := Task.none, mem := Memory.setBytes s.mem 0xA000 (bytesLE 64 rec), core := { s.core with out := out }
    dev := { s.dev with queues := [{ queue1 with tail := 1, stamps := [5] }] } }

/-- What launchDequeue asks of a state. -/
def dequeues (s : State) (p : State → BitVec 512 → Bool) : Bool :=
  isReady s && (nextQueue s).any fun q => decide (getQueue s q.num = some q) && (getRegion s q.region).any fun r =>
    excOk (deviceRead s 0 (q.ring + 64 * (q.head.toNat % q.room)) 64) fun x => p x.1 (BitVec.ofNat 512 (ofBytesLE x.2)) && r.num == 1

/-- The record's checks of R363 on a state. -/
def recChecks (s : State) (rec : BitVec 512) : Bool × Bool × Bool :=
  (planOk (recBits rec 256 64), recordOk s 1 rec (pieceWidth s 1 rec), (placementSet s 1).any fun c => couldHold s 0 (recBits rec 256 64) c)

theorem witness_LaunchLife_dequeue :
    dequeues (launching (launchRec 0 0) false) (fun t r => !(recChecks t r).1) = true
    ∧ dequeues (launching (launchRec plan1 1) false) (fun t r => decide (recChecks t r = (true, false, true))) = true
    ∧ dequeues (launching (launchRec plan1 0) true) (fun t r => decide (recChecks t r = (true, true, false))) = true
    ∧ dequeues (launching (launchRec plan1 0) false) (fun t r => decide (recChecks t r = (true, true, true))) = true := by
  decide +kernel

/-- A launch of the good record, with waits. -/
def launch1 (w : List (Nat × Nat)) : Launch :=
  { makeLaunch (launching (launchRec plan1 0) false) queue1 { region1 with state := 0 } (BitVec.ofNat 512 (launchRec plan1 0)) with waits := w }

/-- The launch alone, with a semaphore. -/
def launched (w : List (Nat × Nat)) (m : Sem) : State :=
  let s := launching (launchRec plan1 0) false
  { s with dev := { s.dev with launches := [launch1 w], sems := [m], queues := [queue1] } }

/-- The machine after its pieces are dealt. -/
def dealt : State := dealAll (stash (launched [] ⟨3, 0, 0, []⟩))

/-- A semaphore with just enough, with nothing, and with the launch at its head. -/
theorem witness_LaunchLife_waits :
    (∀ m ∈ [Sem.mk 3 2 9 [], ⟨3, 2, 9, [(0, 0)]⟩, ⟨3, 1, 9, []⟩], (getLaunch (launched [(3, 2)] m) 0).any (fun g => g.waits == [(3, 2)]) = true
      ∧ ((semOf (launched [(3, 2)] m) 3).waiters = [] ∨ (semOf (launched [(3, 2)] m) 3).waiters.head? = some (0, 0)))
    ∧ (semOf (launched [(3, 2)] ⟨3, 2, 9, []⟩) 3).value = 2 ∧ (semOf (launched [(3, 2)] ⟨3, 1, 9, []⟩) 3).value = 1 := by
  decide +kernel

/-- A piece dealt, and one taken back from another die; a full shadow is passed over. A piece that a core holds. -/
theorem witness_LaunchLife_pieces :
    ((launch1 []).dealOne 5 [0]).isSome = true ∧ (launch1 []).back = []
    ∧ ({ launch1 [] with back := [7] }.dealOne 5 [0, 3]).isSome = true
    ∧ ({ launch1 [] with shadow := vset (launch1 []).shadow 0 (List.replicate 16 (9, 0)) }.dealOne 5 [0, 3]).any (fun h : Launch => h.turn == 3) = true
    ∧ dealt.dev.waiting = [] ∧ dealt.dev.saved = []
    ∧ ((waitingPieces dealt 0).head?.any fun x => x.2.1 == 0 && decide (getLaunch dealt x.1.serial = some x.1)
        && chooseCore dealt x.1.region x.1.part (pieceTask x.1 x.2.1 0).plan.toNat (pieceTask x.1 x.2.1 0).tid 0 == some 0) = true := by
  decide +kernel

/-- A launch with more pieces than a shadow holds, before another of its priority. -/
theorem witness_LaunchLife_order :
    let s := launched [] ⟨3, 0, 0, []⟩
    let u : State := { s with dev := { s.dev with launches := [{ launch1 [] with total := 20 }, { launch1 [] with serial := 1 }] } }
    (dealAll u).dev.launches[0]?.any (fun h => dealsOn u h) = true ∧ u.dev.launches[1]?.isSome = true := by
  decide +kernel

/-- A task whose commit is pending, with one version byte, its commit time given or not. -/
def committing (at_ : Option Nat) : State :=
  let s := stand [] all
  { s with me := Context.idle, task := { task1 with phase := .committing, vmode := true, vlines := [(0x40000, 5)], commitAt := at_ } }

/-- A commit time still to come, and one gone by at the home. -/
theorem witness_LaunchLife_commit :
    (committing none).task.phase = .committing
    ∧ (∀ l ∈ versionLines (committing none).task.vlines, hostHolds (committing none) (128 * l) = false
      ∧ dieShut (committing none) (128 * l) (versionHome (committing none) (128 * l)) = false)
    ∧ (∀ w ∈ [999, 1001], (committing (some w)).dev.swaps = [] ∧ (committing (some w)).mem.wf = true ∧ cellsRise (committing (some w)).task.vlines = true
      ∧ (∀ c ∈ (committing (some w)).task.vlines, inDevice c.1 = true ∧ sealed (committing (some w)) (committing (some w)).task.part c.1 = false
        ∧ homeClock (committing (some w)) (versionHome (committing (some w)) c.1) = 1000
        ∧ dieShut (committing (some w)) c.1 (versionHome (committing (some w)) c.1) = false)) := by
  decide +kernel

theorem witness_LaunchLife_page (w : Option Nat) (x : Nat) : inCapPage (committing w) x = false := rfl

theorem witness_LaunchLife_task (w : Option Nat) : getTask (committing w) (committing w).task.tid = some (committing w).task := rfl

/-- A launch that ended with status 2, and one whose task has ended and that signals a semaphore. -/
def ended (status placed done : Nat) : State :=
  let s := launched [] ⟨3, 0, 0, []⟩
  let g := { launch1 [] with
    status := status, placed := placed, total := placed
    record := BitVec.ofNat 512 (launchRec plan1 0 + done * (2 ^ 422 + 3 * 2 ^ 410)) }
  { s with dev := { s.dev with launches := [g] } }

/-- A ring of one slot with it free, and with its record not yet taken. -/
theorem witness_LaunchLife_completion :
    (∀ x ∈ [(2, 0, 0), (0, 1, 1), (4, 1, 1)], (getLaunch (ended x.1 x.2.1 x.2.2) 0).any (fun g => launchEnded (ended x.1 x.2.1 x.2.2) g
      && decide (((ringCounts (ended x.1 x.2.1 x.2.2) g).2.1 - (ringCounts (ended x.1 x.2.1 x.2.2) g).2.2).toNat < 2 ^ recBits g.record 423 5)
      && recBits g.record 422 1 == x.2.2) = true)
    ∧ (let s : State := { ended 2 0 0 with mem := Memory.setBytes (ended 2 0 0).mem 0xC000 [1] }
       (getLaunch s 0).any (fun g => launchEnded s g && decide (2 ^ recBits g.record 423 5 ≤ ((ringCounts s g).2.1 - (ringCounts s g).2.2).toNat)) = true) := by
  decide +kernel

/-- A command and a dequeue behind a write that the device has still to make. -/
theorem witness_QueueCommands_waits :
    (let s : State := { rooted with dev := { rooted.dev with posted := [(0, 0x9000, [1])] } }
     isReady s = true ∧ (match deviceRead s 0 0x6000 256 with | .error e => e.code == 0 | .ok _ => false) = true)
    ∧ (let u := launching (launchRec plan1 0) false
       let s : State := { u with dev := { u.dev with posted := [(0, 0x9000, [1])] } }
       isReady s = true ∧ (nextQueue s).any (fun q => (getRegion s q.region).isSome
        && match deviceRead s 0 (q.ring + 64 * (q.head.toNat % q.room)) 64 with | .error e => e.code == 0 | .ok _ => false) = true)
    ∧ ∀ x ∈ [(2, 0, 0), (0, 1, 1), (4, 1, 1)], (getLaunch (ended x.1 x.2.1 x.2.2) 0).any (fun g =>
      (deviceStall (ended x.1 x.2.1 x.2.2) g.part (recBits g.record 448 48) 16).isNone) = true := by
  decide +kernel

/-! ## Tasks that leave -/

/-- The stand's task at `now`, its core mapped out, before a starved launch of priority 9; its save pool is 4 MiB at 16 MiB. -/
def wanted (now : Nat) (t : Task → Task) : State :=
  let s := withFile (stand [] all)
  { s with
    time := now
    task := t { s.task with placedAt := now }
    core := { s.core with out := true }
    dev := { s.dev with
      pools := vset s.dev.pools 0 (BitVec.ofNat 64 (1 + 2 ^ 24 + 2 ^ 52))
      launches := [{ launch1 [] with serial := 5, prio := 9, dealt := 1, shadow := vset (launch1 []).shadow 0 [(0, now - 2000)] }] } }

/-- The task is the victim, and nothing has been asked of it. -/
def victimIs (s : State) : Bool := (nextVictim s).any (fun v => v.tid == 1) && s.task.preqAt.isNone

/-- A window of the task. -/
def opened (t : Task) : Task := { t with windows := vset t.windows 0 ⟨0, 128, true, false⟩ }

theorem witness_TasksLeave_request :
    (victimIs (handled (wanted 2000 id)) = true ∧ inHandler (handled (wanted 2000 id)) 1 = true)
    ∧ (victimIs (wanted 2000 opened) = true ∧ inHandler (wanted 2000 opened) 1 = false ∧ coupled (wanted 2000 opened) (wanted 2000 opened).task = true)
    ∧ (let s := wanted 2000 fun t => { t with idem := true, asked := true }
       victimIs (wanted 2000 fun t => { t with idem := true }) = true ∧ coupled s s.task = false ∧ s.task.retired = 0 ∧ s.task.exposed = false
         ∧ s.task.idem = true ∧ elapsed s s.task ≤ saveCost s s.task)
    ∧ (victimIs (wanted 2000 fun t => { t with exposed := true }) = true
      ∧ coupled (wanted 2000 fun t => { t with exposed := true }) (wanted 2000 fun t => { t with exposed := true }).task = false) := by
  decide +kernel

/-- The task being saved. -/
def saving : State :=
  let s := wanted 2000 fun t => { t with phase := .saving, saveAt := some 0x1000000 }
  { s with me := { s.me with path := { s.me.path with run := none, slot := 0 } } }

/-- A choice that is due; a task with room for its save, and one without a pool. -/
theorem witness_TasksLeave_exposed :
    (let s := wanted 2000 fun t => { t with exposed := true }
     getTask s 1 = some s.task ∧ s.task.retired = 0 ∧ s.task.exposed = true)
    ∧ (wanted 2000 fun t => { t with choice := true }).task.choice = true
    ∧ (let s := wanted 2000 fun t => { t with exposed := true, asked := true }
       saveRoom s s.task = some 0x1000000 ∧ saveRoom { s with dev := Device.reset } s.task = none) :=
  ⟨⟨rfl, rfl, rfl⟩, rfl, findArea_empty (size := 0x400000) (by decide +kernel) rfl (by decide +kernel), by decide +kernel⟩

/-- The last moment of a deferral, and one before it; a save with nothing left to wait for, and one that must. -/
theorem witness_TasksLeave_save :
    (∀ n ∈ [20000, 19999], (let s := handled (wanted n fun t => { t with preqAt := some 0 })
     s.me.kind ≠ .idle ∧ s.me.task = s.task.tid ∧ s.task.phase ≠ .done ∧ s.task.phase ≠ .waiting ∧ s.me.frame.isSome = true ∧ s.task.preqAt = some 0
       ∧ coreClock s s.task.core = n))
    ∧ (let s := saving
       saveReady s s.task = true ∧ everyCtxOf s s.task.tid ≠ [] ∧ saveError s.task (everyCtxOf s s.task.tid) = none
        ∧ areaWait s 0x1000000 (areaLength s s.task (savedContexts s s.task.tid) s.task.cancelled.length) true = none
        ∧ (∀ c ∈ liveCtxs s, ∀ d ∈ liveCtxs s ++ s.dev.spilled, c.id = d.id → c.task = d.task) ∧ s.task.saveAt = some 0x1000000)
    ∧ saveReady { saving with flight := [request (.store [9])] } saving.task = false := by
  decide +kernel

/-- A saved task of region 1 and core 0 free for it; the start of its area holds its CHECK or does not. -/
def restoring (bytes : Nat) (x : Nat) : State :=
  let s := launched [] ⟨3, 0, 0, []⟩
  let t := { task1 with plan := BitVec.ofNat 64 plan1, serial := 9, padSlots := [] }
  { s with
    mem := Memory.setBytes s.mem 0x1000020 [BitVec.ofNat 8 x]
    dev := { s.dev with launches := [], saved := [⟨t, [(stand [] all).me], [], 0x1000000, bytes, 512, 0⟩] } }

theorem witness_TasksLeave_restore :
    (∀ x ∈ [(0, 0), (128, 0), (128, 1)], (restoring x.1 x.2).dev.saved.any (fun v =>
      restorable (restoring x.1 x.2) v 0 && restoreFenced (restoring x.1 x.2) v 0
        && (areaWait (restoring x.1 x.2) v.area v.bytes false).isNone
        && checkHolds (savedBytes (restoring x.1 x.2) v) == (x.2 == 0)) = true)
    ∧ (let s : State := { restoring 128 0 with dev := { (restoring 128 0).dev with dieDown := Vector.replicate 4 (some 7) } }
       s.dev.saved.any (fun v => (areaWait s v.area v.bytes false).isSome) = true)
    ∧ (let s : State := { restoring 0 0 with core := { (restoring 0 0).core with out := true } }
       s.dev.saved.any (fun v => !restorable s v 0) = true) := by
  decide +kernel

/-- Tests of a CACHE bank that nothing waits for, of a REG bank that the stand waits for, and of one that still has to begin. -/
def tested : State :=
  let s := stand [] all
  { s with
    me := { s.me with file := some (33, 0), test := some ⟨⟨0x20, 0, 0, 0x8030, 5⟩, 0, 0x8030, none, false, some (0, 32)⟩ }
    core := { setBanks (setBanks core1 [41] .cache (some 1)) [33] .reg (some 1) with
      testing := [⟨40, 1, .cache, true⟩, ⟨32, 1, .reg, true⟩, ⟨41, 1, .cache, false⟩] } }

/-- The same with every bank of the core held. -/
def tight : State := { tested with core := { tested.core with banks := (setBanks core1 (List.range 96) .cache (some 1)).banks } }

/-- A test of a bank under none, with no waiter and with one; a bank whose test can begin, and one that has no substitute. -/
theorem witness_TasksLeave_test :
    ((getCore tested 0).testing.find? fun x => x.bank == 95 && x.begun) = none
    ∧ ((getCore tested 0).testing.find? fun x => x.bank == 40 && x.begun) = some ⟨40, 1, .cache, true⟩ ∧ bankWaiters tested 0 40 = []
    ∧ ((getCore tested 0).testing.find? fun x => x.bank == 32 && x.begun) = some ⟨32, 1, .reg, true⟩
    ∧ (bankWaiters tested 0 32).map (fun e => e.1) = [7]
    ∧ (∀ s ∈ [tested, tight], ⟨41, 1, .cache, false⟩ ∈ (getCore s 0).testing ∧ (bankAt (getCore s 0) 41).owner = some 1
      ∧ getTask s 1 = some s.task)
    ∧ ((offBanks tested (getCore tested 0) tested.task.part (bankAt (getCore tested 0) 41).role).head?.any fun n =>
        decide (n < 96 ∧ n ≠ 41)) = true
    ∧ offBanks tight (getCore tight 0) tight.task.part (bankAt (getCore tight 0) 41).role = [] := by
  decide +kernel

/-! ## Engines and tiers -/

/-- A copy of the one element of record1 to pad offset 256, queued or running. -/
def copy2 (run : Bool) : Copy := ⟨4, 7, 1, .layout (BitVec.ofNat 512 record1) [] 256 none, run, 0, 0, 0, none, []⟩

/-- No context under issue; a copy in channel 2, and the word of record1 in memory. -/
def copying : State :=
  let s := stand [] all
  { s with
    me := Context.idle, mem := Memory.setBytes [] 0x20000 (bytesLE 4 0x12345678)
    task := { s.task with empty := [2], ops := [⟨4, 7, false, some 0, false, none, 0⟩] }
    core := { s.core with chans := vset s.core.chans 2 ⟨[copy2 false], 0, 0, false⟩ } }

theorem witness_EnginesAndTiers_copy :
    copying.task.phase = .running ∧ copying.task.core = copying.core.id ∧ copying.task.pad.wf = true
    ∧ (layoutOf (BitVec.ofNat 512 record1)).count = 1 ∧ (layoutOf (BitVec.ofNat 512 record1)).dir = 0
    ∧ (layoutOf (BitVec.ofNat 512 record1)).dop = 0 ∧ (layoutOf (BitVec.ofNat 512 record1)).rot = 0
    ∧ elemAddr (layoutOf (BitVec.ofNat 512 record1)) [] 0 = some 0x20000
    ∧ resOk (copyRead 0x20000 4 (putCopy copying 2 (copy2 true))) (fun q => q.2.1.length == 4
      && q.1.task.tid == 1 && q.1.task.phase == .running && q.1.tasks.isEmpty && q.1.dev.waiting.isEmpty && q.1.core.matq.isEmpty
      && q.1.core.clearing.isNone && calm q.1 q.1.task) = true := by
  decide +kernel

/-- What the copy's read keeps. -/
theorem witness_EnginesAndTiers_kept {q : State × List Byte × Nat}
    (h : copyRead 0x20000 4 (putCopy copying 2 (copy2 true)) = .ok q) :
    (channel copying.core 2).queue = [copy2 false] ∧ q.1.me = copying.me ∧ q.1.task.ops = copying.task.ops
    ∧ q.1.task.pad = copying.task.pad ∧ q.1.task.empty = copying.task.empty
    ∧ q.1.core.chans = (putCopy copying 2 (copy2 true)).core.chans := by
  have e : (match copyRead 0x20000 4 (putCopy copying 2 (copy2 true)) with
      | .ok q => (q.1.me, q.1.task.ops, q.1.task.pad, q.1.task.empty, q.1.core.chans)
      | _ => (copying.me, [], [], [], copying.core.chans))
      = (copying.me, copying.task.ops, copying.task.pad, copying.task.empty,
        (putCopy copying 2 (copy2 true)).core.chans) := by rfl
  rw [h] at e
  simp only [Prod.mk.injEq] at e
  exact ⟨rfl, e⟩

/-- A copy whose destination a clearing is moving. -/
def moving : State := { copying with core := { copying.core with clearing := some ⟨7, 0, 1, 84, [0], []⟩ } }

/-- A copy whose page has no translation. -/
def missing : State := { copying with core := { copying.core with tlb := [] } }

theorem witness_EnginesAndTiers_start :
    (∀ s ∈ [copying, missing, moving], (copyAt s 0 2).isSome = true)
    ∧ (copyAt moving 0 2).any (fun x => (deliver ((remaining x.2).take 1) ⟨x.1, x.2, none, none⟩).fault.isNone
        && (deliver ((remaining x.2).take 1) ⟨x.1, x.2, none, none⟩).stall.isSome) = true
    ∧ (copyAt copying 0 2).any (fun x => (deliver ((remaining x.2).take 1) ⟨x.1, x.2, none, none⟩).fault.isNone
        && (deliver ((remaining x.2).take 1) ⟨x.1, x.2, none, none⟩).stall.isNone) = true
    ∧ (copyAt missing 0 2).any (fun x => (deliver ((remaining x.2).take 1) ⟨x.1, x.2, none, none⟩).fault.isSome) = true := by
  decide +kernel

/-- No translation cached; the leaf without A and D, or with both. -/
def walking (leaf : Nat) : State :=
  { rooted with mem := Memory.setBytes rooted.mem 0x301000 (bytesLE 8 leaf), core := { core1 with tlb := [] } }

theorem witness_EnginesAndTiers_walk :
    (∀ leaf ∈ [0x1F, 0xDF], ∀ va ∈ [0, 0x3FFFFFFF], ∀ need ∈ [Need.read, .write],
      va < 2 ^ 48 ∧ vget (walking leaf).dev.dieDown 0 none = none ∧ cachedXlat (focusCore (stash (walking leaf)) 0) 0 va need = none
      ∧ excOk (walk (focusCore (stash (walking leaf)) 0) 0 va) (fun w => (leafCheck 0 need w.level w.entry).isNone
        && (leaf == 0x1F || accessBits need w.entry == w.entry)) = true) := by
  decide +kernel

/-- The tracker on, its epoch of 1 µs begun at 0. -/
def tracking (now : Nat) : State :=
  { stand [] all with time := now, dev := { (stand [] all).dev with tracker := 1, hot := [⟨0, 9, 0, 0x9000, 3, 2⟩] } }

theorem witness_EnginesAndTiers_epoch : epochEnded (tracking 1000) = true ∧ epochEnded (tracking 999) = false := by
  decide +kernel

/-- A pair of pages with the lines of a bitmap moved, the tracker on or off. -/
def swapping (b on : Nat) : State :=
  let s := stand [] all
  { s with dev := { s.dev with
      tracker := BitVec.ofNat 64 on, swaps := [⟨0, 0x40000000, 0x1000, 0x301000, 0x301008, 0x100_0000_0000, 0x50000, BitVec.ofNat 32 b⟩] } }

theorem witness_EnginesAndTiers_swap :
    (∀ x ∈ [(0, 0), (0x7FFFFFFF, 31)], (swapping x.1 1).dev.tracker.getLsbD 0 = true ∧ (swapping x.1 1).dev.swaps[0]?.any (fun w => nextLine w == some x.2
      && w.far / 128 + x.2 != w.near / 128 + x.2 && !sealed (swapping x.1 1) w.part (128 * (w.far / 128 + x.2))
      && !sealed (swapping x.1 1) w.part (128 * (w.near / 128 + x.2))) = true ∧ HomesOpen (swapping x.1 1) ∧ (swapping x.1 1).mem.wf = true)
    ∧ (swapping 0xFFFFFFFF 1).dev.swaps[0]?.any (fun w => (nextLine w).isNone && !pairInFlight (swapping 0xFFFFFFFF 1) w) = true
    ∧ (let s : State := { swapping 0xFFFFFFFF 1 with flight := [⟨7, 1, 0, 0, 0x40000000, 0x50000, homeOf 0x50000 false, 0, .store [9]⟩] }
       s.dev.swaps[0]?.any (fun w => (nextLine w).isNone && pairInFlight s w) = true)
    ∧ (swapping 0 0).dev.tracker.getLsbD 0 = false := by
  unfold HomesOpen; decide +kernel

/-- What an epoch's pages, a walk's entry and a pair's end wait for, and nothing to wait for. -/
theorem witness_EnginesAndTiers_waits :
    (pairPages (tracking 1000)).findSome? (pageWait (tracking 1000)) = none
    ∧ (∀ leaf ∈ [0x1F, 0xDF], accessWait (focusCore (stash (walking leaf)) 0) 0x301000 = none)
    ∧ (∀ x ∈ [0, 0xFFFFFFFF], (swapping x 1).dev.swaps[0]?.any (fun w => !hostHolds (swapping x 1) w.entryFar && !hostHolds (swapping x 1) w.entryNear)
      = true)
    ∧ (let s : State := { swapping 0xFFFFFFFF 1 with dev := { (swapping 0xFFFFFFFF 1).dev with hostHeld := [0x301000 / 128] } }
       s.dev.swaps[0]?.any (fun w => hostHolds s w.entryFar && !pairInFlight s w) = true)
    ∧ (0 : Nat) ≠ 15 ∧ (tracking 1000).dev.bringState ≠ 15 := by
  decide +kernel

/-! ## The module -/

/-- The bytes of a configuration record of a version that its signature covers, with no partition but 0. -/
def body1 (v : Nat) : List Byte := bytesLE 12 (v + 0x22A0 * 2 ^ 64) ++ List.replicate 0x2294 0

/-- The record with its signature under the boot ROM's key. -/
def image1 (v : Nat) : List Byte := body1 v ++ romKey.sign 0 (List.replicate 32 0) (body1 v)

/-- The module in a bring-up state, its version counter at 5. -/
def bringing (n : Nat) : State := { State.reset with dev := { Device.reset with bringState := n, verCounter := 5 } }

/-- A die with its tasks still there, and one whose stop has left nothing; a die in reset; droop. -/
def dying : State :=
  { State.reset with
    time := 5000
    dev := { Device.reset with dieStop := #v[false, true, false, false], dieDown := #v[none, none, some 7, none]
                               sag := #v[⟨0, 0, 0, 0, 0, 0, 0⟩, ⟨1, 8, 8, 8, 0, 3000, 4000⟩, ⟨1, 8, 8, 8, 0, 3000, 4001⟩, ⟨0, 0, 0, 0, 0, 0, 0⟩] } }

theorem witness_BringupAndDies :
    (∀ n ∈ [0, 1, 3, 4, 5], (bringing n).dev.bringState = n ∧ (bringing (n + 1)).dev.bringState ≠ n)
    ∧ (bringing 2).dev.bringState = 2 ∧ (bringing 3).dev.bringState ≠ 2
    ∧ (vget dying.dev.dieDown 3 none = none ∧ vget dying.dev.dieStop 3 false = false)
    ∧ (vget dying.dev.dieDown 1 none = none ∧ vget dying.dev.dieStop 1 false = true ∧ dieEmpty dying 1 = true)
    ∧ vget dying.dev.dieDown 2 none = some 7
    ∧ ((sagOf dying 1).now ≠ 0 ∧ (sagOf dying 1).steady + 1000 ≤ controlClock dying) ∧ (sagOf dying 0).now = 0
    ∧ controlClock dying < (sagOf dying 2).steady + 1000
    ∧ (0x8000000000000000#64).getLsbD 63 = true ∧ (0x7FFFFFFFFFFFFFFF#64).getLsbD 63 = false := by
  decide +kernel

/-- ROM, and a die's stop that leaves nothing. -/
theorem witness_BringupAndDies_rom : (bringing 0).dev.bringState = 0 ∧ (bringing 2).dev.bringState = 2 := ⟨rfl, rfl⟩

/-- The machine READY with partition 3 enabled, an HDM range of 1 GiB for it, and its first line held by the host. -/
def managed (leaf : Nat) : State :=
  { State.reset with
    dev := { Device.reset with
      bringState := 6, leaf := leaf, verCounter := 5, hostHeld := [0x40000000 / 128], backInv := [0x40000000 / 128]
      cfg := { Config.none with parts := vset (vset Config.none.parts 0 partZero) 3 ⟨true, 0, 0, 0, 0, 0⟩
                                hdm := vset Config.none.hdm 0 ⟨true, 3, 0x40000000, 0x40000000⟩ } } }

theorem witness_ManagementAndHost :
    (managed 0).dev.bringState = 6
    ∧ (∀ p ∈ [0, 3], firmwareUp (managed 0) = true ∧ partEnabled (managed 0) p = true)
    ∧ rootNear 0xBFFFFFF001 = true ∧ rootNear 0xC000000001 = false
    ∧ ((managed 0xFFFFF).dev.leaf < 2 ^ 20 ∧ partEnabled (managed 0xFFFFF) 3 = true) ∧ partEnabled (managed 0) 1 = false
    ∧ 2 ^ 20 ≤ (managed 0x100000).dev.leaf
    ∧ (∀ x ∈ [(0, 1), (0x40000000, 128), (0x7FFFFFFF, 1), (0xBFFFFFFF80, 128)], linkUp (managed 0) = true ∧ x.1 % 128 + x.2 ≤ 128
      ∧ hostReaches (managed 0) x.1 x.2 = true ∧ sealed (managed 0) (hostPart (managed 0) x.1) (placeOf (managed 0) x.1) = false)
    ∧ (managed 0).mem.wf = true ∧ (managed 0).dev.backInv[0]? = some (0x40000000 / 128) ∧ (managed 0).dev.swaps = []
    ∧ (∀ x ∈ [0, 0x40000000], commitPending (managed 0) (lineOf x) = false)
    ∧ (let s : State := { managed 0 with task := { task1 with phase := .committing, vlines := [(0x40000, 5)], commitAt := some 0 } }
       commitPending s (lineOf 0x40000) = true)
    ∧ (∃ pa, paKind pa = some .host ∧ paKind (pa + 4 - 1) = some .host ∧ pa % 128 + 4 ≤ 128) := by
  refine ⟨?_, ?_, ?_, ?_, ?_, ?_, ?_, ?_, ?_, ?_, ?_, ?_, ?_, ⟨0x8_0000_0000_0000, ?_⟩⟩ <;> decide +kernel

/-- In FAIL; a request of a partition on its way, and a pair of it; a leaf already used. -/
theorem witness_ManagementAndHost_waits :
    ({ managed 0 with dev := { (managed 0).dev with bringState := 15 } }).dev.bringState = 15
    ∧ (managed 0).flight = [] ∧ (managed 0).dev.swaps = []
    ∧ (let s : State := { managed 0 with flight := [{ request (.store [9]) with part := 3 }] }
       firmwareUp s = true ∧ partEnabled s 3 = true ∧ ∃ q ∈ s.flight, q.part = 3)
    ∧ (managed 0).dev.signing = none
    ∧ (let s : State := { managed 0 with dev := { (managed 0).dev with signing := some (4, List.replicate 160 0) } }
       firmwareUp s = true ∧ s.dev.signing.isSome = true)
    ∧ (∀ x ∈ [0, 0x40000000], inCapPage (managed 0) x = false) := by
  and_intros <;> decide +kernel

/-- The module with a capability page at 0x7000. -/
def listing : State :=
  { managed 0 with dev := { (managed 0).dev with cfg := { (managed 0).dev.cfg with capPa := 0x7000, image := [1] } } }

theorem witness_ManagementAndHost_page :
    ∀ id ∈ [1, 2, 3, 4, 5], inCapPage listing (0x7000 + capOffset id) = true ∧ (0x7000 + capOffset id) % 4096 = capOffset id := by
  intro id h
  have hs : capOffset id < 4096 := by
    simp only [List.mem_cons, List.not_mem_nil, or_false] at h
    rcases h with rfl | rfl | rfl | rfl | rfl <;> simp only [capOffset, capWords] <;> omega
  have hc : (0x7000 + capOffset id) / 4096 = 7 := by omega
  exact ⟨by simp only [inCapPage, hc]; rfl, by omega⟩

theorem ofBytesLE_zero : ∀ n, ofBytesLE (List.replicate n 0) = 0
  | 0 => rfl
  | n + 1 => by rw [List.replicate_succ, ofBytesLE, ofBytesLE_zero n]; rfl

theorem imageNat_zero (l : List Byte) (m off n : Nat) (h : l.length ≤ off) : imageNat (l ++ List.replicate m 0) off n = 0 := by
  rw [imageNat, List.drop_append, List.drop_eq_nil_of_le h, List.nil_append, List.drop_replicate, List.take_replicate, ofBytesLE_zero]

theorem imageNat_head (b c : List Byte) (off n : Nat) (h : off + n ≤ b.length) : imageNat (b ++ c) off n = imageNat b off n := by
  rw [imageNat, List.drop_append_of_le_length (by omega), List.take_append_of_le_length (by rw [List.length_drop]; omega)]; rfl

theorem body1_length (v : Nat) : (body1 v).length = 0x22A0 := by
  rw [body1, List.length_append, bytesLE_length, List.length_replicate]

/-- Past its first 64 bytes the record holds zeros. -/
theorem image1_zero (v off n : Nat) (h : 64 ≤ off) (hn : off + n ≤ 0x22A0) : imageNat (image1 v) off n = 0 := by
  rw [image1, imageNat_head _ _ _ _ (by rw [body1_length]; exact hn), body1, imageNat_zero]
  rw [bytesLE_length]; omega

theorem image1_head (v n : Nat) (h : n ≤ 64) : imageNat (image1 v) 0 n = imageNat (body1 v) 0 n :=
  imageNat_head _ _ _ _ (by rw [body1_length]; omega)

theorem image1_signed (v : Nat) : recordSigned (image1 v) = true := by
  have h : 0x22A0 = (body1 v).length := (body1_length v).symm
  rw [recordSigned, bootKey, image1, List.take_left' h.symm, List.drop_left' h.symm]
  exact SignKey.sign_holds romKey 0 _ _ (by decide) (List.length_replicate ..)

theorem image1_rules (s : State) (h : s.dev.verCounter = 5) : recordRules s (image1 5) = true := by
  have hl : (image1 5).length = 11684 := by
    rw [image1, List.length_append, body1_length, SignKey.sign_length _ _ _ _ (List.length_replicate ..)]; rfl
  have hd : ∀ p, p < 63 → descNat (image1 5) (p + 1) = 0 := fun p hp => image1_zero 5 _ _ (by omega) (by omega)
  have hx : ∀ k, k < 8 → hdmNat (image1 5) k = 0 := fun k hk => image1_zero 5 _ _ (by omega) (by omega)
  have hp : ∀ c, c < 832 → mapNat (image1 5) c = 0 := fun c hc => image1_zero 5 _ _ (by omega) (by omega)
  have hr : reservedClear (image1 5) = true := by
    simp only [reservedClear, image1_head 5 64 (by omega), Bool.and_eq_true, List.all_eq_true, List.mem_range]
    refine ⟨⟨⟨by decide +kernel, fun k hk => ?_⟩, fun c hc => ?_⟩, fun k hk => ?_⟩
    · simp only [hd k hk]; decide
    · simp only [hp c hc]; decide
    · simp only [hx k hk]; decide
  have hparts : (parseConfig (image1 5)).parts = Vector.ofFn fun p : Fin 64 => if p.val = 0 then partZero else parsePart 0 := by
    refine congrArg Vector.ofFn (funext fun p => ?_)
    split
    · rfl
    · obtain ⟨q, hq⟩ : ∃ q, p.val = q + 1 := ⟨p.val - 1, by omega⟩
      rw [hq, hd q (by have := p.isLt; omega)]
  have hhdm : (parseConfig (image1 5)).hdm = Vector.ofFn fun _ : Fin 8 => parseHdm 0 :=
    congrArg Vector.ofFn (funext fun k => by rw [hx k.val k.isLt])
  have ho : partsOk (parseConfig (image1 5)) = true := by
    simp only [partsOk, partDesc, hparts]
    decide +kernel
  have hk : hdmOk (parseConfig (image1 5)) = true := by
    simp only [hdmOk, hdmInside, partDesc, hparts, hhdm]
    decide +kernel
  have h8 : imageNat (image1 5) 0 8 = 5 := by rw [image1_head 5 8 (by omega)]; decide +kernel
  have hg : imageNat (image1 5) 8 4 = 0x22A0 := by
    rw [image1, imageNat_head _ _ _ _ (by rw [body1_length]; decide)]; decide +kernel
  simp only [recordRules, hl, hg, hr, ho, hk, h, h8, Bool.and_self, beq_self_eq_true]
  decide

/-- A record of the counter's own version, one of a version below it, and one whose signature does not hold. -/
theorem witness_records (s : State) (h : s.dev.verCounter = 5) :
    (recordSigned (image1 5) = true ∧ recordAccepted s (image1 5) = true) ∧ (recordSigned (image1 4) = true ∧ recordAccepted s (image1 4) = false)
    ∧ (recordSigned [] = false ∧ recordAccepted s [] = false) := by
  have h4 : imageNat (image1 4) 0 8 = 4 := by rw [image1_head 4 8 (by omega)]; decide +kernel
  refine ⟨⟨image1_signed 5, ?_⟩, ⟨image1_signed 4, ?_⟩, rfl, rfl⟩
  · rw [recordAccepted, image1_signed, image1_rules s h]; rfl
  · simp only [recordAccepted, recordRules, h, h4, show decide ((5 : Word64).toNat ≤ 4) = false by decide, Bool.and_false, Bool.false_and]

theorem witness_records_bringing : (bringing 2).dev.verCounter = 5 ∧ (managed 0).dev.verCounter = 5 := ⟨rfl, rfl⟩

end Sys2Proof.Tests
end

section
/-! PROOF. The canonical form of memory and of every pad, kept by every step (R5, R45): one lemma for each operation that
gives a state or a task, in the order of the model, up to `step`. What an operation leaves of `Formed` is read off its definition;
`Formed.same` closes the changes that touch neither memory nor a task. They are checked one after
another: all at once they ask for more threads than memory has room for. -/

set_option Elab.async false

namespace Sys2Proof.Machine

open Sys2Proof

/-- The pads of some tasks are in canonical form. -/
def PadsOk (l : List Task) : Prop := ∀ t ∈ l, t.pad.wf = true

/-- The pads of some saved tasks are in canonical form. -/
def SavedOk (l : List Saved) : Prop := ∀ v ∈ l, v.task.pad.wf = true

theorem padsOk_nil : PadsOk [] := by simp [PadsOk]

theorem padsOk_cons (t : Task) (l : List Task) : PadsOk (t :: l) ↔ t.pad.wf = true ∧ PadsOk l := by simp [PadsOk]

theorem padsOk_append (l m : List Task) : PadsOk (l ++ m) ↔ PadsOk l ∧ PadsOk m := by
  simp only [PadsOk, List.mem_append]
  grind

theorem PadsOk.filter {l : List Task} (h : PadsOk l) (p : Task → Bool) : PadsOk (l.filter p) :=
  fun t ht => h t (List.mem_filter.1 ht).1

theorem PadsOk.find {l : List Task} (h : PadsOk l) {p : Task → Bool} {t : Task} (e : l.find? p = some t) : t.pad.wf = true :=
  h t (List.mem_of_find?_eq_some e)

theorem PadsOk.eraseFirst {l : List Task} (h : PadsOk l) (p : Task → Bool) : PadsOk (eraseFirst p l) := by
  induction l with
  | nil => exact h
  | cons x l ih =>
    rw [padsOk_cons] at h
    unfold Machine.eraseFirst
    split
    · exact h.2
    · exact (padsOk_cons _ _).2 ⟨h.1, ih h.2⟩

theorem PadsOk.updateFirst {l : List Task} (h : PadsOk l) (p : Task → Bool) {f : Task → Task}
    (hf : ∀ t, t.pad.wf = true → (f t).pad.wf = true) : PadsOk (updateFirst p f l) := by
  induction l with
  | nil => exact h
  | cons x l ih =>
    rw [padsOk_cons] at h
    unfold Machine.updateFirst
    split
    · exact (padsOk_cons _ _).2 ⟨hf _ h.1, h.2⟩
    · exact (padsOk_cons _ _).2 ⟨h.1, ih h.2⟩

theorem PadsOk.map {l : List Task} (h : PadsOk l) {f : Task → Task} (hf : ∀ t, t.pad.wf = true → (f t).pad.wf = true) :
    PadsOk (l.map f) := fun _ ht => by
  obtain ⟨u, hu, rfl⟩ := List.mem_map.1 ht
  exact hf u (h u hu)

theorem savedOk_nil : SavedOk [] := by simp [SavedOk]

theorem SavedOk.filter {l : List Saved} (h : SavedOk l) (p : Saved → Bool) : SavedOk (l.filter p) :=
  fun t ht => h t (List.mem_filter.1 ht).1

theorem SavedOk.map {l : List Saved} (h : SavedOk l) {f : Saved → Saved}
    (hf : ∀ v, v.task.pad.wf = true → (f v).task.pad.wf = true) : SavedOk (l.map f) := fun _ ht => by
  obtain ⟨u, hu, rfl⟩ := List.mem_map.1 ht
  exact hf u (h u hu)

theorem SavedOk.concat {l : List Saved} (h : SavedOk l) {v : Saved} (hv : v.task.pad.wf = true) : SavedOk (l ++ [v]) := by
  intro u hu
  rcases List.mem_append.1 hu with hu | hu
  · exact h u hu
  · exact List.mem_singleton.1 hu ▸ hv

/-- The canonical form of a state by its parts: memory, the task in hand, and the lists that hold the other tasks. -/
theorem formed_iff (s : State) : Formed s ↔ s.mem.wf = true ∧ s.task.pad.wf = true ∧ PadsOk s.tasks
    ∧ PadsOk s.dev.waiting ∧ SavedOk s.dev.saved := by
  simp only [Formed, everyTask, PadsOk, SavedOk, List.mem_cons, List.cons_append, List.mem_append, List.mem_map]
  grind

theorem xlat_eq_ok {α : Type} (f : XFail) (va lane : Nat) (a : α) : Res.xlat f va lane = .ok a ↔ False := by
  unfold Res.xlat
  split <;> simp

/-- An outcome whose next state, where it has one, keeps the form. -/
def NextFormed (o : Host.Outcome State Fault Refusal) : Prop := ∀ t, o = .next t → Formed t

theorem none_pad : Task.none.pad.wf = true := rfl

/-- A state without tasks has the form where memory has. -/
theorem formed_of_empty {s : State} (hm : s.mem.wf = true) (ht : s.task = Task.none) (hl : s.tasks = []) (hw : s.dev.waiting = [])
    (hv : s.dev.saved = []) : Formed s := by
  rw [formed_iff, ht, hl, hw, hv]
  exact ⟨hm, none_pad, padsOk_nil, padsOk_nil, savedOk_nil⟩

/-- What the rules of the homes keep includes the form, so that every `_keeps` lemma of Laws/Homes gives one here. -/
theorem HomeKeeps.formed {s t : State} (k : HomeKeeps s t) (h : Formed s) : Formed t := by
  rw [formed_iff] at h ⊢
  rw [k.task, k.tasks, k.waiting, k.saved]
  exact ⟨k.form h.1, h.2⟩

end Sys2Proof.Machine

namespace Sys2Proof

open Machine

/-- A change of other fields alone keeps the form. -/
theorem Formed.same {s t : State} (h : Formed s) (hm : t.mem = s.mem := by rfl) (hp : t.task.pad = s.task.pad := by rfl)
    (ht : t.tasks = s.tasks := by rfl) (hw : t.dev.waiting = s.dev.waiting := by rfl) (hs : t.dev.saved = s.dev.saved := by rfl) :
    Formed t := by
  rw [formed_iff] at h ⊢
  rw [hm, hp, ht, hw, hs]
  exact h

theorem Formed.task {s : State} (h : Formed s) : s.task.pad.wf = true := ((formed_iff s).1 h).2.1

/-- A change of the task in hand and of other fields. -/
theorem Formed.retask {s t : State} (h : Formed s) (hp : t.task.pad.wf = true) (hm : t.mem = s.mem := by rfl)
    (ht : t.tasks = s.tasks := by rfl) (hw : t.dev.waiting = s.dev.waiting := by rfl) (hs : t.dev.saved = s.dev.saved := by rfl) :
    Formed t := by
  rw [formed_iff] at h ⊢
  rw [hm, ht, hw, hs]
  exact ⟨h.1, hp, h.2.2⟩

/-- A change of the saved tasks and of other fields. -/
theorem Formed.resave {s t : State} (h : Formed s) (hs : SavedOk t.dev.saved) (hm : t.mem = s.mem := by rfl)
    (hp : t.task.pad = s.task.pad := by rfl) (ht : t.tasks = s.tasks := by rfl) (hw : t.dev.waiting = s.dev.waiting := by rfl) :
    Formed t := by
  rw [formed_iff] at h ⊢
  rw [hm, hp, ht, hw]
  exact ⟨h.1, h.2.1, h.2.2.1, h.2.2.2.1, hs⟩

theorem Formed.saved {s : State} (h : Formed s) : SavedOk s.dev.saved := ((formed_iff s).1 h).2.2.2.2

theorem Formed.withTask {s : State} (h : Formed s) {t : Task} (ht : t.pad.wf = true) : Formed { s with task := t } := h.retask ht

end Sys2Proof

namespace Sys2Proof.Machine

theorem mem_of_leastBy {α : Type} {key : α → Nat} {l : List α} {x : α} (e : leastBy key l = some x) : x ∈ l := by
  induction l generalizing x with
  | nil => cases e
  | cons y l ih => grind [leastBy]

theorem mem_of_insertBy {α : Type} {key : α → Nat} {x y : α} {l : List α} (h : y ∈ insertBy key x l) : y = x ∨ y ∈ l := by
  induction l with
  | nil => exact .inl (List.mem_singleton.1 h)
  | cons z l ih => grind [insertBy]

theorem mem_of_foldl_insertBy {α : Type} {key : α → Nat} {x : α} (l m : List α)
    (h : x ∈ l.foldl (fun acc x => insertBy key x acc) m) : x ∈ m ∨ x ∈ l := by
  induction l generalizing m with
  | nil => exact .inl h
  | cons y l ih => grind [→ mem_of_insertBy]

theorem mem_of_sortBy {α : Type} {key : α → Nat} {l : List α} {x : α} (h : x ∈ sortBy key l) : x ∈ l :=
  (mem_of_foldl_insertBy l [] h).resolve_left List.not_mem_nil

theorem foldl_formed_of_mem {α : Type} {f : State → α → State} (l : List α)
    (hf : ∀ u, ∀ x ∈ l, Formed u → Formed (f u x)) {s : State} (hs : Formed s) : Formed (l.foldl f s) := by
  induction l generalizing s with
  | nil => exact hs
  | cons x l ih => exact ih (fun u y hy => hf u y (.tail _ hy)) (hf s x (.head _) hs)

/-- A fold keeps the form where each of its steps does. -/
theorem foldl_formed {α : Type} {f : State → α → State} (hf : ∀ u x, Formed u → Formed (f u x)) (l : List α) {s : State}
    (hs : Formed s) : Formed (l.foldl f s) := foldl_formed_of_mem l (fun u x _ => hf u x) hs

/-! ### Mem -/

theorem useFree_formed {s : State} (hs : Formed s) (n : Nat) : Formed (useFree s n) := (useFree_keeps _ _).formed hs

theorem writePhys_formed {s : State} (hs : Formed s) (part pa : Nat) (bytes : List Byte) :
    Formed (writePhys s part pa bytes) := (writePhys_keeps _ _ _ _).formed hs

theorem evictLine_formed {s : State} (hs : Formed s) (h : HomeLine) : Formed (evictLine s h) := (evictLine_keeps _ _).formed hs

theorem touchLine_formed {s : State} (hs : Formed s) (part pa home : Nat) :
    Formed (touchLine s part pa home) := (touchLine_keeps _ _ _ _).formed hs

theorem storeAtHome_formed {s : State} (hs : Formed s) (part pa home : Nat) (bytes : List Byte) :
    Formed (storeAtHome s part pa home bytes).1 := (storeAtHome_keeps _ _ _ _ _).formed hs

theorem readAtHome_formed {s : State} (hs : Formed s) (part pa home n : Nat) :
    Formed (readAtHome s part pa home n).1 := (readAtHome_keeps _ _ _ _ _).formed hs

theorem grantLease_formed {s : State} (hs : Formed s) (pa home lease : Nat) : Formed (grantLease s pa home lease).1 := by
  unfold grantLease
  dsimp only
  split
  · exact hs
  · exact hs

theorem writeEntry_formed {s : State} (hs : Formed s) (part addr : Nat) (e : Word64) :
    Formed (writeEntry s part addr e) := (writeEntry_keeps _ _ _ _).formed hs

theorem moveOrStop_formed {s : State} (hs : Formed s) (w : Swap) (i : Nat) (bad : Bool) :
    Formed (moveOrStop s w i bad) := (moveOrStop_keeps _ _ _ _).formed hs

theorem moveForAtomic_formed {s : State} (hs : Formed s) (pa : Nat) :
    Formed (moveForAtomic s pa) := (moveForAtomic_keeps _ _).formed hs

theorem rmwAtHome_formed {s : State} (hs : Formed s) (part pa home n : Nat) (f : List Byte → List Byte) :
    Formed (rmwAtHome s part pa home n f).1 := (rmwAtHome_keeps _ _ _ _ _ _).formed hs

theorem sendBackInvalidate_formed {s : State} (hs : Formed s) (pa : Nat) : Formed (sendBackInvalidate s pa) := by
  unfold sendBackInvalidate
  split
  · exact hs
  · exact hs

/-! ### Xlate -/

theorem noteMiss_formed {s : State} (hs : Formed s) (part : Nat) (va : Option Nat) (pa : Nat) :
    Formed (noteMiss s part va pa) := (noteMiss_keeps _ _ _ _).formed hs

theorem readEntries_formed {s : State} (hs : Formed s) (part : Nat) (reads : List Nat) :
    Formed (readEntries s part reads) := (readEntries_keeps _ _ _).formed hs

theorem walkXlat_formed {s : State} (hs : Formed s) (part va : Nat) (need : Need) {u : State} {x : Xlat}
    (e : walkXlat s part va need = .ok (u, x)) : Formed u := (walkXlat_keeps e).formed hs

theorem translate_formed {s : State} (hs : Formed s) (part va : Nat) (need : Need) {u : State} {x : Xlat}
    (e : translate s part va need = .ok (u, x)) : Formed u := (translate_keeps e).formed hs

theorem dropPage_formed {s : State} (hs : Formed s) (part va : Nat) : Formed (dropPage s part va) := hs

theorem dropAll_formed {s : State} (hs : Formed s) (part : Nat) : Formed (dropAll s part) := hs

theorem deviceXlat_formed {s : State} (hs : Formed s) (part va : Nat) (need : Need) {u : State} {x : Xlat}
    (e : deviceXlat s part va need = .ok (u, x)) : Formed u := by
  grind [deviceXlat, → walkXlat_formed]

theorem readLines_formed (part : Nat) (ilv : Bool) (fuel pa n : Nat) {s : State} (hs : Formed s) :
    Formed (readLines part ilv fuel pa n s).1 := by
  induction fuel generalizing pa n s with
  | zero => exact hs
  | succ fuel ih => grind [readLines, noteMiss_formed, readAtHome_formed]

theorem deviceRead_formed {s : State} (hs : Formed s) (part va n : Nat) {u : State} {x : List Byte}
    (e : deviceRead s part va n = .ok (u, x)) : Formed u := by
  grind [deviceRead, readLines_formed, → deviceXlat_formed]

theorem setPosted_formed {s : State} (hs : Formed s) (l : List (Nat × Nat × List Byte)) : Formed (setPosted s l) := hs

theorem askHost_formed {s : State} (hs : Formed s) (f : XFail) : Formed (askHost s f) := by
  unfold askHost
  split
  · exact sendBackInvalidate_formed hs _
  · exact hs

theorem deviceStall_formed {s : State} (hs : Formed s) (part va n : Nat) {u : State} (e : deviceStall s part va n = some u) :
    Formed u := by
  grind [deviceStall, askHost_formed]

theorem drainPosted_formed (l : List (Nat × Nat × List Byte)) {s : State} (hs : Formed s) : Formed (drainPosted l s) := by
  induction l generalizing s with
  | nil => exact setPosted_formed hs _
  | cons w l ih =>
    grind [drainPosted, askHost_formed, deviceXlat_formed, noteMiss_formed, setPosted_formed, storeAtHome_formed]

theorem deviceWrite_formed {s : State} (hs : Formed s) (part va : Nat) (bytes : List Byte) :
    Formed (deviceWrite s part va bytes) := drainPosted_formed _ hs

/-! ### Ctx -/

theorem putCtx_formed {s : State} (hs : Formed s) (c : Context) : Formed (putCtx s c) := by
  unfold putCtx
  split
  · exact hs
  · exact hs

theorem mapCtx_formed {s : State} (hs : Formed s) (id : Nat) (f : Context → Context) : Formed (mapCtx s id f) := by
  unfold mapCtx
  split
  · exact hs
  · exact putCtx_formed hs _

theorem putTask_formed {s : State} (hs : Formed s) {t : Task} (ht : t.pad.wf = true) : Formed (putTask s t) := by
  grind [putTask, formed_iff, PadsOk.updateFirst]

theorem liveTasks_padsOk {s : State} (hs : Formed s) : PadsOk (liveTasks s) := by
  grind [liveTasks, formed_iff, padsOk_append, padsOk_cons, padsOk_nil]

theorem waitingTasks_padsOk {s : State} (hs : Formed s) : PadsOk (waitingTasks s) := by
  grind [waitingTasks, formed_iff, padsOk_append, padsOk_cons, padsOk_nil]

theorem getTask_pad {s : State} (hs : Formed s) {tid : Nat} {t : Task} (e : getTask s tid = some t) : t.pad.wf = true :=
  ((padsOk_append _ _).2 ⟨liveTasks_padsOk hs, waitingTasks_padsOk hs⟩).find e

theorem mapTask_formed {s : State} (hs : Formed s) (tid : Nat) {f : Task → Task}
    (hf : ∀ t, t.pad.wf = true → (f t).pad.wf = true) : Formed (mapTask s tid f) := by
  grind [mapTask, getTask_pad, putTask_formed]

theorem putCore_formed {s : State} (hs : Formed s) (c : Core) : Formed (putCore s c) := by
  unfold putCore
  split
  · exact hs
  · exact hs

theorem mapCore_formed {s : State} (hs : Formed s) (id : Nat) (f : Core → Core) : Formed (mapCore s id f) := putCore_formed hs _

theorem focusCore_formed {s : State} (hs : Formed s) (id : Nat) : Formed (focusCore s id) := by
  unfold focusCore
  split
  · exact hs
  · exact hs

theorem stash_formed {s : State} (hs : Formed s) : Formed (stash s) := by
  grind [stash, formed_iff, none_pad, padsOk_append, padsOk_cons, padsOk_nil]

theorem focus_formed {s : State} (hs : Formed s) (id : Nat) : Formed (focus s id) := by
  grind [focus, formed_iff, PadsOk.eraseFirst, PadsOk.find, focusCore_formed, stash_formed]

theorem focusTask_formed {s : State} (hs : Formed s) (tid : Nat) : Formed (focusTask s tid) := by
  grind [focusTask, formed_iff, PadsOk.eraseFirst, PadsOk.find, focusCore_formed, stash_formed]

theorem mapRegion_formed {s : State} (hs : Formed s) (num : Nat) (f : Region → Region) : Formed (mapRegion s num f) := hs

theorem charge_formed {s : State} (hs : Formed s) (region : Nat) (r : Role) (n : Nat) : Formed (charge s region r n) := by
  unfold charge
  split
  · exact hs
  · exact hs

theorem release_formed {s : State} (hs : Formed s) (region : Nat) (r : Role) (n : Nat) : Formed (release s region r n) := by
  unfold release
  split
  · exact hs
  · exact hs

theorem chargeCore_formed {s : State} (hs : Formed s) (region core tid : Nat) : Formed (chargeCore s region core tid) := hs

theorem releaseCore_formed {s : State} (hs : Formed s) (region core tid : Nat) : Formed (releaseCore s region core tid) := hs

/-! ### Ops -/

theorem mapRegs_formed {s : State} (hs : Formed s) (f : Regs → Regs) : Formed (mapRegs s f) := hs

theorem mapPath_formed {s : State} (hs : Formed s) (f : Path → Path) : Formed (mapPath s f) := hs

theorem setACode_formed {s : State} (hs : Formed s) (c : BitVec 7) (f : AReg) : Formed (setACode s c f) := hs

theorem setUniform_formed {s : State} (hs : Formed s) (c : BitVec 7) (x : Word64) (t : Tag) : Formed (setUniform s c x t) := hs

theorem setVMask_formed {s : State} (hs : Formed s) (n : Nat) (mask : Word64) (t : Tag) (val : Nat → Word32) :
    Formed (setVMask s n mask t val) := hs

theorem setV_formed {s : State} (hs : Formed s) (n : Nat) (t : Tag) (val : Nat → Word32) : Formed (setV s n t val) := hs

theorem setVPair_formed {s : State} (hs : Formed s) (n : Nat) (t : Tag) (val : Nat → Word64) : Formed (setVPair s n t val) := hs

theorem setP_formed {s : State} (hs : Formed s) (n : Nat) (val : Word64) : Formed (setP s n val) := hs

theorem raiseHorizon_formed {s : State} (hs : Formed s) (w : Nat) : Formed (raiseHorizon s w) := hs.same

theorem raiseWrite_formed {s : State} (hs : Formed s) (w : Nat) : Formed (raiseWrite s w) := hs.same

theorem expose_formed {s : State} (hs : Formed s) : Formed (expose s) := hs.same

theorem setDest_formed {s : State} (hs : Formed s) (d : BitVec 7) (t : Tag) (signed : Bool) (val : Nat → Word32) {u : State}
    (e : setDest s d t signed val = .ok u) : Formed u := by
  grind [setDest, setACode_formed, setV_formed]

theorem dropContexts_formed {s : State} (hs : Formed s) (tid : Nat) : Formed (dropContexts s tid) := hs

theorem dropInbox_formed {s : State} (hs : Formed s) (t : Task) : Formed (dropInbox s t) := hs

theorem releaseTask_formed {s : State} (hs : Formed s) (t : Task) : Formed (releaseTask s t) := by
  have hr := foldl_formed (fun u r hu => release_formed hu t.region r (ownBanks (getCore s t.core) t.tid r).length)
    [Role.reg, .pad, .cache, .fifo, .tile] hs
  grind [releaseTask, releaseCore_formed, putCore_formed]

theorem removeTask_formed {s : State} (hs : Formed s) (tid : Nat) : Formed (removeTask s tid) := by
  grind [removeTask, formed_iff, PadsOk.filter, none_pad]

theorem mapLaunch_formed {s : State} (hs : Formed s) (serial : Nat) (f : Launch → Launch) : Formed (mapLaunch s serial f) := hs

theorem countTask_formed {s : State} (hs : Formed s) (t : Task) : Formed (countTask s t) := hs

theorem finishTask_formed {s : State} (hs : Formed s) (t : Task) : Formed (finishTask s t) := by
  grind [finishTask, countTask_formed, dropInbox_formed, releaseTask_formed, removeTask_formed]

theorem settle_formed {s : State} (hs : Formed s) (tid : Nat) : Formed (settle s tid) := by
  grind [settle, formed_iff, finishTask_formed, putTask_formed, releaseTask_formed, → getTask_pad]

theorem retireTask_formed {s : State} (hs : Formed s) (tid : Nat) : Formed (retireTask s tid) := by
  grind [retireTask, formed_iff, mapTask_formed, settle_formed]

theorem faultRecord_formed {s : State} (hs : Formed s) (t : Task) (k : Trap) (r : Report) : Formed (faultRecord s t k r) := by
  grind [faultRecord, formed_iff, deviceWrite_formed, mapLaunch_formed, mapRegion_formed]

theorem Task.dropCancelled_pad (t : Task) (ht : t.pad.wf = true) : (Task.dropCancelled t).pad.wf = true := ht

theorem Task.ended_pad (t : Task) (ht : t.pad.wf = true) : (Task.ended t).pad.wf = true := ht

theorem restartTask_formed {s : State} (hs : Formed s) (tid : Nat) (direct : Bool) : Formed (restartTask s tid direct) := by
  unfold restartTask
  split
  · exact hs
  · rename_i t ht
    have hp : t.dropCancelled.pad.wf = true := Task.dropCancelled_pad t (getTask_pad hs ht)
    refine settle_formed ?_ _
    have hu := fun c : Core => putCore_formed (removeTask_formed (putTask_formed (dropContexts_formed (dropInbox_formed hs t) tid)
      (t := { t.dropCancelled with
        rerun := direct, exposed := false, retired := 0, vlines := [], vwct := [], inbox := [], ringAt := (0, 0)
        withdrawn := none, credits := Task.none.credits
        windows := Task.none.windows, epi := Task.none.epi, preqAt := none, asked := false, choice := false, saveAt := none, badInbox := []
        horizon := t.lastWct, phase := .waiting }) hp) tid) c
    grind [formed_iff, padsOk_cons]

theorem setStatus_formed {s : State} (hs : Formed s) (serial code : Nat) : Formed (setStatus s serial code) := hs

theorem fatalTask_formed {s : State} (hs : Formed s) (tid : Nat) (k : Trap) (r : Report) : Formed (fatalTask s tid k r) := by
  grind [fatalTask, formed_iff, Task.ended_pad, dropContexts_formed, faultRecord_formed, mapTask_formed, setStatus_formed,
    settle_formed]

theorem endTasks_formed (k : Trap) (r : Report) (named : Nat) (l : List Nat) {s : State} (hs : Formed s) :
    Formed (endTasks k r named l s) := by
  induction l generalizing s with
  | nil => exact hs
  | cons tid l ih =>
    grind [endTasks, Task.ended_pad, dropContexts_formed, faultRecord_formed, mapTask_formed, settle_formed]

theorem dropSaved_formed {s : State} (hs : Formed s) (t : Task) : Formed (dropSaved s t) := by
  grind [dropSaved, formed_iff, SavedOk.filter, countTask_formed]

theorem endSaved_formed (k : Trap) (r : Report) (l : List Saved) {s : State} (hs : Formed s) : Formed (endSaved k r l s) := by
  induction l generalizing s with
  | nil => exact hs
  | cons v l ih => exact ih (dropSaved_formed (faultRecord_formed hs _ _ _) _)

theorem setRegionState_formed {s : State} (hs : Formed s) (num n : Nat) : Formed (setRegionState s num n) := by
  grind [setRegionState, formed_iff, deviceWrite_formed, mapRegion_formed]

theorem cutLaunches_formed {s : State} (hs : Formed s) (mine : Nat → Bool) : Formed (cutLaunches s mine) := hs

theorem regionFault_formed {s : State} (hs : Formed s) (num : Nat) (k : Trap) (r : Report) (named : Nat) :
    Formed (regionFault s num k r named) := by
  grind [regionFault, cutLaunches_formed, endSaved_formed, endTasks_formed, setRegionState_formed]

theorem abortTask_formed {s : State} (hs : Formed s) (tid : Nat) (k : Trap) (r : Report) : Formed (abortTask s tid k r) := by
  grind [abortTask, formed_iff, fatalTask_formed, faultRecord_formed, putTask_formed, restartTask_formed, → getTask_pad]

theorem enterHandler_formed {s : State} (hs : Formed s) (k : Trap) (slot pc : Nat) (redo : Option Redo) (d : Region) :
    Formed (enterHandler s k slot pc redo d) := hs

theorem takeMasked_formed {s : State} (hs : Formed s) (k : Trap) (slot pc : Nat) (redo : Option Redo) :
    Formed (takeMasked s k slot pc redo) := by
  grind [takeMasked, formed_iff, enterHandler_formed, fatalTask_formed]

theorem askTest_formed {s : State} (hs : Formed s) (unit : Nat × Nat) : Formed (askTest s unit) := mapCore_formed hs _ _

theorem awaitTest_formed {s : State} (hs : Formed s) (k : Trap) (slot pc : Nat) (redo : Option Redo) :
    Formed (awaitTest s k slot pc redo) := by
  grind [awaitTest, formed_iff, askTest_formed]

theorem takeTrap_formed {s : State} (hs : Formed s) (k : Trap) (slot pc : Nat) (redo : Option Redo) :
    Formed (takeTrap s k slot pc redo) := by
  grind [takeTrap, formed_iff, awaitTest_formed, fatalTask_formed, restartTask_formed, takeMasked_formed]

theorem returnFromHandler_formed {s : State} (hs : Formed s) (f : Frame) : Formed (returnFromHandler s f) := by
  unfold returnFromHandler
  dsimp only
  split
  · exact hs.same
  · exact hs

theorem setLfsr_formed {s : State} (hs : Formed s) (l : Vector Word32 64) : Formed (setLfsr s l) := by
  unfold setLfsr
  split
  · exact hs
  · exact hs

theorem takePend_formed {s : State} (hs : Formed s) (k : Trap) (slot : Nat) (again : List Nat) (kept : Option Regs) :
    Formed (takePend s k slot again kept) := takeTrap_formed hs.same _ _ _ _

theorem endChain_formed {s : State} (hs : Formed s) : Formed (endChain s) := by
  unfold endChain
  split
  · exact hs
  · exact takePend_formed hs _ _ _ _

theorem nextWord_formed {s : State} (hs : Formed s) : Formed (nextWord s) := by
  unfold nextWord
  split
  · exact hs
  · exact endChain_formed hs

theorem wordDone_formed {s : State} (hs : Formed s) : Formed (wordDone s) := nextWord_formed hs

theorem wordTrap_formed {s : State} (hs : Formed s) (k : Trap) : Formed (wordTrap s k) := nextWord_formed hs

theorem wordStall_formed {s : State} (hs : Formed s) (w : Stall) : Formed (wordStall s w) := by
  unfold wordStall
  refine mapPath_formed ?_ _
  split
  · exact sendBackInvalidate_formed hs _
  · exact hs

theorem wordEnd_formed {s : State} (hs : Formed s) (r : Res State) (hf : ∀ t, r = .ok t → Formed t) : Formed (wordEnd s r) := by
  cases r with
  | ok t => exact wordDone_formed (hf t rfl)
  | trap k => exact wordTrap_formed hs k
  | stall w => exact wordStall_formed hs w

theorem goTo_formed {s : State} (hs : Formed s) (target : BitVec 32) : Formed (goTo s target) := hs

/-! ### Tract -/

theorem fetchPacket_formed {s : State} (hs : Formed s) (packet : BitVec 32) {u : State} {x : Word32 × Word32 × Word32}
    (e : fetchPacket s packet = .ok (u, x)) : Formed u := (fetchPacket_keeps e).formed hs

theorem sealOps_pad (t : Task) (ctx : Nat) (matrix : Bool) (id : Nat) (ht : t.pad.wf = true) :
    (sealOps t ctx matrix id).pad.wf = true := ht

theorem sealNow_formed {s : State} (hs : Formed s) (matrix : Bool) : Formed (sealNow s matrix) := hs.same

theorem sealBatch_formed {s : State} (hs : Formed s) (matrix : Bool) {u : State} (e : sealBatch s matrix = .ok u) : Formed u := by
  grind [sealBatch, sealNow_formed]

theorem sealTract_formed {s : State} (hs : Formed s) {u : State} (e : sealTract s = .ok u) : Formed u := by
  unfold sealTract at e
  split at e
  · cases e
  · cases e; exact hs.same

theorem addStands_formed (c : Context) (bs : List (Nat × Nat × Nat)) (slots : List Nat) (files : List (Nat × Nat)) {s : State}
    (hs : Formed s) : Formed (addStands c bs slots files s) := by
  fun_induction addStands c bs slots files s with
  | case1 b bs slot slots file files s ih => exact ih hs.same
  | case2 => exact hs

theorem materialise_formed {s t : State} (hs : Formed s) (e : materialise s = .ok t) : Formed t := by
  unfold materialise at e
  dsimp only at e
  split at e
  · cases e
    split
    · split
      · exact addStands_formed _ _ _ _ hs.same
      · exact hs
    · exact addStands_formed _ _ _ _ hs.same
  · obtain ⟨u, hu, e⟩ := bind_eq_ok.1 e
    have ku := sealTract_formed hs hu
    cases e
    split
    · split
      · exact addStands_formed _ _ _ _ ku.same
      · exact ku
    · exact addStands_formed _ _ _ _ ku.same

theorem serveParked_formed {s : State} (hs : Formed s) (id : Nat) : Formed (serveParked s id) := by
  grind [serveParked, formed_iff, focus_formed]

theorem addPieces_formed (owner : Nat) (ps : List Context) (slots : List Nat) {s : State} (hs : Formed s) :
    Formed (addPieces owner ps slots s) := by
  fun_induction addPieces owner ps slots s with
  | case1 => exact hs
  | case2 p ps slot slots s ih => exact ih hs.same
  | case3 p ps s ih => exact ih hs.same

theorem splitTract_formed {s t : State} (hs : Formed s) (pieces : List (Box × BitVec 32)) (e : splitTract s pieces = .ok t) :
    Formed t := by
  obtain ⟨u, hu, e⟩ := bind_eq_ok.1 e
  have ku := sealTract_formed hs hu
  split at e
  · cases e; exact ku
  · cases e; exact addPieces_formed _ _ _ ku.same

theorem countRetired_formed {s : State} (hs : Formed s) (n : Nat) : Formed (countRetired s n) := hs.same

theorem endContext_formed {s : State} (hs : Formed s) : Formed (endContext s) := by
  grind [endContext, formed_iff, retireTask_formed, sealOps_pad]

theorem endPath_formed {s : State} (hs : Formed s) : Formed (endPath s) := by
  grind [endPath, formed_iff, countRetired_formed, endContext_formed]

theorem endTract_formed {s : State} (hs : Formed s) : Formed (endTract s) := endContext_formed hs.same

theorem missOnce_formed (i : Instr) {s : State} (hs : Formed s) : Formed (missOnce i s) := faultRecord_formed hs.same _ _ _

theorem unitError_formed (i : Instr) {s : State} (hs : Formed s) {u : State} (e : unitError i s = some u) : Formed u := by
  grind [unitError, missOnce_formed, wordTrap_formed]

theorem toStands_formed {s : State} (hs : Formed s) : Formed (toStands s) := by
  grind [toStands, wordStall_formed, wordTrap_formed, → materialise_formed]

theorem runChecked_formed (i : Instr) {s : State} (hs : Formed s) (go : State → State) (hf : ∀ u, Formed u → Formed (go u)) :
    NextFormed (runChecked i s go) := by
  grind [runChecked, NextFormed, toStands_formed, wordTrap_formed, → unitError_formed]

theorem runWord_formed (i : Instr) {s : State} (hs : Formed s) (body : State → Res State)
    (hf : ∀ u v, Formed u → body u = .ok v → Formed v) : NextFormed (runWord i s body) := by
  grind [runWord, NextFormed, runChecked_formed, wordEnd_formed]

theorem runFlow_formed (i : Instr) {s : State} (hs : Formed s) (body : State → State) (hf : ∀ u, Formed u → Formed (body u)) :
    NextFormed (runFlow i s body) := by
  grind [runFlow, NextFormed, runChecked_formed]

/-! ### Access -/

theorem setFull_pad (t : Task) (lines : List Nat) (ht : t.pad.wf = true) : (setFull t lines).pad.wf = true := ht

theorem padWrite_pad (t : Task) (off : Nat) (bytes : List Byte) (ht : t.pad.wf = true) : (padWrite t off bytes).pad.wf = true :=
  Memory.wf_setBytes off bytes ht

theorem windowParts_formed (need : Need) (va lane at_ n : Nat) {s u : State} {x : List Part} (hs : Formed s)
    (e : windowParts need va lane at_ n s = .ok (u, x)) : Formed u := by
  induction n generalizing at_ s u x with
  | zero => grind [windowParts]
  | succ n ih => grind [windowParts, bind_eq_ok, xlat_eq_ok, translate_formed]

theorem spotOf_formed (need : Need) (window : Bool) (bad : PaKind → Bool) (va n lane : Nat) {s : State} (hs : Formed s)
    {u : State} {x : Spot} (e : spotOf need window bad va n lane s = .ok (u, x)) : Formed u := by
  grind [spotOf, bind_eq_ok, xlat_eq_ok, → translate_formed, → windowParts_formed]

theorem spotsOf_formed (need : Need) (window : Bool) (bad : PaKind → Bool) (n : Nat) (xs : List (Nat × Nat)) {s : State}
    (hs : Formed s) {u : State} {x : List Spot} (e : spotsOf need window bad n xs s = .ok (u, x)) : Formed u := by
  induction xs generalizing s u x with
  | nil => grind [spotsOf, bind_eq_ok, → spotOf_formed]
  | cons y l ih => grind [spotsOf, bind_eq_ok, → spotOf_formed]

theorem access_formed (need : Need) (window : Bool) (bad : PaKind → Bool) (size : Nat) (addr : Nat → Nat) (lanes : List Nat)
    {s : State} (hs : Formed s) {u : State} {x : List Spot} (e : access need window bad size addr lanes s = .ok (u, x)) : Formed u :=
  by
  grind [access, bind_eq_ok, → spotsOf_formed]

theorem dropCache_formed {s : State} (hs : Formed s) (line : Nat) : Formed (dropCache s line) := hs

theorem returnWct_formed {s : State} (hs : Formed s) (ctx tid w : Nat) : Formed (returnWct s ctx tid w) := by
  grind [returnWct, formed_iff, mapCtx_formed, mapTask_formed]

theorem addAtHome_formed {s : State} (hs : Formed s) (part pa home : Nat) (v : Addend) : Formed (addAtHome s part pa home v).1 := by
  grind [addAtHome, rmwAtHome_formed]

theorem serveFill_formed {s : State} (hs : Formed s) (q : Req) : Formed (serveFill s q) := by
  grind [serveFill, grantLease_formed, mapCore_formed, readAtHome_formed]

theorem serveReq_formed {s : State} (hs : Formed s) (q : Req) : Formed (serveReq s q) := by
  grind [serveReq, formed_iff, addAtHome_formed, mapCore_formed, noteMiss_formed, returnWct_formed, serveFill_formed,
    storeAtHome_formed]

theorem serveAll_formed {s : State} (hs : Formed s) (l : List Req) : Formed (serveAll s l) :=
  foldl_formed (fun _ q hu => serveReq_formed hu q) l hs

theorem flushLine_formed {s : State} (hs : Formed s) (line : Nat) {u : State} (e : flushLine s line = .ok u) : Formed u := by
  grind [flushLine, formed_iff, bind_eq_ok, serveAll_formed]

theorem flushCtx_formed {s : State} (hs : Formed s) (ctx : Nat) {u : State} (e : flushCtx s ctx = .ok u) : Formed u := by
  grind [flushCtx, formed_iff, bind_eq_ok, serveAll_formed]

theorem post_formed {s : State} (hs : Formed s) (p : Part) (lease : Nat) (k : ReqKind) : Formed (post s p lease k) := hs

theorem loadAtHome_formed {s : State} (hs : Formed s) (p : Part) (cached : Bool) : Formed (loadAtHome s p cached).1 := by
  grind [loadAtHome, formed_iff, dropCache_formed, grantLease_formed, noteMiss_formed, readAtHome_formed]

theorem loadPart_formed {s : State} (hs : Formed s) (lane : Nat) (p : Part) (cached : Bool) {u : State} {x : List Byte × Nat}
    (e : loadPart s lane p cached = .ok (u, x)) : Formed u := by
  grind [loadPart, bind_eq_ok, loadAtHome_formed, → flushLine_formed]

theorem loadParts_formed (cached : Bool) (lane : Nat) (xs : List Part) {s : State} (hs : Formed s) {u : State}
    {x : List Byte × Nat} (e : loadParts cached lane xs s = .ok (u, x)) : Formed u := by
  induction xs generalizing s u x with
  | nil => grind [loadParts, bind_eq_ok, → loadPart_formed]
  | cons y l ih => grind [loadParts, bind_eq_ok, → loadPart_formed]

theorem loadSpots_formed (cached : Bool) (xs : List Spot) {s : State} (hs : Formed s) {u : State} {x : List (Nat × Nat)}
    (e : loadSpots cached xs s = .ok (u, x)) : Formed u := by
  induction xs generalizing s u x with
  | nil => grind [loadSpots, bind_eq_ok, raiseHorizon_formed, → loadParts_formed]
  | cons y l ih => grind [loadSpots, bind_eq_ok, raiseHorizon_formed, → loadParts_formed]

theorem writeLoaded_formed {s : State} (hs : Formed s) (reg t size : Nat) (val : Nat → Nat) :
    Formed (writeLoaded s reg t size val) := by
  unfold writeLoaded
  split
  · exact hs
  · exact hs

theorem versionWrite_formed {s : State} (hs : Formed s) (p : Part) (bytes : List Byte) : Formed (versionWrite s p bytes).1 := by
  grind [versionWrite, formed_iff, noteMiss_formed, touchLine_formed]

theorem sendPart_formed {s : State} (hs : Formed s) (p : Part) (bytes : List Byte) : Formed (sendPart s p bytes) := by
  grind [sendPart, post_formed, raiseWrite_formed, versionWrite_formed]

theorem sendSpots_formed (val : Nat → List Byte) {s : State} (hs : Formed s) (spots : List Spot) : Formed (sendSpots val s spots) :=
  foldl_formed (fun _ a hu => foldl_formed (fun _ p hv => sendPart_formed hv p (val a.lane)) a.parts hu) spots hs

theorem flushParts_formed (xs : List Part) {s : State} (hs : Formed s) {u : State} (e : flushParts xs s = .ok u) : Formed u := by
  induction xs generalizing s u with
  | nil => grind [flushParts, bind_eq_ok, → flushLine_formed]
  | cons y l ih => grind [flushParts, bind_eq_ok, → flushLine_formed]

theorem storeSpots_formed {s t : State} (hs : Formed s) (spots : List Spot) (val : Nat → List Byte) (trap : Trap)
    (e : storeSpots s spots val trap = .ok t) : Formed t := by
  unfold storeSpots at e
  dsimp only at e
  split at e
  · cases e
  · simp only [bind_eq_ok] at e
    obtain ⟨u, hu, _, _, e⟩ := e
    have ku := flushParts_formed _ hs hu
    cases e
    refine sendSpots_formed val ?_ spots
    split
    · exact expose_formed ku
    · exact ku

theorem atomSpots_formed (op t bits : Nat) (y c : Nat → Nat) (lost : List Nat) (xs : List Spot) {s : State} (hs : Formed s)
    {u : State} {x : List (Nat × Nat)} (e : atomSpots op t bits y c lost xs s = .ok (u, x)) : Formed u := by
  induction xs generalizing s u x with
  | nil => grind [atomSpots, bind_eq_ok, dropCache_formed, noteMiss_formed, raiseWrite_formed, rmwAtHome_formed, → flushLine_formed]
  | cons y l ih =>
    grind [atomSpots, bind_eq_ok, dropCache_formed, noteMiss_formed, raiseWrite_formed, rmwAtHome_formed, → flushLine_formed]

theorem padAtoms_pad (op t bits : Nat) (off y c : Nat → Nat) (xs : List Nat) (v : Task) (ht : v.pad.wf = true) :
    (padAtoms op t bits off y c xs v).1.pad.wf = true := by
  induction xs generalizing v with
  | nil => grind [padAtoms, padWrite_pad]
  | cons y l ih => grind [padAtoms, padWrite_pad]

theorem readOnce_formed {s : State} (hs : Formed s) (va n lane : Nat) (cached : Bool) {u : State} {x : List Byte}
    (e : readOnce s va n lane cached = .ok (u, x)) : Formed u := by
  grind [readOnce, bind_eq_ok, raiseHorizon_formed, → loadParts_formed, → spotOf_formed]

/-! ### Affine -/

theorem affineWord_formed (i : Instr) (d : BitVec 7) {s : State} (hs : Formed s) : NextFormed (affineWord i d s) := by
  refine runFlow_formed _ hs _ fun u hu => ?_
  grind [setACode_formed, wordDone_formed, wordTrap_formed]

theorem execAadd_formed (d a b : BitVec 7) {s : State} (hs : Formed s) : NextFormed (execAadd d a b s) := affineWord_formed _ _ hs

theorem execAsub_formed (d a b : BitVec 7) {s : State} (hs : Formed s) : NextFormed (execAsub d a b s) := affineWord_formed _ _ hs

theorem execAmul_formed (d a b : BitVec 7) {s : State} (hs : Formed s) : NextFormed (execAmul d a b s) := affineWord_formed _ _ hs

theorem execAshl_formed (d a b : BitVec 7) {s : State} (hs : Formed s) : NextFormed (execAshl d a b s) := affineWord_formed _ _ hs

theorem execAshr_formed (d a b : BitVec 7) {s : State} (hs : Formed s) : NextFormed (execAshr d a b s) := affineWord_formed _ _ hs

theorem execAand_formed (d a b : BitVec 7) {s : State} (hs : Formed s) : NextFormed (execAand d a b s) := affineWord_formed _ _ hs

theorem execAor_formed (d a b : BitVec 7) {s : State} (hs : Formed s) : NextFormed (execAor d a b s) := affineWord_formed _ _ hs

theorem execAxor_formed (d a b : BitVec 7) {s : State} (hs : Formed s) : NextFormed (execAxor d a b s) := affineWord_formed _ _ hs

theorem execAmin_formed (d a b : BitVec 7) {s : State} (hs : Formed s) : NextFormed (execAmin d a b s) := affineWord_formed _ _ hs

theorem execAmax_formed (d a b : BitVec 7) {s : State} (hs : Formed s) : NextFormed (execAmax d a b s) := affineWord_formed _ _ hs

theorem execAcmpEq_formed (d a b : BitVec 7) {s : State} (hs : Formed s) : NextFormed (execAcmpEq d a b s) := affineWord_formed _ _ hs

theorem execAcmpNe_formed (d a b : BitVec 7) {s : State} (hs : Formed s) : NextFormed (execAcmpNe d a b s) := affineWord_formed _ _ hs

theorem execAcmpLt_formed (d a b : BitVec 7) {s : State} (hs : Formed s) : NextFormed (execAcmpLt d a b s) := affineWord_formed _ _ hs

theorem execAcmpLe_formed (d a b : BitVec 7) {s : State} (hs : Formed s) : NextFormed (execAcmpLe d a b s) := affineWord_formed _ _ hs

theorem execAcmpLtu_formed (d a b : BitVec 7) {s : State} (hs : Formed s) :
    NextFormed (execAcmpLtu d a b s) := affineWord_formed _ _ hs

theorem execAcmpLeu_formed (d a b : BitVec 7) {s : State} (hs : Formed s) :
    NextFormed (execAcmpLeu d a b s) := affineWord_formed _ _ hs

theorem execAaddi_formed (d a : BitVec 7) (imm : BitVec 11) {s : State} (hs : Formed s) :
    NextFormed (execAaddi d a imm s) := affineWord_formed _ _ hs

theorem execAmuli_formed (d a : BitVec 7) (imm : BitVec 11) {s : State} (hs : Formed s) :
    NextFormed (execAmuli d a imm s) := affineWord_formed _ _ hs

theorem execAshli_formed (d a : BitVec 7) (imm : BitVec 11) {s : State} (hs : Formed s) :
    NextFormed (execAshli d a imm s) := affineWord_formed _ _ hs

theorem execAshri_formed (d a : BitVec 7) (imm : BitVec 11) {s : State} (hs : Formed s) :
    NextFormed (execAshri d a imm s) := affineWord_formed _ _ hs

theorem execAmovi_formed (d : BitVec 7) (imm : BitVec 11) {s : State} (hs : Formed s) :
    NextFormed (execAmovi d imm s) := affineWord_formed _ _ hs

theorem execAandi_formed (d a : BitVec 7) (imm : BitVec 11) {s : State} (hs : Formed s) :
    NextFormed (execAandi d a imm s) := affineWord_formed _ _ hs

theorem execAld_formed (data : BitVec 7) (base : BitVec 5) (disp : BitVec 6) {s : State} (hs : Formed s) :
    NextFormed (execAld data base disp s) := by
  refine runWord_formed _ hs _ fun u v hu e => ?_
  grind [bind_eq_ok, setACode_formed, setUniform_formed, → access_formed, → loadSpots_formed]

/-! ### Vector -/

theorem laneWord_formed (i : Instr) (d : BitVec 7) (t : Tag) (signed : Bool) (val : State → Nat → Word32) {s : State}
    (hs : Formed s) : NextFormed (laneWord i d t signed val s) := by
  refine runWord_formed _ hs _ fun u v hu e => ?_
  grind [→ setDest_formed]

theorem intWord_formed (i : Instr) (d a b : BitVec 7) (f : Nat) (op : Int → Int → Int) {s : State} (hs : Formed s) :
    NextFormed (intWord i d a b f op s) := laneWord_formed _ _ _ _ _ hs

theorem sumWord_formed (i : Instr) (d a b : BitVec 7) (f : Nat) (op : Int → Int → Int) {s : State} (hs : Formed s) :
    NextFormed (sumWord i d a b f op s) := by
  refine runWord_formed _ hs _ fun u v hu e => ?_
  grind [→ setDest_formed]

theorem execIadd_formed (d a b : BitVec 7) (f : BitVec 4) {s : State} (hs : Formed s) :
    NextFormed (execIadd d a b f s) := sumWord_formed _ _ _ _ _ _ hs

theorem execIsub_formed (d a b : BitVec 7) (f : BitVec 4) {s : State} (hs : Formed s) :
    NextFormed (execIsub d a b f s) := sumWord_formed _ _ _ _ _ _ hs

theorem execImul_formed (d a b : BitVec 7) (f : BitVec 4) {s : State} (hs : Formed s) :
    NextFormed (execImul d a b f s) := intWord_formed _ _ _ _ _ _ hs

theorem execImulh_formed (d a b : BitVec 7) (f3 : BitVec 3) {s : State} (hs : Formed s) :
    NextFormed (execImulh d a b f3 s) := intWord_formed _ _ _ _ _ _ hs

theorem execImad_formed (d a b : BitVec 7) (f : BitVec 4) {s : State} (hs : Formed s) :
    NextFormed (execImad d a b f s) := laneWord_formed _ _ _ _ _ hs

theorem execImin_formed (d a b : BitVec 7) (f3 : BitVec 3) {s : State} (hs : Formed s) :
    NextFormed (execImin d a b f3 s) := intWord_formed _ _ _ _ _ _ hs

theorem execImax_formed (d a b : BitVec 7) (f3 : BitVec 3) {s : State} (hs : Formed s) :
    NextFormed (execImax d a b f3 s) := intWord_formed _ _ _ _ _ _ hs

theorem execIabs_formed (d a : BitVec 7) (f : BitVec 4) {s : State} (hs : Formed s) :
    NextFormed (execIabs d a f s) := laneWord_formed _ _ _ _ _ hs

theorem execIcmp_formed (d a b : BitVec 7) (f3 : BitVec 3) {s : State} (hs : Formed s) :
    NextFormed (execIcmp d a b f3 s) := runWord_formed _ hs _ fun _ _ hu e => by cases e; exact hu

theorem execSel_formed (d a b : BitVec 7) (f3 : BitVec 3) {s : State} (hs : Formed s) : NextFormed (execSel d a b f3 s) := by
  refine runWord_formed _ hs _ fun u v hu e => ?_
  grind [→ setDest_formed]

theorem bitWord_formed (i : Instr) (d a b : BitVec 7) (op : Word32 → Word32 → Word32) {s : State} (hs : Formed s) :
    NextFormed (bitWord i d a b op s) := laneWord_formed _ _ _ _ _ hs

theorem execAnd_formed (d a b : BitVec 7) {s : State} (hs : Formed s) : NextFormed (execAnd d a b s) := bitWord_formed _ _ _ _ _ hs

theorem execOr_formed (d a b : BitVec 7) {s : State} (hs : Formed s) : NextFormed (execOr d a b s) := bitWord_formed _ _ _ _ _ hs

theorem execXor_formed (d a b : BitVec 7) {s : State} (hs : Formed s) : NextFormed (execXor d a b s) := bitWord_formed _ _ _ _ _ hs

theorem execAndn_formed (d a b : BitVec 7) {s : State} (hs : Formed s) : NextFormed (execAndn d a b s) := bitWord_formed _ _ _ _ _ hs

theorem execShl_formed (d a b : BitVec 7) {s : State} (hs : Formed s) : NextFormed (execShl d a b s) := bitWord_formed _ _ _ _ _ hs

theorem execShr_formed (d a b : BitVec 7) {s : State} (hs : Formed s) : NextFormed (execShr d a b s) := bitWord_formed _ _ _ _ _ hs

theorem execSar_formed (d a b : BitVec 7) {s : State} (hs : Formed s) : NextFormed (execSar d a b s) := bitWord_formed _ _ _ _ _ hs

theorem execRotl_formed (d a b : BitVec 7) {s : State} (hs : Formed s) : NextFormed (execRotl d a b s) := bitWord_formed _ _ _ _ _ hs

theorem execPopc_formed (d a : BitVec 7) {s : State} (hs : Formed s) : NextFormed (execPopc d a s) := laneWord_formed _ _ _ _ _ hs

theorem execClz_formed (d a : BitVec 7) {s : State} (hs : Formed s) : NextFormed (execClz d a s) := laneWord_formed _ _ _ _ _ hs

theorem execBrev_formed (d a : BitVec 7) {s : State} (hs : Formed s) : NextFormed (execBrev d a s) := laneWord_formed _ _ _ _ _ hs

theorem execBlut_formed (d a b : BitVec 7) {s : State} (hs : Formed s) : NextFormed (execBlut d a b s) := laneWord_formed _ _ _ _ _ hs

theorem execBshuf_formed (d a b : BitVec 7) {s : State} (hs : Formed s) :
    NextFormed (execBshuf d a b s) := laneWord_formed _ _ _ _ _ hs

theorem byteWord_formed (i : Instr) (d a b : BitVec 7) (op : Nat → Nat → Nat) {s : State} (hs : Formed s) :
    NextFormed (byteWord i d a b op s) := laneWord_formed _ _ _ _ _ hs

theorem execBcmpEq_formed (d a b : BitVec 7) {s : State} (hs : Formed s) :
    NextFormed (execBcmpEq d a b s) := byteWord_formed _ _ _ _ _ hs

theorem execBcmpLt_formed (d a b : BitVec 7) {s : State} (hs : Formed s) :
    NextFormed (execBcmpLt d a b s) := byteWord_formed _ _ _ _ _ hs

theorem execBcmpLtu_formed (d a b : BitVec 7) {s : State} (hs : Formed s) :
    NextFormed (execBcmpLtu d a b s) := byteWord_formed _ _ _ _ _ hs

theorem execBaddsI8_formed (d a b : BitVec 7) {s : State} (hs : Formed s) :
    NextFormed (execBaddsI8 d a b s) := byteWord_formed _ _ _ _ _ hs

theorem execBaddsN8_formed (d a b : BitVec 7) {s : State} (hs : Formed s) :
    NextFormed (execBaddsN8 d a b s) := byteWord_formed _ _ _ _ _ hs

theorem execLshc_formed (d a b : BitVec 7) (f : BitVec 4) {s : State} (hs : Formed s) :
    NextFormed (execLshc d a b f s) := laneWord_formed _ _ _ _ _ hs

theorem execXperm_formed (d a b : BitVec 7) {s : State} (hs : Formed s) :
    NextFormed (execXperm d a b s) := laneWord_formed _ _ _ _ _ hs

/-! ### Float -/

theorem raiseFlags_formed {s : State} (hs : Formed s) (flags : Nat) : Formed (raiseFlags s flags) := hs

theorem floatEnd_formed {s : State} (hs : Formed s) (res : Nat → LaneRes) (dest : State → Res State)
    (hf : ∀ u v, Formed u → dest u = .ok v → Formed v) : Formed (floatEnd s res dest) := by
  grind [floatEnd, raiseFlags_formed, setLfsr_formed, wordDone_formed, wordStall_formed, wordTrap_formed]

theorem floatDest_formed {s : State} (hs : Formed s) (d : BitVec 7) (bits : Nat) (t : Tag) (val : Nat → Nat) {u : State}
    (e : floatDest s d bits t val = .ok u) : Formed u := by
  grind [floatDest, setVPair_formed, → setDest_formed]

theorem floatWord_formed (i : Instr) (d : BitVec 7) (f : Nat) (srcs : State → List Src) (op : Fmt → Round → List Nat → FRes)
    {s : State} (hs : Formed s) : NextFormed (floatWord i d f srcs op s) := by
  refine runFlow_formed _ hs _ fun u hu => ?_
  grind [floatEnd_formed, → floatDest_formed]

theorem execFadd_formed (d a b : BitVec 7) (f : BitVec 4) {s : State} (hs : Formed s) :
    NextFormed (execFadd d a b f s) := floatWord_formed _ _ _ _ _ hs

theorem execFsub_formed (d a b : BitVec 7) (f : BitVec 4) {s : State} (hs : Formed s) :
    NextFormed (execFsub d a b f s) := floatWord_formed _ _ _ _ _ hs

theorem execFmul_formed (d a b : BitVec 7) (f : BitVec 4) {s : State} (hs : Formed s) :
    NextFormed (execFmul d a b f s) := floatWord_formed _ _ _ _ _ hs

theorem execFma_formed (d a b : BitVec 7) (f : BitVec 4) {s : State} (hs : Formed s) :
    NextFormed (execFma d a b f s) := floatWord_formed _ _ _ _ _ hs

theorem execFmin_formed (d a b : BitVec 7) {s : State} (hs : Formed s) : NextFormed (execFmin d a b s) := floatWord_formed _ _ _ _ _ hs

theorem execFmax_formed (d a b : BitVec 7) {s : State} (hs : Formed s) : NextFormed (execFmax d a b s) := floatWord_formed _ _ _ _ _ hs

theorem execFdiv_formed (d a b : BitVec 7) (f : BitVec 4) {s : State} (hs : Formed s) :
    NextFormed (execFdiv d a b f s) := floatWord_formed _ _ _ _ _ hs

theorem unitWord_formed (i : Instr) (n : Nat) (d a : BitVec 7) (f : BitVec 4) {s : State} (hs : Formed s) :
    NextFormed (unitWord i n d a f s) := floatWord_formed _ _ _ _ _ hs

theorem execFsqrt_formed (d a : BitVec 7) (f : BitVec 4) {s : State} (hs : Formed s) :
    NextFormed (execFsqrt d a f s) := unitWord_formed _ _ _ _ _ hs

theorem execFrcp_formed (d a : BitVec 7) (f : BitVec 4) {s : State} (hs : Formed s) :
    NextFormed (execFrcp d a f s) := unitWord_formed _ _ _ _ _ hs

theorem execFrsq_formed (d a : BitVec 7) (f : BitVec 4) {s : State} (hs : Formed s) :
    NextFormed (execFrsq d a f s) := unitWord_formed _ _ _ _ _ hs

theorem execFexp2_formed (d a : BitVec 7) (f : BitVec 4) {s : State} (hs : Formed s) :
    NextFormed (execFexp2 d a f s) := unitWord_formed _ _ _ _ _ hs

theorem execFlog2_formed (d a : BitVec 7) (f : BitVec 4) {s : State} (hs : Formed s) :
    NextFormed (execFlog2 d a f s) := unitWord_formed _ _ _ _ _ hs

theorem execFsin_formed (d a : BitVec 7) (f : BitVec 4) {s : State} (hs : Formed s) :
    NextFormed (execFsin d a f s) := unitWord_formed _ _ _ _ _ hs

theorem execFcos_formed (d a : BitVec 7) (f : BitVec 4) {s : State} (hs : Formed s) :
    NextFormed (execFcos d a f s) := unitWord_formed _ _ _ _ _ hs

theorem execFcmp_formed (d a b : BitVec 7) {s : State} (hs : Formed s) : NextFormed (execFcmp d a b s) := by
  refine runFlow_formed _ hs _ fun u hu => ?_
  grind [floatEnd_formed, setP_formed]

theorem execFclass_formed (d a : BitVec 7) {s : State} (hs : Formed s) : NextFormed (execFclass d a s) := by
  refine runWord_formed _ hs _ fun u v hu e => ?_
  grind [→ setDest_formed]

theorem setGroup_formed (val : Nat → Nat) (t : Tag) (reg n : Nat) {s : State} (hs : Formed s) : Formed (setGroup val t reg n s) := by
  induction n generalizing val reg s with
  | zero => exact hs
  | succ n ih => exact ih _ _ (setV_formed hs _ _ _)

theorem execCvt_formed (d a : BitVec 7) (dt : BitVec 5) (f : BitVec 4) {s : State} (hs : Formed s) :
    NextFormed (execCvt d a dt f s) := by
  refine runFlow_formed _ hs _ fun u hu => ?_
  grind [floatEnd_formed, setGroup_formed, → setDest_formed]

theorem scanEnd_formed {s : State} (hs : Formed s) (d : BitVec 7) (op : Nat) (st : ScanState) (val : Nat → Nat) :
    Formed (scanEnd s d op st val) := by
  grind [scanEnd, floatEnd_formed, → floatDest_formed, → setDest_formed]

theorem execVscan_formed (d a : BitVec 7) (f : BitVec 4) {s : State} (hs : Formed s) :
    NextFormed (execVscan d a f s) := runFlow_formed _ hs _ fun _ hu => scanEnd_formed hu _ _ _ _

theorem execVred_formed (d a : BitVec 7) (f : BitVec 4) {s : State} (hs : Formed s) :
    NextFormed (execVred d a f s) := runFlow_formed _ hs _ fun _ hu => scanEnd_formed hu _ _ _ _

/-! ### Memory -/

theorem loadWord_formed (i : Instr) (data : BitVec 7) (base index : BitVec 5) (scale : BitVec 2) (disp : BitVec 6) (cached : Bool)
    {s : State} (hs : Formed s) : NextFormed (loadWord i data base index scale disp cached s) := by
  refine runWord_formed _ hs _ fun u v hu e => ?_
  grind [bind_eq_ok, writeLoaded_formed, → access_formed, → loadSpots_formed]

theorem execLdg_formed (data : BitVec 7) (base index : BitVec 5) (scale : BitVec 2) (disp : BitVec 6) {s : State}
    (hs : Formed s) : NextFormed (execLdg data base index scale disp s) := loadWord_formed _ _ _ _ _ _ _ hs

theorem execLdgF_formed (data : BitVec 7) (base index : BitVec 5) (scale : BitVec 2) (disp : BitVec 6) {s : State}
    (hs : Formed s) : NextFormed (execLdgF data base index scale disp s) := loadWord_formed _ _ _ _ _ _ _ hs

theorem execLdk_formed (data : BitVec 7) (base : BitVec 5) (scale : BitVec 2) (disp : BitVec 6) {s : State} (hs : Formed s) :
    NextFormed (execLdk data base scale disp s) := by
  refine runWord_formed _ hs _ fun u v hu e => ?_
  grind [bind_eq_ok, writeLoaded_formed, → access_formed, → loadSpots_formed]

theorem prefLane_formed {s : State} (hs : Formed s) (va lane : Nat) : Formed (prefLane s va lane) := by
  grind [prefLane, bind_eq_ok, post_formed, → spotOf_formed]

theorem execPref_formed (base index : BitVec 5) (scale : BitVec 2) (disp : BitVec 6) {s : State} (hs : Formed s) :
    NextFormed (execPref base index scale disp s) := by
  refine runWord_formed _ hs _ fun u v hu e => ?_
  cases e
  exact foldl_formed (fun _ l hv => prefLane_formed hv _ l) _ hu

theorem execStg_formed (data : BitVec 7) (base index : BitVec 5) (scale : BitVec 2) (disp : BitVec 6) {s : State}
    (hs : Formed s) : NextFormed (execStg data base index scale disp s) := by
  refine runWord_formed _ hs _ fun u v hu e => ?_
  grind [bind_eq_ok, → access_formed, → storeSpots_formed]

theorem execLdp_formed (data : BitVec 7) (base index : BitVec 5) (scale : BitVec 2) (disp : BitVec 6) {s : State}
    (hs : Formed s) : NextFormed (execLdp data base index scale disp s) := by
  refine runWord_formed _ hs _ fun u v hu e => ?_
  simp only [bind_eq_ok] at e
  obtain ⟨_, _, _, _, e⟩ := e
  cases e
  exact writeLoaded_formed hu _ _ _ _

theorem foldl_pad {α : Type} {f : Task → α → Task} (hf : ∀ t x, t.pad.wf = true → (f t x).pad.wf = true) (l : List α) {t : Task}
    (ht : t.pad.wf = true) : (l.foldl f t).pad.wf = true := by
  induction l generalizing t with
  | nil => exact ht
  | cons x l ih => exact ih (hf t x ht)

theorem execStp_formed (data : BitVec 7) (base index : BitVec 5) (scale : BitVec 2) (disp : BitVec 6) {s : State} (hs : Formed s) :
    NextFormed (execStp data base index scale disp s) := by
  refine runWord_formed _ hs _ fun u v hu e => ?_
  simp only [bind_eq_ok] at e
  obtain ⟨_, _, _, _, e⟩ := e
  cases e
  exact hu.withTask (foldl_pad (fun _ _ ht => padWrite_pad _ _ _ ht) _ hu.task)

theorem execXsum_formed (data : BitVec 7) (base index : BitVec 5) (scale : BitVec 2) (disp : BitVec 6) {s : State} (hs : Formed s) :
    NextFormed (execXsum data base index scale disp s) := by
  refine runWord_formed _ hs _ fun u v hu e => ?_
  simp only [bind_eq_ok] at e
  obtain ⟨q, hq, w, hw, _, _, e⟩ := e
  have kw := flushParts_formed _ (access_formed _ _ _ _ _ _ hu hq) hw
  cases e
  exact expose_formed (foldl_formed (fun _ a h => foldl_formed (fun _ p h => foldl_formed (fun _ _ h => post_formed h p 0 _) _ h) _ h) _ kw)

theorem execSumrd_formed (data : BitVec 7) (base index : BitVec 5) (scale : BitVec 2) (disp : BitVec 6) {s : State}
    (hs : Formed s) : NextFormed (execSumrd data base index scale disp s) := by
  refine runWord_formed _ hs _ fun u v hu e => ?_
  grind [bind_eq_ok, setVPair_formed, setV_formed, → access_formed, → loadSpots_formed]

theorem writeAtom_formed {s : State} (hs : Formed s) (d : BitVec 7) (t : Nat) (lane : Nat) (val : Nat → Nat) :
    Formed (writeAtom s d t lane val) := by
  grind [writeAtom, setUniform_formed, setVPair_formed, setV_formed]

theorem writeAtomBut_formed {s : State} (hs : Formed s) (d : BitVec 7) (t : Nat) (lost : List Nat) (val : Nat → Nat) :
    Formed (writeAtomBut s d t lost val) := by
  grind [writeAtomBut, setVMask_formed]

theorem atomgEnd_formed {s : State} (hs : Formed s) (d : BitVec 7) (t : Nat) (spots : List Spot) (bad applied : List Nat)
    (val : Nat → Nat) : Formed (atomgEnd s d t spots bad applied val) := by
  grind [atomgEnd, formed_iff, wordDone_formed, wordTrap_formed, writeAtomBut_formed, writeAtom_formed]

theorem execAtomg_formed (d : BitVec 7) (areg : BitVec 5) (b : BitVec 7) (f : BitVec 4) {s : State} (hs : Formed s) :
    NextFormed (execAtomg d areg b f s) := by
  refine runFlow_formed _ hs _ fun u hu => ?_
  grind [bind_eq_ok, atomgEnd_formed, expose_formed, wordStall_formed, wordTrap_formed, → access_formed, → atomSpots_formed]

theorem execAtomp_formed (d : BitVec 7) (areg : BitVec 5) (b : BitVec 7) (f : BitVec 4) {s : State} (hs : Formed s) :
    NextFormed (execAtomp d areg b f s) := by
  refine runWord_formed _ hs _ fun u v hu e => ?_
  grind [formed_iff, bind_eq_ok, padAtoms_pad, writeAtom_formed]

theorem execAtomr_formed (d : BitVec 7) (areg : BitVec 5) (b : BitVec 7) (f : BitVec 4) {s : State} (hs : Formed s) :
    NextFormed (execAtomr d areg b f s) := by
  refine runFlow_formed _ hs _ fun u hu => ?_
  grind [formed_iff, wordStall_formed, wordTrap_formed]

/-! ### Ctx -/

theorem peerTask_pad {s : State} (hs : Formed s) {core serial : Nat} {t : Task} (e : peerTask s core serial = some t) :
    t.pad.wf = true :=
  ((liveTasks_padsOk hs).filter _) t (mem_of_leastBy e)

/-! ### Memory -/

theorem remoteRun_formed (serial op t n : Nat) (l : List RemoteLane) {s : State} (hs : Formed s) :
    Formed (remoteRun serial op t n l s).1 := by
  induction l generalizing s with
  | nil => exact hs
  | cons y l ih => grind [remoteRun, padWrite_pad, → peerTask_pad, putTask_formed]

theorem serveAt_formed {s : State} (hs : Formed s) (p : Req → Bool) (n : Nat) : Formed (serveAt s p n) := by
  grind [serveAt, formed_iff, sendBackInvalidate_formed, serveReq_formed]

theorem settleReq_formed {s : State} (hs : Formed s) (p : Req → Bool) (n : Nat) : Formed (settleReq s p n) := by
  grind [settleReq, serveAt_formed, settle_formed]

theorem execHomeLoad_formed (n : Nat) {s : State} (hs : Formed s) :
    NextFormed (execHomeLoad n s) := by intro u e; cases e; exact settleReq_formed hs _ _

theorem execHomeStore_formed (n : Nat) {s : State} (hs : Formed s) :
    NextFormed (execHomeStore n s) := by intro u e; cases e; exact settleReq_formed hs _ _

theorem execHomeAtomic_formed (n : Nat) {s : State} (hs : Formed s) :
    NextFormed (execHomeAtomic n s) := by intro u e; cases e; exact settleReq_formed hs _ _

/-! ### Copies -/

theorem lineParts_formed (need : Need) (bad : PaKind → Bool) (fuel : Nat) (k : Nat) (j : Nat) {s : State} (hs : Formed s)
    {u : State} {x : List Part} (e : lineParts need bad fuel k j s = .ok (u, x)) : Formed u := by
  induction fuel generalizing k j s u x with
  | zero => grind [lineParts, bind_eq_ok, → spotOf_formed]
  | succ n ih => grind [lineParts, bind_eq_ok, → spotOf_formed]

theorem copyParts_formed (need : Need) (bad : PaKind → Bool) (va n : Nat) {s : State} (hs : Formed s) {u : State} {x : List Part}
    (e : copyParts need bad va n s = .ok (u, x)) : Formed u := by
  grind [copyParts, → lineParts_formed]

theorem copyRead_formed (va n : Nat) {s : State} (hs : Formed s) {u : State} {x : List Byte × Nat}
    (e : copyRead va n s = .ok (u, x)) : Formed u := by
  grind [copyRead, bind_eq_ok, → copyParts_formed, → loadParts_formed]

theorem writeParts_formed (xs : List Part) (ys : List Byte) {s : State} (hs : Formed s) : Formed (writeParts xs ys s).1 := by
  induction xs generalizing ys s with
  | nil => grind [writeParts, formed_iff, expose_formed, noteMiss_formed, storeAtHome_formed, versionWrite_formed]
  | cons y l ih => grind [writeParts, formed_iff, expose_formed, noteMiss_formed, storeAtHome_formed, versionWrite_formed]

theorem copyWrite_formed (va : Nat) (bytes : List Byte) {s : State} (hs : Formed s) {u : State} {x : Nat}
    (e : copyWrite va bytes s = .ok (u, x)) : Formed u := by
  grind [copyWrite, bind_eq_ok, writeParts_formed, → copyParts_formed, → flushParts_formed]

theorem homeBytes_formed (xs : List Part) {s : State} (hs : Formed s) : Formed (homeBytes xs s).1 := by
  induction xs generalizing s with
  | nil => grind [homeBytes, moveForAtomic_formed, readAtHome_formed]
  | cons y l ih => grind [homeBytes, moveForAtomic_formed, readAtHome_formed]

theorem homeWrite_formed (xs : List Part) (ys : List Byte) {s : State} (hs : Formed s) : Formed (homeWrite xs ys s).1 := by
  induction xs generalizing ys s with
  | nil => grind [homeWrite, dropCache_formed, storeAtHome_formed]
  | cons y l ih => grind [homeWrite, dropCache_formed, storeAtHome_formed]

theorem copyAtomic_formed (l : Layout) (va n : Nat) (f : List Byte → List Byte) {s u : State} (hs : Formed s) {x : Nat}
    (e : copyAtomic l va n f s = .ok (u, x)) : Formed u := by
  simp only [copyAtomic, bind_eq_ok] at e
  obtain ⟨q, hq, w, hw, _, _, _, _, e⟩ := e
  have kw := flushParts_formed _ (copyParts_formed _ _ _ _ hs hq) hw
  have kn := foldl_formed (fun u p hu => noteMiss_formed hu u.task.part (some p.va) p.pa) q.2 kw
  have ku := homeWrite_formed q.2 (f (homeBytes q.2 (q.2.foldl (fun s p => noteMiss s s.task.part (some p.va) p.pa) w)).2)
    (expose_formed (homeBytes_formed q.2 kn))
  rwa [Res.ok.inj e] at ku

theorem rotWrite_pad (code off : Nat) (bytes : List Byte) (t : Task) (ht : t.pad.wf = true) :
    (rotWrite code off bytes t).pad.wf = true := by
  induction bytes generalizing off t with
  | nil => exact ht
  | cons b bytes ih => exact ih _ _ (Memory.wf_set _ _ ht)

theorem copyFill_formed {s : State} (hs : Formed s) (c : Copy) (code off : Nat) (bytes : List Byte) (last : Bool) {u : State}
    (e : copyFill s c code off bytes last = .ok u) : Formed u := by
  grind [copyFill, formed_iff, bind_eq_ok, rotWrite_pad, setFull_pad]

theorem elemSource_formed (l : Layout) (coords : List Int) (dense n : Nat) {s : State} (hs : Formed s) {u : State}
    {x : List Byte × Nat} (e : elemSource l coords dense n s = .ok (u, x)) : Formed u := by
  grind [elemSource, bind_eq_ok, → copyRead_formed]

theorem compareElem_formed (l : Layout) (coords : List Int) (dense n : Nat) (c : Copy) {s : State} (hs : Formed s) {u : State}
    {x : Copy} (e : compareElem l coords dense n c s = .ok (u, x)) : Formed u := by
  grind [compareElem, formed_iff, bind_eq_ok, → copyRead_formed]

theorem fingerElem_formed (l : Layout) (coords : List Int) (dense n : Nat) (last : Bool) (c : Copy) {s : State} (hs : Formed s)
    {u : State} {x : Copy} (e : fingerElem l coords dense n last c s = .ok (u, x)) : Formed u := by
  grind [fingerElem, formed_iff, bind_eq_ok, → copyFill_formed, → copyWrite_formed, → elemSource_formed]

theorem exactElem_formed (l : Layout) (coords : List Int) (dense n : Nat) (c : Copy) {s : State} (hs : Formed s) {u : State}
    {x : Copy} (e : exactElem l coords dense n c s = .ok (u, x)) : Formed u := by
  grind [exactElem, bind_eq_ok, → copyAtomic_formed, → copyFill_formed, → elemSource_formed]

theorem storeElem_formed (l : Layout) (coords : List Int) (dense n : Nat) (last : Bool) (c : Copy) {s : State} (hs : Formed s)
    {u : State} {x : Copy} (e : storeElem l coords dense n last c s = .ok (u, x)) : Formed u := by
  grind [storeElem, bind_eq_ok, → copyAtomic_formed, → copyFill_formed, → copyWrite_formed, → elemSource_formed]

theorem layoutElem_formed (l : Layout) (coords : List Int) (dense n : Nat) (last : Bool) (c : Copy) {s : State} (hs : Formed s)
    {u : State} {x : Copy} (e : layoutElem l coords dense n last c s = .ok (u, x)) : Formed u := by
  grind [layoutElem, → compareElem_formed, → exactElem_formed, → fingerElem_formed, → storeElem_formed]

theorem queueCopy_formed {s : State} (hs : Formed s) (ch : Nat) (k : CopyKind) {u : State} (e : queueCopy s ch k = .ok u) :
    Formed u := by
  unfold queueCopy at e
  split at e
  · cases e
  · cases e; exact hs.same

theorem issueCopy_formed {s : State} (hs : Formed s) (lane ch k dense : Nat) (barrier : Option Nat) (bytes : List Byte)
    {u : State} (e : issueCopy s lane ch k dense barrier bytes = .ok u) : Formed u := by
  grind [issueCopy, → queueCopy_formed]

theorem copyWord_formed (i : Instr) (d a b : BitVec 7) (ch : BitVec 2) (readRec : State → Nat → Nat → Res (State × List Byte))
    {s : State} (hs : Formed s) (hf : ∀ u a b t x, Formed u → readRec u a b = .ok (t, x) → Formed t) :
    NextFormed (copyWord i d a b ch readRec s) := by
  refine runFlow_formed _ hs _ fun u hu => ?_
  grind [toStands_formed, wordDone_formed, wordEnd_formed, wordStall_formed, wordTrap_formed, → issueCopy_formed]

theorem execCpy_formed (d a b : BitVec 7) (ch : BitVec 2) {s : State} (hs : Formed s) : NextFormed (execCpy d a b ch s) := by
  grind [execCpy, NextFormed, copyWord_formed, → readOnce_formed]

theorem execCpyi_formed (d a b : BitVec 7) (ch : BitVec 2) {s : State} (hs : Formed s) : NextFormed (execCpyi d a b ch s) := by
  grind [execCpyi, bind_eq_ok, NextFormed, copyWord_formed]

theorem execCseal_formed {s : State} (hs : Formed s) : NextFormed (execCseal s) := by
  refine runWord_formed _ hs _ fun u v hu e => ?_
  grind [→ sealBatch_formed]

theorem waitBatch_formed {s : State} (hs : Formed s) (matrix : Bool) (n : Nat) : Formed (waitBatch s matrix n) := by
  grind [waitBatch, formed_iff, raiseHorizon_formed, raiseWrite_formed, wordDone_formed, wordStall_formed, wordTrap_formed]

theorem execCwait_formed (b : BitVec 7) {s : State} (hs : Formed s) :
    NextFormed (execCwait b s) := runFlow_formed _ hs _ fun _ hu => waitBatch_formed hu _ _

/-! ### Control -/

theorem execNop_formed {s : State} (hs : Formed s) :
    NextFormed (execNop s) := runWord_formed _ hs _ fun _ _ hu e => by cases e; exact hu

theorem execXpfx_formed (kind : BitVec 3) (payload : BitVec 22) {s : State} (hs : Formed s) :
    NextFormed (execXpfx kind payload s) := by
  grind [execXpfx, NextFormed, mapPath_formed, wordTrap_formed]

theorem execMatl_formed {s : State} (hs : Formed s) :
    NextFormed (execMatl s) := runWord_formed _ hs _ fun _ _ hu e => by cases e; exact hu

theorem execTime_formed (d : BitVec 7) {s : State} (hs : Formed s) :
    NextFormed (execTime d s) := runWord_formed _ hs _ fun _ _ hu e => by cases e; exact hu

theorem execLaneid_formed (d : BitVec 7) {s : State} (hs : Formed s) :
    NextFormed (execLaneid d s) := runWord_formed _ hs _ fun _ _ hu e => by cases e; exact hu

theorem execIdx_formed (d b : BitVec 7) {s : State} (hs : Formed s) :
    NextFormed (execIdx d b s) := runWord_formed _ hs _ fun _ _ hu e => by cases e; exact hu

theorem execLocq_formed (d a : BitVec 7) {s : State} (hs : Formed s) : NextFormed (execLocq d a s) := by
  refine runWord_formed _ hs _ fun u v hu e => ?_
  grind [xlat_eq_ok, setUniform_formed, → translate_formed]

theorem execXset_formed (d b : BitVec 7) {s : State} (hs : Formed s) :
    NextFormed (execXset d b s) := runWord_formed _ hs _ fun _ _ hu e => by cases e; exact hu

theorem execBra_formed (disp : BitVec 16) {s : State} (hs : Formed s) :
    NextFormed (execBra disp s) := runWord_formed _ hs _ fun _ _ hu e => by cases e; exact hu

theorem execCall_formed (disp : BitVec 16) {s : State} (hs : Formed s) : NextFormed (execCall disp s) := by
  refine runWord_formed _ hs _ fun u v hu e => ?_
  grind [goTo_formed, mapPath_formed]

theorem execRet_formed {s : State} (hs : Formed s) : NextFormed (execRet s) := by
  refine runWord_formed _ hs _ fun u v hu e => ?_
  grind [goTo_formed, mapPath_formed]

theorem execLoop_formed (reg : BitVec 5) (disp : BitVec 16) {s : State} (hs : Formed s) :
    NextFormed (execLoop reg disp s) := runWord_formed _ hs _ fun _ _ hu e => by cases e; exact hu

theorem branchPath_formed {s : State} (hs : Formed s) (taken : Word64) (target : BitVec 32) : Formed (branchPath s taken target) := by
  grind [branchPath, formed_iff, goTo_formed, wordDone_formed, wordTrap_formed]

theorem branchTract_formed {s : State} (hs : Formed s) (cond : Nat) (f : AReg) (target : BitVec 32) :
    Formed (branchTract s cond f target) := by
  grind [branchTract, goTo_formed, wordDone_formed, wordEnd_formed, → splitTract_formed]

theorem execBrc_formed (cond : BitVec 4) (reg : BitVec 5) (disp : BitVec 16) {s : State} (hs : Formed s) :
    NextFormed (execBrc cond reg disp s) := by
  refine runFlow_formed _ hs _ fun u hu => ?_
  grind [branchPath_formed, branchTract_formed]

theorem execBrv_formed (sense : BitVec 1) (preg : BitVec 3) (disp : BitVec 16) {s : State} (hs : Formed s) :
    NextFormed (execBrv sense preg disp s) := runFlow_formed _ hs _ fun _ hu => branchPath_formed hu _ _

theorem execBrx_formed (a : BitVec 7) {s : State} (hs : Formed s) : NextFormed (execBrx a s) := by
  refine runFlow_formed _ hs _ fun u hu => ?_
  grind [formed_iff, goTo_formed, mapPath_formed, wordDone_formed, wordTrap_formed]

theorem execJoin_formed {s : State} (hs : Formed s) : NextFormed (execJoin s) := by
  refine runFlow_formed _ hs _ fun u hu => ?_
  grind [formed_iff, endContext_formed, wordDone_formed, wordTrap_formed]

theorem mergeAll_formed (first n : Nat) (fuel : Nat) {s : State} (hs : Formed s) : Formed (mergeAll first n fuel s) := by
  induction fuel generalizing s with
  | zero => grind [mergeAll, formed_iff]
  | succ n ih => grind [mergeAll, formed_iff]

theorem waitRejoin_formed {s : State} (hs : Formed s) (first n : Nat) :
    Formed (waitRejoin s first n) := mergeAll_formed _ _ _ (wordDone_formed hs)

theorem execRjoin_formed (a b : BitVec 7) {s : State} (hs : Formed s) : NextFormed (execRjoin a b s) := by
  refine runFlow_formed _ hs _ fun u hu => ?_
  grind [formed_iff, waitRejoin_formed, wordDone_formed, wordStall_formed, wordTrap_formed, → flushCtx_formed]

theorem execYield_formed {s : State} (hs : Formed s) :
    NextFormed (execYield s) := runWord_formed _ hs _ fun _ _ hu e => by cases e; exact hu

theorem execExit_formed {s : State} (hs : Formed s) : NextFormed (execExit s) := by
  refine runFlow_formed _ hs _ fun u hu => ?_
  grind [abortTask_formed, endPath_formed, endTract_formed]

theorem execTrap_formed (b : BitVec 7) {s : State} (hs : Formed s) : NextFormed (execTrap b s) := by
  refine runWord_formed _ hs _ fun u v hu e => ?_
  grind []

theorem execHret_formed {s : State} (hs : Formed s) : NextFormed (execHret s) := by
  refine runFlow_formed _ hs _ fun u hu => ?_
  grind [returnFromHandler_formed, wordTrap_formed]

theorem execLread_formed (d a b : BitVec 7) {s : State} (hs : Formed s) : NextFormed (execLread d a b s) := by
  refine runWord_formed _ hs _ fun u v hu e => ?_
  grind [setUniform_formed]

theorem execLwrite_formed (d a b : BitVec 7) {s : State} (hs : Formed s) : NextFormed (execLwrite d a b s) := by
  refine runWord_formed _ hs _ fun u v hu e => ?_
  grind [setVMask_formed]

theorem predWord_formed (i : Instr) (pd : BitVec 3) {s : State} (hs : Formed s) (val : Word64) :
    NextFormed (predWord i pd s val) := runWord_formed _ hs _ fun _ _ hu e => by cases e; exact hu

theorem execPand_formed (pd pa pb : BitVec 3) {s : State} (hs : Formed s) :
    NextFormed (execPand pd pa pb s) := predWord_formed _ _ hs _

theorem execPor_formed (pd pa pb : BitVec 3) {s : State} (hs : Formed s) : NextFormed (execPor pd pa pb s) := predWord_formed _ _ hs _

theorem execPxor_formed (pd pa pb : BitVec 3) {s : State} (hs : Formed s) :
    NextFormed (execPxor pd pa pb s) := predWord_formed _ _ hs _

theorem execPnot_formed (pd pa : BitVec 3) {s : State} (hs : Formed s) : NextFormed (execPnot pd pa s) := predWord_formed _ _ hs _

theorem execPcnt_formed (d : BitVec 7) (pa : BitVec 3) {s : State} (hs : Formed s) :
    NextFormed (execPcnt d pa s) := runWord_formed _ hs _ fun _ _ hu e => by cases e; exact hu

theorem execPfirstA_formed (d : BitVec 7) (pa : BitVec 3) {s : State} (hs : Formed s) :
    NextFormed (execPfirstA d pa s) := runWord_formed _ hs _ fun _ _ hu e => by cases e; exact hu

theorem execPfirstP_formed (pd pa : BitVec 3) {s : State} (hs : Formed s) :
    NextFormed (execPfirstP pd pa s) := runWord_formed _ hs _ fun _ _ hu e => by cases e; exact hu

theorem execBallot_formed (d a : BitVec 7) {s : State} (hs : Formed s) : NextFormed (execBallot d a s) := by
  refine runWord_formed _ hs _ fun u v hu e => ?_
  grind [setP_formed, setUniform_formed]

theorem execGets_formed (d b : BitVec 7) {s : State} (hs : Formed s) :
    NextFormed (execGets d b s) := runWord_formed _ hs _ fun _ _ hu e => by cases e; exact hu

theorem setSpecial_formed {s : State} (hs : Formed s) (n : Nat) (x : Word64) : Formed (setSpecial s n x) := by
  unfold setSpecial
  split
  · exact mapPath_formed (mapRegs_formed hs _) _
  · exact mapRegs_formed hs _
  · exact hs.same
  · exact hs.same
  · exact hs.same
  · exact mapRegs_formed hs _
  · exact hs

theorem execSets_formed (a b : BitVec 7) {s : State} (hs : Formed s) : NextFormed (execSets a b s) := by
  refine runWord_formed _ hs _ fun u v hu e => ?_
  grind [setSpecial_formed]

/-! ### Launch -/

theorem putSem_formed {s : State} (hs : Formed s) (m : Sem) : Formed (putSem s m) := hs

theorem semSignal_formed {s : State} (hs : Formed s) (num n stamp : Nat) : Formed (semSignal s num n stamp) := hs

theorem semJoin_formed {s : State} (hs : Formed s) (num : Nat) (who : Nat × Nat) : Formed (semJoin s num who) := by
  unfold semJoin
  dsimp only
  split
  · exact hs
  · exact hs

theorem semLeave_formed {s : State} (hs : Formed s) (num : Nat) (who : Nat × Nat) : Formed (semLeave s num who) := hs

theorem semTake_formed {s : State} (hs : Formed s) (num : Nat) (who : Nat × Nat) (n : Nat) : Formed (semTake s num who n) := hs

theorem commandDone_formed {s : State} (hs : Formed s) (seq : Word64) (code : Nat) : Formed (commandDone s seq code) := hs

theorem command_formed {s : State} (hs : Formed s) (resv : BitVec 56) (seq : Word64) {f : State → Nat × State}
    (hf : ∀ u, Formed u → Formed (f u).2) : NextFormed (command s resv seq f) := by
  grind [command, NextFormed, commandDone_formed]

theorem loadRegion_formed {s : State} (hs : Formed s) (r : Region) : Formed (loadRegion s r) := by
  grind [loadRegion, formed_iff, mapRegion_formed, setRegionState_formed]

theorem commandStall_formed {s : State} (hs : Formed s) (resv : BitVec 56) (va align n : Nat) {u : State}
    (e : commandStall s resv va align n = some u) : Formed u := by
  grind [commandStall, → deviceStall_formed]

theorem execRegload_formed (resv : BitVec 56) (arg0 _arg1 seq : Word64) {s : State} (hs : Formed s) :
    NextFormed (execRegload resv arg0 _arg1 seq s) := by
  grind [execRegload, NextFormed, command_formed, loadRegion_formed, → commandStall_formed, → deviceRead_formed]

theorem regionWriteback_formed {s : State} (hs : Formed s) (r : Region) : Formed (regionWriteback s r) := deviceWrite_formed hs _ _ _

theorem execRegfree_formed (resv : BitVec 56) (arg0 _arg1 seq : Word64) {s : State} (hs : Formed s) :
    NextFormed (execRegfree resv arg0 _arg1 seq s) := by
  refine command_formed hs _ _ fun u hu => ?_
  grind [formed_iff, cutLaunches_formed, regionWriteback_formed]

theorem putQueue_formed {s : State} (hs : Formed s) (q : Queue) : Formed (putQueue s q) := hs

theorem queueWriteback_formed {s : State} (hs : Formed s) (q : Queue) :
    Formed (queueWriteback s q) := deviceWrite_formed (deviceWrite_formed hs _ _ _) _ _ _

theorem appendRecord_formed {s : State} (hs : Formed s) (q : Queue) (rec : Nat) : Formed (appendRecord s q rec) := by
  grind [appendRecord, formed_iff, deviceWrite_formed, putQueue_formed, queueWriteback_formed]

theorem execQset_formed (resv : BitVec 56) (arg0 arg1 seq : Word64) {s : State} (hs : Formed s) :
    NextFormed (execQset resv arg0 arg1 seq s) := by
  unfold execQset
  split
  · rename_i t e
    have hc := fun e => commandStall_formed (u := t) hs resv arg1.toNat 64 64 e
    grind [NextFormed]
  · refine command_formed hs resv seq fun u hu => ?_
    dsimp only
    split
    · exact hu
    · split
      · exact hu
      · rename_i v bytes e
        have hv : Formed v := by grind [→ deviceRead_formed]
        split
        · exact hv
        split
        · exact hv
        split
        · exact hv
        · exact hv.same

theorem execQstop_formed (resv : BitVec 56) (arg0 _arg1 seq : Word64) {s : State} (hs : Formed s) :
    NextFormed (execQstop resv arg0 _arg1 seq s) := by
  refine command_formed hs _ _ fun u hu => ?_
  grind [formed_iff, putQueue_formed, queueWriteback_formed]

theorem execSemset_formed (resv : BitVec 56) (arg0 arg1 seq : Word64) {s : State} (hs : Formed s) :
    NextFormed (execSemset resv arg0 arg1 seq s) := by
  refine command_formed hs _ _ fun u hu => ?_
  grind [putSem_formed]

theorem execHostSlotWrite_formed (q : Nat) (rec : Nat × List Byte) {s : State} (hs : Formed s) :
    NextFormed (execHostSlotWrite q rec s) := by
  grind [execHostSlotWrite, formed_iff, NextFormed, appendRecord_formed, putQueue_formed]

theorem execLaunch_formed (d a b : BitVec 7) {s : State} (hs : Formed s) : NextFormed (execLaunch d a b s) := by
  refine runWord_formed _ hs _ fun u v hu e => ?_
  grind [bind_eq_ok, appendRecord_formed, expose_formed, setUniform_formed, → readOnce_formed]

theorem headRecord_formed {s : State} (hs : Formed s) (q : Queue) : Formed (headRecord s q).1 := by
  grind [headRecord, → deviceRead_formed]

theorem execLaunchDequeue_formed {s : State} (hs : Formed s) : NextFormed (execLaunchDequeue s) := by
  grind [execLaunchDequeue, formed_iff, NextFormed, headRecord_formed, putQueue_formed, → deviceStall_formed]

theorem execLaunchSemaphoreWait_formed (serial : Nat) {s : State} (hs : Formed s) : NextFormed (execLaunchSemaphoreWait serial s) := by
  grind [execLaunchSemaphoreWait, formed_iff, NextFormed, mapLaunch_formed, semJoin_formed, semTake_formed]

theorem takePlan_formed {s : State} (hs : Formed s) (t : Task) (plan : Nat) : Formed (takePlan s t plan) := by
  unfold takePlan
  split
  · exact hs
  · exact foldl_formed (fun _ r hu => charge_formed hu _ _ _) _ (putCore_formed (chargeCore_formed hs _ _ _) _)

theorem placeTask_formed {s : State} (hs : Formed s) {t : Task} (ht : t.pad.wf = true) (after : Nat) :
    Formed (placeTask s t after) := by
  have hp := takePlan_formed hs t t.plan.toNat
  grind [placeTask, formed_iff, padsOk_append, padsOk_cons, padsOk_nil]

theorem dealAll_formed {s : State} (hs : Formed s) : Formed (dealAll s) := hs

theorem tryRestart_formed {s u : State} (hs : Formed s) {die : Nat} {t : Task} (e : tryRestart s die t = some u) : Formed u := by
  have hw : Formed { s with dev := { s.dev with waiting := s.dev.waiting.filter fun u => u.tid != t.tid } } := by
    grind [formed_iff, PadsOk.filter]
  simp only [tryRestart, Option.ite_none_left_eq_some, Option.map_eq_some_iff] at e
  obtain ⟨_, k, _, rfl⟩ := e
  exact placeTask_formed hw rfl _

theorem tryPiece_formed {s u : State} (hs : Formed s) {die : Nat} {g : Launch} {n : Nat} (e : tryPiece s die g n = some u) :
    Formed u := by
  obtain ⟨k, _, rfl⟩ := Option.map_eq_some_iff.1 e
  exact mapLaunch_formed (placeTask_formed hs rfl _) _ _

theorem firstPiece_formed {s u : State} (hs : Formed s) {die : Nat} {bar : Option Nat} {l : List (Launch × Nat × Nat)}
    (e : firstPiece s die bar l = some u) : Formed u := by
  induction l generalizing bar with
  | nil => cases e
  | cons w l ih => grind [firstPiece, → tryPiece_formed]

theorem firstRestart_formed {s u : State} (hs : Formed s) {die : Nat} {l : List Task} (e : firstRestart s die l = some u) :
    Formed u := by
  induction l with
  | nil => cases e
  | cons t l ih => grind [firstRestart, → tryRestart_formed]

theorem execPiecePlacement_formed (die : Nat) {s : State} (hs : Formed s) : NextFormed (execPiecePlacement die s) := by
  have hd := dealAll_formed (stash_formed hs)
  intro u e
  unfold execPiecePlacement at e
  dsimp only at e
  split at e
  · rename_i v hv
    cases e
    exact firstRestart_formed hd hv
  · cases e
    cases hv : firstPiece (dealAll (stash s)) die none ((waitingPieces (dealAll (stash s)) die).filter fun w =>
      !restoreFirst (dealAll (stash s)) die w.1.prio) with
    | none => exact hd
    | some v => exact firstPiece_formed hd hv

theorem ringCounts_formed {s : State} (hs : Formed s) (g : Launch) : Formed (ringCounts s g).1 := by
  grind [ringCounts, → deviceRead_formed]

theorem execCompletionRecordWrite_formed (serial : Nat) {s : State} (hs : Formed s) :
    NextFormed (execCompletionRecordWrite serial s) := by
  grind [execCompletionRecordWrite, formed_iff, NextFormed, deviceWrite_formed, ringCounts_formed, semSignal_formed,
    → deviceStall_formed]

/-! ### Tile -/

theorem loadTileElem_formed (d : Word64) (r : BitVec 512) (n : Nat) (c : Copy) {s : State} (hs : Formed s) {u : State} {x : Copy}
    (e : loadTileElem d r n c s = .ok (u, x)) : Formed u := by
  grind [loadTileElem, bind_eq_ok, → copyFill_formed, → copyRead_formed]

theorem storeTileElem_formed (d : Word64) (r : BitVec 512) (n : Nat) (c : Copy) {s : State} (hs : Formed s) {u : State} {x : Copy}
    (e : storeTileElem d r n c s = .ok (u, x)) : Formed u := by
  grind [storeTileElem, bind_eq_ok, → copyWrite_formed]

theorem mapRegistration_formed {s : State} (hs : Formed s) (base : Nat) (f : Registration → Registration) :
    Formed (mapRegistration s base f) := hs

theorem nameTile_formed {s : State} (hs : Formed s) (base : Nat) : Formed (nameTile s base) := by
  unfold nameTile
  split
  · exact hs
  · exact hs

theorem openMark_formed {s : State} (hs : Formed s) (base : Nat) : Formed (openMark s base) := hs

/-! ### Sync -/

theorem backTo_formed (s : State) {u : State} (hu : Formed u) : Formed (backTo s u) := by
  have hf := focus_formed hu s.me.id
  grind [backTo, stash_formed, focusTask_formed, formed_iff]

theorem onSpilled_formed {s : State} (hs : Formed s) (c : Context) (path : Nat) (f : State → State)
    (hf : ∀ u, Formed u → Formed (f u)) : Formed (onSpilled s c path f) := by
  grind [onSpilled, formed_iff, backTo_formed, focusTask_formed]

theorem onPath_formed {s : State} (hs : Formed s) (ctx path : Nat) (f : State → State) (hf : ∀ u, Formed u → Formed (f u)) :
    Formed (onPath s ctx path f) := by
  grind [onPath, formed_iff, backTo_formed, focus_formed, onSpilled_formed]

theorem remoteArrive_formed (q : Remote) {s : State} (hs : Formed s) : Formed (remoteArrive q s) := by
  grind [remoteArrive, formed_iff, expose_formed, remoteRun_formed, wordDone_formed, wordStall_formed, wordTrap_formed,
    writeAtom_formed]

theorem execAtomrExecute_formed (n : Nat) {s : State} (hs : Formed s) : NextFormed (execAtomrExecute n s) := by
  intro u e
  cases e
  grind [formed_iff, onPath_formed, remoteArrive_formed]

theorem emptyRange_formed {s : State} (hs : Formed s) (off n : Nat) {u : State} (e : emptyRange s off n = .ok u) : Formed u := by
  grind [emptyRange, formed_iff]

theorem execPempty_formed (a b : BitVec 7) {s : State} (hs : Formed s) : NextFormed (execPempty a b s) := by
  refine runWord_formed _ hs _ fun u v hu e => ?_
  grind [→ emptyRange_formed]

theorem execFence_formed {s : State} (hs : Formed s) : NextFormed (execFence s) := by
  refine runWord_formed _ hs _ fun u v hu e => ?_
  simp only [bind_eq_ok] at e
  obtain ⟨_, _, e⟩ := e
  cases e
  exact hu

theorem barPut_pad (t : Task) (off w : Nat) (ht : t.pad.wf = true) : (barPut t off w).pad.wf = true := padWrite_pad _ _ _ ht

theorem wakeAll_formed {s : State} (hs : Formed s) (l : List (Nat × Nat)) : Formed (wakeAll s l) :=
  foldl_formed (fun _ w hu => onPath_formed hu w.1 w.2 wordDone fun _ hv => wordDone_formed hv) l hs

theorem barArrive_formed {s : State} (hs : Formed s) (off c : Nat) {u : State} {x : Nat} (e : barArrive s off c = some (u, x)) :
    Formed u := by
  grind [barArrive, formed_iff, barPut_pad, wakeAll_formed]

theorem execBarinit_formed (a b : BitVec 7) {s : State} (hs : Formed s) : NextFormed (execBarinit a b s) := by
  refine runWord_formed _ hs _ fun u v hu e => ?_
  grind [formed_iff, bind_eq_ok, barPut_pad]

theorem execBararr_formed (d a : BitVec 7) {s : State} (hs : Formed s) : NextFormed (execBararr d a s) := by
  refine runWord_formed _ hs _ fun u v hu e => ?_
  grind [bind_eq_ok, setUniform_formed, → barArrive_formed]

theorem execBarwait_formed (a b : BitVec 7) {s : State} (hs : Formed s) : NextFormed (execBarwait a b s) := by
  refine runWord_formed _ hs _ fun u v hu e => ?_
  grind [bind_eq_ok]

theorem execBarinv_formed (a : BitVec 7) {s : State} (hs : Formed s) : NextFormed (execBarinv a s) := by
  refine runWord_formed _ hs _ fun u v hu e => ?_
  simp only [bind_eq_ok] at e
  obtain ⟨_, _, e⟩ := e
  cases e
  exact foldl_formed (fun _ q h => onPath_formed h q.1 q.2 _ fun _ hv => wordTrap_formed hv _) _
    (hu.withTask (barPut_pad _ _ _ hu.task))

theorem execSems_formed (a b : BitVec 7) {s : State} (hs : Formed s) : NextFormed (execSems a b s) := by
  refine runWord_formed _ hs _ fun u v hu e => ?_
  simp only [bind_eq_ok] at e
  obtain ⟨_, _, _, _, e⟩ := e
  cases e
  exact hu.same

theorem execSemw_formed (d a b : BitVec 7) {s : State} (hs : Formed s) : NextFormed (execSemw d a b s) := by
  refine runFlow_formed _ hs _ fun u hu => ?_
  grind [formed_iff, semJoin_formed, semTake_formed, setUniform_formed, wordDone_formed, wordStall_formed, wordTrap_formed]

theorem execSemwWaitLimit_formed (ctx pathNo : Nat) {s : State} (hs : Formed s) : NextFormed (execSemwWaitLimit ctx pathNo s) := by
  intro u e
  cases e
  grind [onPath_formed, semLeave_formed, setUniform_formed, wordDone_formed]

theorem inboxOf_pad {s : State} (hs : Formed s) {core serial : Nat} {t : Task} (e : inboxOf s core serial = some t) :
    t.pad.wf = true :=
  ((liveTasks_padsOk hs).filter _) t (mem_of_leastBy e)

theorem moveCredit_pad {t : Task} (ht : t.pad.wf = true) (core : Nat) (take : Bool) : (moveCredit t core take).pad.wf = true := ht

theorem sendMessage_formed {s : State} (hs : Formed s) (core : Nat) (words : List Word32) {u : State}
    (e : sendMessage s core words = .ok u) : Formed u := by
  grind [sendMessage, formed_iff, expose_formed, moveCredit_pad, putTask_formed, → inboxOf_pad]

theorem execSendq_formed (d a b : BitVec 7) {s : State} (hs : Formed s) : NextFormed (execSendq d a b s) := by
  refine runWord_formed _ hs _ fun u v hu e => ?_
  grind [→ sendMessage_formed]

theorem execInboxMessageArrive_formed (n : Nat) {s : State} (hs : Formed s) : NextFormed (execInboxMessageArrive n s) := by
  have hd : Formed { s with transit := eraseAt s.transit n } := hs.same
  grind [execInboxMessageArrive, NextFormed, → getTask_pad, putTask_formed]

theorem freeEntry_formed {s : State} (hs : Formed s) (m : Message) : Formed (freeEntry s m) := hs.withTask hs.task

theorem execRecvq_formed (d a : BitVec 7) {s : State} (hs : Formed s) : NextFormed (execRecvq d a s) := by
  refine runFlow_formed _ hs _ fun u hu => ?_
  dsimp only
  split
  · exact wordStall_formed hu _
  · split
    · exact wordTrap_formed hu _
    · split
      · exact wordTrap_formed hu _
      · split
        · exact wordStall_formed hu.same _
        · exact wordDone_formed (setUniform_formed (foldl_formed (fun _ _ hv => setV_formed hv _ _ _) _ (freeEntry_formed hu _)) _ _ _)

theorem execPadopen_formed (win rights : BitVec 2) (a b : BitVec 7) {s : State} (hs : Formed s) :
    NextFormed (execPadopen win rights a b s) := by
  refine runWord_formed _ hs _ fun u v hu e => ?_
  grind [formed_iff]

theorem execTlbinv_formed (a b : BitVec 7) {s : State} (hs : Formed s) : NextFormed (execTlbinv a b s) := by
  refine runFlow_formed _ hs _ fun u hu => ?_
  grind [dropAll_formed, dropPage_formed, wordDone_formed, wordStall_formed, wordTrap_formed]

theorem execPageWalk_formed (core part va : Nat) (write : Bool) {s : State} (hs : Formed s) :
    NextFormed (execPageWalk core part va write s) := by
  intro u e
  cases e
  grind [askHost_formed, focusCore_formed, stash_formed, → walkXlat_formed]

theorem execPendingHorizonGuardReached_formed (ctx pathNo : Nat) {s : State} (hs : Formed s) :
    NextFormed (execPendingHorizonGuardReached ctx pathNo s) := by
  intro u e
  cases e
  grind [formed_iff, mapPath_formed, onPath_formed]

theorem dropRemote_formed {s : State} (hs : Formed s) : Formed (dropRemote s) := hs

theorem execWaitLimitExpire_formed (ctx pathNo : Nat) {s : State} (hs : Formed s) : NextFormed (execWaitLimitExpire ctx pathNo s) := by
  intro v e
  cases e
  split
  · exact hs
  · refine onPath_formed hs ctx pathNo _ fun u hu => ?_
    grind [wordTrap_formed, dropRemote_formed]

theorem execYieldHoldExpire_formed (ctx pathNo : Nat) {s : State} (hs : Formed s) : NextFormed (execYieldHoldExpire ctx pathNo s) := by
  intro u e
  cases e
  grind [formed_iff, mapPath_formed, onPath_formed]

theorem execBankPortUrgent_formed (ctx : Nat) {s : State} (hs : Formed s) :
    NextFormed (execBankPortUrgent ctx s) := by intro u e; cases e; exact mapCtx_formed hs _ _

/-! ### Geometry -/

theorem setSlot_formed {s : State} (hs : Formed s) (n : Nat) (st : Setup) : Formed (setSlot s n st) := hs

theorem execRset_formed (d a b : BitVec 7) (ch : BitVec 2) {s : State} (hs : Formed s) : NextFormed (execRset d a b ch s) := by
  refine runWord_formed _ hs _ fun u v hu e => ?_
  grind [setSlot_formed, setUniform_formed]

theorem setWMask_formed {s : State} (hs : Formed s) (w : Nat) (p : Word64) (val : Nat → Word64 × Word64) :
    Formed (setWMask s w p val) := mapRegs_formed hs.same _

theorem setW_formed {s : State} (hs : Formed s) (w : Nat) (val : Nat → Word64 × Word64) :
    Formed (setW s w val) := setWMask_formed hs _ _ _

theorem writeScan_formed {s : State} (hs : Formed s) (d bw bp : Nat) (a : BitVec 7) (st : Setup) (l : List (Nat × Nat × Word64))
    (token : Word64) : Formed (writeScan s d bw bp a st l token) := by
  grind [writeScan, setP_formed, setUniform_formed, setVMask_formed, setW_formed]

theorem execRast_formed (d a : BitVec 7) (bw bp : BitVec 3) {s : State} (hs : Formed s) : NextFormed (execRast d a bw bp s) := by
  refine runWord_formed _ hs _ fun u v hu e => ?_
  grind [writeScan_formed]

theorem toolWord_formed (i : Instr) (w : BitVec 3) (val : State → Nat → Word64 × Word64) {s : State} (hs : Formed s) :
    NextFormed (toolWord i w val s) := runWord_formed _ hs _ fun _ _ hu e => by cases e; exact setW_formed hu _ _

theorem toolPair_formed (i : Instr) (wd wr : BitVec 3) (val : State → Nat → (Word64 × Word64) × (Word64 × Word64)) {s : State}
    (hs : Formed s) : NextFormed (toolPair i wd wr val s) :=
  runWord_formed _ hs _ fun _ _ hu e => by cases e; exact setW_formed (setW_formed hu _ _) _ _

theorem execVsplit_formed (wd wr pa : BitVec 3) {s : State} (hs : Formed s) :
    NextFormed (execVsplit wd wr pa s) := toolPair_formed _ _ _ _ hs

theorem execVends_formed (d : BitVec 7) (pa : BitVec 3) {s : State} (hs : Formed s) :
    NextFormed (execVends d pa s) := runWord_formed _ hs _ fun _ _ hu e => by cases e; exact setV_formed hu.same _ _ _

theorem execVmask_formed (pd pa : BitVec 3) (b : BitVec 7) {s : State} (hs : Formed s) :
    NextFormed (execVmask pd pa b s) := toolWord_formed _ _ _ hs

theorem execVagree_formed (gwd gws : BitVec 3) (gt gva gvb : BitVec 5) {s : State} (hs : Formed s) :
    NextFormed (execVagree gwd gws gt gva gvb s) := toolWord_formed _ _ _ hs

theorem execVhalve_formed (wd wr pa : BitVec 3) {s : State} (hs : Formed s) :
    NextFormed (execVhalve wd wr pa s) := toolPair_formed _ _ _ _ hs

theorem lanesEnd_formed (r : Regs) {s : State} (hs : Formed s) (done : List Nat) (last : Bool) : Formed (lanesEnd r s done last) := by
  grind [lanesEnd, formed_iff, mapPath_formed, wordDone_formed]

theorem testViews_pad (d : Word64) (st : Setup) (cmp : Nat) (dw : Bool) (xy : Nat × Nat) (xs : List Nat) (t : Task)
    (ht : t.pad.wf = true) : (testViews d st cmp dw xy xs t).2.pad.wf = true := by
  induction xs generalizing t with
  | nil => grind [testViews, padWrite_pad]
  | cons y l ih => grind [testViews, padWrite_pad]

theorem testLanes_pad (s : State) (d : Word64) (st : Setup) (cmp : Nat) (dw : Bool) (b : BitVec 7) (ws : Nat)
    (xs : List Nat) (t : Task) (ht : t.pad.wf = true) : (testLanes s d st cmp dw b ws xs t).2.pad.wf = true := by
  induction xs generalizing t with
  | nil => grind [testLanes, testViews_pad]
  | cons y l ih => grind [testLanes, testViews_pad]

theorem execVtest_formed (pd pa : BitVec 3) (b : BitVec 7) (f : BitVec 4) {s : State} (hs : Formed s) :
    NextFormed (execVtest pd pa b f s) := by
  refine runFlow_formed _ hs _ fun u hu => ?_
  grind [formed_iff, lanesEnd_formed, setWMask_formed, testLanes_pad, wordStall_formed, wordTrap_formed]

theorem applyViews_pad (w : Held) (xs : List Nat) (t : Task) (ht : t.pad.wf = true) : (applyViews w xs t).pad.wf = true := by
  induction xs generalizing t with
  | nil => grind [applyViews, padWrite_pad]
  | cons y l ih => grind [applyViews, padWrite_pad]

theorem applyHeld_pad (t : Task) (w : Held) (ht : t.pad.wf = true) : (applyHeld t w).pad.wf = true := applyViews_pad _ _ _ ht

theorem orderedWrites_formed {s u : State} (hs : Formed s) (d : Word64) (off : Nat → Nat) (all l : List (Nat × Held)) (last : Bool)
    {x : List Nat × Bool} (e : orderedWrites s d off all l last = .ok (u, x)) : Formed u := by
  have ha := fun now : List (Nat × Held) =>
    hs.withTask (foldl_pad (f := fun t e => applyHeld t e.2) (fun t e ht => applyHeld_pad t e.2 ht) now hs.task)
  unfold orderedWrites at e
  split at e
  · cases e
  split at e
  · cases e
  dsimp only at e
  split at e
  · cases e
  obtain ⟨_, _, e⟩ := bind_eq_ok.1 e
  split at e
  · cases e; exact ha _
  · cases e; exact mapRegistration_formed (ha _) _ _

theorem execFbw_formed (d : BitVec 7) (pa : BitVec 3) (b : BitVec 7) (f : BitVec 4) {s : State} (hs : Formed s) :
    NextFormed (execFbw d pa b f s) := by
  refine runFlow_formed _ hs _ fun u hu => ?_
  dsimp only
  split
  · exact wordTrap_formed hu _
  · exact wordStall_formed hu _
  · rename_i v done last e
    refine lanesEnd_formed _ (nameTile_formed ?_ _) _ _
    obtain ⟨_, _, e⟩ := bind_eq_ok.1 e
    split at e
    · exact orderedWrites_formed hu _ _ _ _ _ e
    · obtain ⟨_, _, e⟩ := bind_eq_ok.1 e
      cases e
      exact hu.withTask (foldl_pad (fun t e ht => applyHeld_pad t e.2 ht) _ hu.task)

theorem execFbdone_formed (a b : BitVec 7) {s : State} (hs : Formed s) : NextFormed (execFbdone a b s) := by
  refine runWord_formed _ hs _ fun u v hu e => ?_
  simp only [bind_eq_ok] at e
  obtain ⟨_, _, _, _, e⟩ := e
  split at e
  · cases e
  split at e
  · cases e
  split at e
  · cases e
  obtain ⟨_, _, e⟩ := bind_eq_ok.1 e
  cases e
  exact nameTile_formed (mapRegistration_formed (hu.withTask (foldl_pad (fun t w ht => applyHeld_pad t w ht) _ hu.task)) _ _) _

theorem tileRecord_formed {s : State} (hs : Formed s) (d : Word64) (at_ : Nat) {u : State} {x : BitVec 512}
    (e : tileRecord s d at_ = .ok (u, x)) : Formed u := by
  grind [tileRecord, bind_eq_ok, → readOnce_formed]

theorem emptyTile_formed {s : State} (hs : Formed s) (d : Word64) (r : BitVec 512) {u : State} (e : emptyTile s d r = .ok u) :
    Formed u := by
  grind [emptyTile, → emptyRange_formed]

theorem execFbload_formed (dch : BitVec 2) (a b : BitVec 7) {s : State} (hs : Formed s) : NextFormed (execFbload dch a b s) := by
  refine runWord_formed _ hs _ fun u v hu e => ?_
  obtain ⟨q, hq, e⟩ := bind_eq_ok.1 e
  have kq := tileRecord_formed hu _ _ hq
  dsimp only at e
  split at e
  · cases e
  split at e
  · cases e
  obtain ⟨w, hw, e⟩ := bind_eq_ok.1 e
  obtain ⟨x, hx, e⟩ := bind_eq_ok.1 e
  have kx := queueCopy_formed (emptyTile_formed kq _ _ hw) _ _ hx
  cases e
  exact nameTile_formed kx.same _

theorem execFbstore_formed (dch : BitVec 2) (a b : BitVec 7) {s : State} (hs : Formed s) : NextFormed (execFbstore dch a b s) := by
  refine runWord_formed _ hs _ fun u v hu e => ?_
  obtain ⟨q, hq, e⟩ := bind_eq_ok.1 e
  have kq := tileRecord_formed hu _ _ hq
  obtain ⟨_, _, e⟩ := bind_eq_ok.1 e
  split at e
  · cases e
  split at e
  · cases e
  obtain ⟨x, hx, e⟩ := bind_eq_ok.1 e
  have kx := queueCopy_formed kq _ _ hx
  cases e
  exact openMark_formed kx.same _

/-! ### Traverse -/

theorem execTravset_formed (d : BitVec 7) (bpair : BitVec 4) {s : State} (hs : Formed s) : NextFormed (execTravset d bpair s) := by
  refine runWord_formed _ hs _ fun u v hu e => ?_
  simp only [bind_eq_ok] at e
  obtain ⟨_, _, _, _, _, _, e⟩ := e
  cases e
  exact setV_formed (hu.withTask (foldl_pad (fun _ _ ht => padWrite_pad _ _ _ ht) _ hu.task)) _ _ _

theorem loadNode_formed {s : State} (hs : Formed s) (va lane : Nat) {u : State} {x : List Byte}
    (e : loadNode s va lane = .ok (u, x)) : Formed u := by
  grind [loadNode, bind_eq_ok, raiseHorizon_formed, → loadParts_formed, → spotOf_formed]

theorem pushAll_pad (d : TravDesc) (n lane : Nat) (xs : List Nat) (fuel : Nat) (t : Task) (ht : t.pad.wf = true) :
    (pushAll d n lane xs fuel t).pad.wf = true := by
  induction xs generalizing fuel t with
  | nil => grind [pushAll, padWrite_pad]
  | cons y l ih => grind [pushAll, padWrite_pad]

theorem walkLane_formed (d : TravDesc) (n : Nat) (q : Query) (t0 lane fuel visits count : Nat) {s u : State} {x : LaneWalk}
    (hs : Formed s) (e : walkLane d n q t0 lane fuel visits count s = .ok (u, x)) : Formed u := by
  induction fuel generalizing visits count s with
  | zero => cases e; exact hs
  | succ fuel ih =>
    unfold walkLane at e
    split at e
    · cases e; exact hs
    obtain ⟨_, _, e⟩ := bind_eq_ok.1 e
    dsimp only at e
    split at e
    · exact ih _ _ hs e
    split at e
    · cases e; exact hs
    split at e
    · cases e; exact hs
    split at e
    · cases e
    · cases e; exact hs
    · rename_i v node hv
      have kv := loadNode_formed hs _ _ hv
      split at e
      · cases e; exact hs
      obtain ⟨_, _, e⟩ := bind_eq_ok.1 e
      exact ih _ _ (kv.withTask (pushAll_pad _ _ _ _ _ _ kv.task)) e

theorem walkLanes_formed (d : TravDesc) (n budget : Nat) (query : Nat → Query) (count : Nat → Nat) (xs : List Nat) {s : State}
    (hs : Formed s) {u : State} {x : List (Nat × LaneWalk)} (e : walkLanes d n budget query count xs s = .ok (u, x)) : Formed u := by
  induction xs generalizing s u x with
  | nil => grind [walkLanes, bind_eq_ok, → walkLane_formed]
  | cons y l ih => grind [walkLanes, bind_eq_ok, → walkLane_formed]

theorem writeWalk_formed {s : State} (hs : Formed s) (d : Nat) (bp : Nat) (l : List (Nat × LaneWalk)) :
    Formed (writeWalk s d bp l) := by
  grind [writeWalk, formed_iff, setP_formed, setVMask_formed, setV_formed]

theorem endCallout_formed {s : State} (hs : Formed s) {u : State} (e : endCallout s = .ok u) : Formed u := by
  grind [endCallout, formed_iff, bind_eq_ok, → flushCtx_formed]

theorem travWord_formed (i : Instr) (ray : Bool) (d a : BitVec 7) (bpair : BitVec 4) (bp : BitVec 3) {s : State} (hs : Formed s) :
    NextFormed (travWord i ray d a bpair bp s) := by
  refine runFlow_formed _ hs _ fun u hu => ?_
  dsimp only
  split
  · exact wordTrap_formed hu _
  split
  · exact wordTrap_formed hu _
  split
  · exact wordTrap_formed hu _
  · exact wordStall_formed hu _
  · rename_i v hv
    have kv := endCallout_formed hu hv
    split
    · exact wordStall_formed kv _
    split
    · exact wordTrap_formed kv _
    · exact wordStall_formed kv _
    · rename_i w l hw
      have kw := writeWalk_formed (walkLanes_formed _ _ _ _ _ _ kv hw) d.toNat bp.toNat l
      split
      · exact wordTrap_formed kw _
      · exact wordDone_formed kw

theorem execTravRay_formed (d a : BitVec 7) (bpair : BitVec 4) (bp : BitVec 3) {s : State} (hs : Formed s) :
    NextFormed (execTravRay d a bpair bp s) := travWord_formed _ _ _ _ _ _ hs

theorem execTravBox_formed (d a : BitVec 7) (bpair : BitVec 4) (bp : BitVec 3) {s : State} (hs : Formed s) :
    NextFormed (execTravBox d a bpair bp s) := travWord_formed _ _ _ _ _ _ hs

/-! ### Epilogue -/

theorem drainPad_formed (o : MatOp) (began : Task) {s : State} (hs : Formed s) (code off : Nat) (bytes : List Byte) {u : State}
    (e : drainPad o began s code off bytes = .ok u) : Formed u := by
  grind [drainPad, formed_iff, rotWrite_pad, setFull_pad]

theorem fetchVals_formed (t n va : Nat) {s : State} (hs : Formed s) {u : State} {x : List FVal}
    (e : fetchVals t n va s = .ok (u, x)) : Formed u := by
  grind [fetchVals, bind_eq_ok, → copyRead_formed]

theorem cellStore_formed (va : Nat) (v : FVal) {s u : State} (hs : Formed s) {x : Nat} (e : cellStore va v s = .ok (u, x)) :
    Formed u := by
  unfold cellStore at e
  split at e
  · cases e
  · exact copyAtomic_formed _ _ _ _ hs e

/-- One access of a drain keeps the form, where the access does. -/
theorem act_formed {p : Drain} (hp : Formed p.s) {f : State → Row → Res (State × Row × Nat)}
    (hf : ∀ s row u x, Formed s → f s row = .ok (u, x) → Formed u) : Formed (p.act f).s := by
  unfold Drain.act
  split
  · exact hp
  split
  · exact hf _ _ _ _ hp ‹_›
  · exact hp
  · exact hp

theorem rowOp_formed {p : Drain} (hp : Formed p.s) (f : Row → Row) : Formed (p.rowOp f).s :=
  act_formed hp fun _ _ _ _ hs e => by cases e; exact hs

theorem vector_formed {p : Drain} (hp : Formed p.s) (k t va : Nat) : Formed (p.vector k t va).s := by
  grind [Drain.vector, → fetchVals_formed]

/-- Accesses of a drain one after another. -/
theorem foldl_act_formed {α : Type} {f : Drain → α → Drain} (hf : ∀ p x, Formed p.s → Formed (f p x).s) (l : List α) {p : Drain}
    (hp : Formed p.s) : Formed (l.foldl f p).s := by
  induction l generalizing p with
  | nil => exact hp
  | cons x l ih => exact ih (hf p x hp)

theorem stores_formed {p : Drain} (hp : Formed p.s) (trans : Bool) (pitch r : Nat)
    {put : State → Nat → List Byte → Res (State × Nat)} (hf : ∀ s a b u x, Formed s → put s a b = .ok (u, x) → Formed u) :
    Formed (p.stores trans pitch r put).s := by
  unfold Drain.stores
  split
  · refine foldl_act_formed (fun q c hq => act_formed hq fun s row u x hs e => ?_) _ hp
    grind [bind_eq_ok]
  · refine act_formed hp fun s row u x hs e => ?_
    grind [bind_eq_ok]

theorem quant_formed {p : Drain} (hp : Formed p.s) (o : MatOp) (args : Vector Word64 4) (r : Nat) (w : Word32) :
    Formed (p.quant o args r w).s := by
  refine foldl_act_formed (fun q g hq => act_formed hq fun s row u x hs e => ?_) _ (rowOp_formed hp _)
  grind [bind_eq_ok, → drainPad_formed]

theorem microOp_formed (o : MatOp) (args : Vector Word64 4) (trans : Bool) (r k : Nat) (w : Word32) {p : Drain} (hp : Formed p.s) :
    Formed (microOp o args trans r k w p).s := by
  unfold microOp
  dsimp only
  split
  · exact rowOp_formed (vector_formed hp _ _ _) _
  · split
    · exact rowOp_formed hp _
    · split
      · exact rowOp_formed (vector_formed hp _ _ _) _
      · exact act_formed hp fun s row u x hs e => by grind [bind_eq_ok, → fetchVals_formed]
  · exact act_formed hp fun s row u x hs e => by grind [bind_eq_ok, → fetchVals_formed]
  · exact act_formed hp fun s row u x hs e => by cases e; exact useFree_formed hs _
  · exact rowOp_formed hp _
  · exact quant_formed hp _ _ _ _
  · exact rowOp_formed hp _
  · exact rowOp_formed hp _
  · exact rowOp_formed hp _
  · refine stores_formed (act_formed hp fun s row u x hs e => ?_) _ _ _ fun s a b u x hs e => ?_
    · grind [bind_eq_ok]
    · grind [bind_eq_ok, → drainPad_formed]
  · exact stores_formed hp _ _ _ fun s a b u x hs e => copyWrite_formed _ _ hs e
  · exact foldl_act_formed (fun q c hq => act_formed hq fun s row u x hs e => by grind [bind_eq_ok, → cellStore_formed]) _ hp
  · exact rowOp_formed hp _
  · exact act_formed hp fun s row u x hs e => by grind [bind_eq_ok, → copyWrite_formed]
  · exact hp

theorem runRow_formed (o : MatOp) (args : Vector Word64 4) (trans : Bool) (r : Nat) (l : List (Nat × Word32)) {p : Drain}
    (hp : Formed p.s) : Formed (runRow o args trans r l p).s := by
  induction l generalizing p with
  | nil => exact hp
  | cons w l ih => grind [runRow, microOp_formed]

theorem drainRows_formed (o : MatOp) (program : Vector Word32 16) (args : Vector Word64 4) (clear : Bool) (l : List Nat) {p : Drain}
    (hp : Formed p.s) : Formed (drainRows o program args clear l p).s := by
  induction l generalizing p with
  | nil => exact hp
  | cons r l ih =>
    have hr := fun row => runRow_formed o args ((program.toList.headD 0 |> isTrans)) r (List.zip (List.range 16) program.toList)
      (p := { p with row := row }) hp
    unfold drainRows
    dsimp only
    split
    · exact hr _
    · refine ih ?_
      dsimp only
      split
      · exact (hr _).withTask (hr _).task
      · exact hr _

/-! ### Matrix -/

theorem clearTile_pad (t : Task) (o : MatOp) (ht : t.pad.wf = true) : (clearTile t o).pad.wf = true := by
  unfold clearTile
  split
  · exact ht
  · exact ht

theorem closeMatOp_formed {s : State} (hs : Formed s) (o : MatOp) (fault : Option Trap) (w : Nat) :
    Formed (closeMatOp s o fault w) := by
  grind [closeMatOp, formed_iff, mapTask_formed]

theorem endMatOp_formed {s : State} (hs : Formed s) (o : MatOp) (fault : Option Trap) (w : Nat) :
    Formed (endMatOp s o fault w) := settle_formed (closeMatOp_formed hs _ _ _) _

theorem markWait_formed {s : State} (hs : Formed s) (o : MatOp) : Formed (markWait s o) := hs

theorem matAt_formed {s : State} (hs : Formed s) (core n : Nat) {u : State} {x : MatOp} (e : matAt s core n = some (u, x)) :
    Formed u := by
  grind [matAt, focusTask_formed]

theorem execMatrixOpExecute_formed (core n : Nat) {s : State} (hs : Formed s) : NextFormed (execMatrixOpExecute core n s) := by
  intro u e
  cases e
  grind [formed_iff, clearTile_pad, endMatOp_formed, markWait_formed, → matAt_formed]

theorem execDrainExecute_formed (core n : Nat) {s : State} (hs : Formed s) : NextFormed (execDrainExecute core n s) := by
  intro v e
  cases e
  split
  · exact hs
  rename_i t o ho
  have kt := matAt_formed hs core n ho
  split
  · dsimp only
    rename_i program args release clear _
    have kd := drainRows_formed o program args clear (lanesOf o.rows) (p := ⟨t, ⟨[], [], 32, 0, 0⟩, none, none, 0, [], t.task⟩) kt
    split
    · exact endMatOp_formed kt _ _ _
    · split
      · exact sendBackInvalidate_formed kt _
      · exact kt
      · exact endMatOp_formed kd _ _ _
  · exact hs

theorem queueMat_formed {s : State} (hs : Formed s) (bank : Nat) (tag : Tag) (work : MatWork) {u : State}
    (e : queueMat s bank tag work = .ok u) : Formed u := by
  unfold queueMat at e
  split at e
  · cases e
  · cases e; exact hs.same

theorem queueStep_formed {s : State} (hs : Formed s) (tile : BitVec 3) (ka kb fmt index : Nat)
    (rowScale : Option (Vector Word32 64 × Vector Word32 64)) (col : Nat) {u : State}
    (e : queueStep s tile ka kb fmt index rowScale col = .ok u) : Formed u := by
  grind [queueStep, → queueMat_formed]

theorem execMma_formed (tile : BitVec 3) (ka kb : BitVec 7) (fmt : BitVec 4) (step : BitVec 2) {s : State} (hs : Formed s) :
    NextFormed (execMma tile ka kb fmt step s) := by
  refine runWord_formed _ hs _ fun u v hu e => ?_
  grind [bind_eq_ok, → queueStep_formed]

theorem execMmas_formed (tile : BitVec 3) (ka kb : BitVec 7) (fmt : BitVec 4) (step : BitVec 2) {s : State} (hs : Formed s) :
    NextFormed (execMmas tile ka kb fmt step s) := by
  refine runWord_formed _ hs _ fun u v hu e => ?_
  grind [bind_eq_ok, → queueStep_formed]

theorem bindTile_formed {s : State} (hs : Formed s) (tile : BitVec 3) (tag : Tag) {u : State} {x : Nat}
    (e : bindTile s tile tag = .ok (u, x)) : Formed u := by
  grind [bindTile, formed_iff, mapRegs_formed]

theorem execMzero_formed (tile : BitVec 3) (i32 : BitVec 1) {s : State} (hs : Formed s) : NextFormed (execMzero tile i32 s) := by
  refine runWord_formed _ hs _ fun u v hu e => ?_
  grind [bind_eq_ok, → bindTile_formed, → queueMat_formed]

theorem execMload_formed (tile : BitVec 3) (ka : BitVec 7) (i32 : BitVec 1) {s : State} (hs : Formed s) :
    NextFormed (execMload tile ka i32 s) := by
  refine runWord_formed _ hs _ fun u v hu e => ?_
  grind [bind_eq_ok, → bindTile_formed, → queueMat_formed]

theorem execMdrain_formed (tile : BitVec 3) (ka : BitVec 7) (flags : BitVec 4) {s : State} (hs : Formed s) :
    NextFormed (execMdrain tile ka flags s) := by
  refine runWord_formed _ hs _ fun u v hu e => ?_
  grind [formed_iff, bind_eq_ok, mapRegs_formed, → queueMat_formed]

theorem execMseal_formed {s : State} (hs : Formed s) : NextFormed (execMseal s) := by
  refine runWord_formed _ hs _ fun u v hu e => ?_
  grind [→ sealBatch_formed]

theorem execMwait_formed (flags : BitVec 4) {s : State} (hs : Formed s) :
    NextFormed (execMwait flags s) := runFlow_formed _ hs _ fun _ hu => waitBatch_formed hu _ _

theorem execEpload_formed (tile : BitVec 3) (ka : BitVec 7) {s : State} (hs : Formed s) : NextFormed (execEpload tile ka s) := by
  refine runWord_formed _ hs _ fun u v hu e => ?_
  grind [formed_iff, bind_eq_ok]

/-! ### Pool -/

theorem moveFiles_formed {s : State} (hs : Formed s) (cs : List Context) (fs : List (Nat × Nat)) : Formed (moveFiles s cs fs) := by
  fun_induction moveFiles s cs fs with
  | case1 s c cs f fs ih => exact ih (mapCtx_formed hs _ _)
  | case2 => exact hs

theorem Memory.wfFrom_filter (p : Host.Cell → Bool) {m : Memory} {lo : Nat} (h : Memory.wfFrom lo m = true) :
    Memory.wfFrom lo (m.filter p) = true := by
  induction m generalizing lo with
  | nil => rfl
  | cons c m ih =>
    obtain ⟨a, x⟩ := c
    simp only [Memory.wfFrom, Bool.and_eq_true, decide_eq_true_eq] at h
    rw [List.filter_cons]
    split
    · simp only [Memory.wfFrom, Bool.and_eq_true, decide_eq_true_eq]
      exact ⟨h.1, ih h.2⟩
    · exact Memory.wfFrom_mono (by omega) (ih h.2)

theorem Memory.wf_filter (p : Host.Cell → Bool) {m : Memory} (w : m.wf = true) : Memory.wf (m.filter p) = true :=
  Memory.wfFrom_filter p w

theorem applyMove_formed {s : State} (hs : Formed s) (m : Move) (dest : Nat) (subs spare : List Nat) :
    Formed (applyMove s m dest subs spare) := by
  have hm := moveFiles_formed hs (movingFiles s m).2 (movingFiles s m).1
  unfold applyMove
  dsimp only
  split
  · exact charge_formed (hm.retask (Memory.wf_filter _ hm.task)) _ _ _
  · exact release_formed (charge_formed (hm.retask (Memory.wf_filter _ hm.task)) _ _ _) _ _ _

theorem coded_formed {s u : State} (hs : Formed s) (m : Move) (dest : BitVec 7) (trapped : Bool)
    (e : poolWord.coded s m dest trapped = .ok u) : Formed u := by
  unfold poolWord.coded at e
  split at e
  · split at e
    · cases e
    split at e
    · cases e
    · cases e; exact wordStall_formed (applyMove_formed hs _ _ _ _) _
  · dsimp only at e
    have hk : ∀ k w, Formed (if k = 6 then { s with task := { s.task with withdrawn := w } } else s) := by
      intro k w; split
      · exact hs.same
      · exact hs
    split at e
    · cases e; exact wordTrap_formed (hk _ _) _
    · cases e; exact wordDone_formed (setUniform_formed (hk _ _) _ _ _)

theorem poolWord_formed {s u : State} (hs : Formed s) (m : Move) (dest : BitVec 7) (trapped : Bool)
    (e : poolWord s m dest trapped = .ok u) : Formed u := by
  unfold poolWord at e
  split at e
  · split at e
    · cases e
    · exact coded_formed hs _ _ _ e
  · exact coded_formed hs _ _ _ e

theorem execPoolset_formed (d : BitVec 7) (src dst : BitVec 3) (b : BitVec 7) (f3 : BitVec 3) {s : State} (hs : Formed s) :
    NextFormed (execPoolset d src dst b f3 s) := by
  refine runFlow_formed _ hs _ fun u hu => ?_
  grind [wordStall_formed, wordTrap_formed, → poolWord_formed]

theorem execClearingComplete_formed (core : Nat) {s : State} (hs : Formed s) : NextFormed (execClearingComplete core s) := by
  intro u e
  cases e
  grind [formed_iff, mapCore_formed, onPath_formed, setUniform_formed, wordDone_formed]

theorem execPoolq_formed (d : BitVec 7) (src dst : BitVec 3) {s : State} (hs : Formed s) :
    NextFormed (execPoolq d src dst s) := runWord_formed _ hs _ fun _ _ hu e => by cases e; exact hu

/-! ### Engines -/

theorem copyElem_formed (c : Copy) (n : Nat) (last : Bool) {s : State} (hs : Formed s) {u : State} {x : Copy}
    (e : copyElem c n last s = .ok (u, x)) : Formed u := by
  grind [copyElem, → layoutElem_formed, → loadTileElem_formed, → storeTileElem_formed]

theorem mapChan_formed {s : State} (hs : Formed s) (ch : Nat) (f : Channel → Channel) : Formed (mapChan s ch f) := hs

theorem putCopy_formed {s : State} (hs : Formed s) (ch : Nat) (c : Copy) : Formed (putCopy s ch c) := hs

theorem failWaits_formed {s : State} (hs : Formed s) (l : List (Nat × Nat × Nat × Nat)) : Formed (failWaits s l) :=
  foldl_formed (fun _ e hu => onPath_formed hu e.1 e.2.1 _ fun _ hv => wordTrap_formed (dropRemote_formed hv) _) l hs

theorem closeCopy_formed {s : State} (hs : Formed s) (ch : Nat) (c : Copy) (fault : Option Trap) :
    Formed (closeCopy s ch c fault) := by
  grind [closeCopy, mapChan_formed, mapTask_formed]

theorem failLines_formed (fuel : Nat) (lines : List Nat) {s : State} (hs : Formed s) : Formed (failLines fuel lines s) := by
  induction fuel generalizing lines s with
  | zero => exact hs
  | succ fuel ih =>
    unfold failLines
    split
    · exact hs
    · exact ih _ (foldl_formed (fun _ e hu => closeCopy_formed hu _ _ _) _
        (foldl_formed (fun _ e hu => closeMatOp_formed hu _ _ _) _ (failWaits_formed hs _)))

theorem endCopy_formed {s : State} (hs : Formed s) (ch : Nat) (c : Copy) (fault : Option Trap) : Formed (endCopy s ch c fault) := by
  grind [endCopy, closeCopy_formed, failLines_formed, settle_formed]

theorem landResult_formed {s : State} (hs : Formed s) (c : Copy) {u : State} {x : Copy} (e : landResult s c = .ok (u, x)) :
    Formed u := by
  grind [landResult, formed_iff, bind_eq_ok, → copyFill_formed]

theorem arriveCopy_formed {s : State} (hs : Formed s) (c : Copy) : Formed (arriveCopy s c).1 := by
  grind [arriveCopy, → barArrive_formed]

theorem waitCopy_formed {s : State} (hs : Formed s) (ch : Nat) (c : Copy) (w : Stall) : Formed (waitCopy s ch c w) := by
  unfold waitCopy
  split
  · split
    · exact endCopy_formed (putCopy_formed hs _ _) _ _ _
    · exact putCopy_formed hs _ _
  · exact sendBackInvalidate_formed (putCopy_formed hs _ _) _
  · exact putCopy_formed hs _ _

theorem deliver_formed (l : List (Nat × Bool)) {d : Delivery} (hd : Formed d.s) : Formed (deliver l d).s := by
  induction l generalizing d with
  | nil => exact hd
  | cons y l ih => grind [deliver, → copyElem_formed]

theorem afterDelivery_formed (ch : Nat) {d : Delivery} (hd : Formed d.s) {go : State → Copy → State}
    (hf : ∀ u c, Formed u → Formed (go u c)) : Formed (afterDelivery ch d go) := by
  unfold afterDelivery
  split
  · exact endCopy_formed (putCopy_formed hd _ _) _ _ _
  · exact waitCopy_formed hd _ _ _
  · exact hf _ _ (putCopy_formed hd _ _)

theorem copyAt_formed {s : State} (hs : Formed s) (core ch : Nat) {u : State} {x : Copy} (e : copyAt s core ch = some (u, x)) :
    Formed u := by
  unfold copyAt at e
  split at e
  · cases e
  · cases e; exact focusTask_formed hs _

theorem execCopyStart_formed (core ch n : Nat) {s : State} (hs : Formed s) : NextFormed (execCopyStart core ch n s) := by
  intro v e
  cases e
  split
  · exact hs
  · exact afterDelivery_formed ch (deliver_formed _ (copyAt_formed hs core ch ‹_›)) fun _ _ hu => hu

theorem landCopy_formed (ch : Nat) {s : State} (hs : Formed s) (c : Copy) : Formed (landCopy ch s c) := by
  grind [landCopy, arriveCopy_formed, endCopy_formed, waitCopy_formed, → landResult_formed]

theorem execCopyComplete_formed (core ch : Nat) {s : State} (hs : Formed s) : NextFormed (execCopyComplete core ch s) := by
  intro v e
  cases e
  split
  · exact hs
  · exact afterDelivery_formed ch (deliver_formed _ (copyAt_formed hs core ch ‹_›)) fun _ c hu => landCopy_formed ch hu c

/-! ### Events -/

theorem execParkedTractServe_formed (core : Nat) {s : State} (hs : Formed s) : NextFormed (execParkedTractServe core s) := by
  intro u e
  cases e
  grind [serveParked_formed]

theorem execPendingPieceStart_formed (ctx : Nat) {s : State} (hs : Formed s) : NextFormed (execPendingPieceStart ctx s) := by
  intro u e
  cases e
  grind [formed_iff, mapCtx_formed]

theorem execRjoinWaitExpire_formed (ctx : Nat) {s : State} (hs : Formed s) : NextFormed (execRjoinWaitExpire ctx s) := by
  intro u e
  cases e
  grind [formed_iff, mapCtx_formed]

theorem execVersionCommit_formed (task : Nat) {s : State} (hs : Formed s) : NextFormed (execVersionCommit task s) := by
  intro u e
  cases e
  grind [formed_iff, putTask_formed, sendBackInvalidate_formed, → getTask_pad]

theorem commitRun_formed (part w : Nat) {s : State} (hs : Formed s) (run : Nat × List Byte) :
    Formed (commitRun part w s run) := touchLine_formed (writePhys_formed hs _ _ _) _ _ _

theorem commitTask_formed {s : State} (hs : Formed s) {t : Task} (ht : t.pad.wf = true) : Formed (commitTask s t) := by
  unfold commitTask
  split
  · exact hs
  · rename_i w _
    have hc := foldl_formed (fun _ r hu => commitRun_formed t.part w hu r) ((runsOf t.vlines).filter fun r => commitDueAt s w r.1) hs
    dsimp only
    split
    · exact finishTask_formed hc _
    · exact putTask_formed hc ht

theorem commitsDue_formed {s : State} (hs : Formed s) : Formed (commitsDue s) :=
  foldl_formed_of_mem _ (fun _ t ht hu =>
    commitTask_formed hu ((liveTasks_padsOk hs).filter (fun t => t.commitAt.isSome) t (mem_of_sortBy ht))) hs

theorem takeArea_formed {s : State} (hs : Formed s) (tid a n : Nat) : Formed (takeArea s tid a n) := hs

theorem freeArea_formed {s : State} (hs : Formed s) (a : Nat) : Formed (freeArea s a) := hs

theorem askFor_formed {s : State} (hs : Formed s) (w : Stall) : Formed (askFor s w) := by
  unfold askFor
  split
  · exact sendBackInvalidate_formed hs _
  · exact hs

theorem storeArea_formed (part : Nat) (fuel : Nat) (k : Nat) (xs : List Byte) {s : State} (hs : Formed s) :
    Formed (storeArea part fuel k xs s) := by
  induction fuel generalizing k xs s with
  | zero => grind [storeArea, storeAtHome_formed]
  | succ n ih => grind [storeArea, storeAtHome_formed]

theorem removeCtx_formed {s : State} (hs : Formed s) (id : Nat) : Formed (removeCtx s id) := by
  unfold removeCtx
  split
  · exact hs
  · exact hs

theorem execStandSpill_formed (core : Nat) {s : State} (hs : Formed s) : NextFormed (execStandSpill core s) := by
  intro v e
  cases e
  split
  · exact hs
  split
  · exact hs
  split
  · dsimp only
    split
    · exact hs
    split
    · exact askFor_formed hs _
    · exact serveParked_formed (storeArea_formed _ _ _ _ (takeArea_formed (useFree_formed (removeCtx_formed hs _) _) _ _ _)).same _
  · exact hs

theorem execSpillReturn_formed (core : Nat) {s : State} (hs : Formed s) : NextFormed (execSpillReturn core s) := by
  intro v e
  cases e
  split
  · exact hs
  split
  · exact hs
  split
  · dsimp only
    split
    · rename_i a _
      exact (freeArea_formed hs a).same
    · exact hs.same
  · exact hs

/-! ### Save -/

theorem beginSave_formed {s : State} (hs : Formed s) (tid place : Nat) : Formed (beginSave s tid place) := by
  grind [beginSave, formed_iff, putCore_formed, putTask_formed, takeArea_formed, → getTask_pad]

theorem replan_pad {t : Task} (ht : t.pad.wf = true) (plan : BitVec 64) (place : Option Nat) :
    ({ t with plan := plan, saveAt := place } : Task).pad.wf = true := ht

theorem finishSave_formed {s : State} (hs : Formed s) {t : Task} (ht : t.pad.wf = true) (place : Nat) :
    Formed (finishSave s t place) := by
  unfold finishSave
  extract_lets l ids area saved s₁ s₂ s₃
  have h₁ : Formed s₁ := takeArea_formed (freeArea_formed hs place) _ _ _
  have h₂ : Formed s₂ := storeArea_formed _ _ _ _ (useFree_formed h₁ _)
  have h₃ : Formed s₃ := removeTask_formed (foldl_formed (fun _ id hu => removeCtx_formed hu id) ids (releaseTask_formed h₂ t)) _
  exact h₃.resave (h₃.saved.concat (v := saved) (replan_pad ht _ _))

theorem execContextSave_formed (task : Nat) {s : State} (hs : Formed s) : NextFormed (execContextSave task s) := by
  intro v e
  cases e
  split
  · exact hs
  rename_i t hg
  have ht := getTask_pad hs hg
  have hd := Task.dropCancelled_pad { t with phase := .retiring, saveAt := none } ht
  split
  · exact hs
  rename_i place _
  have hr := settle_formed (putTask_formed (freeArea_formed hs place) hd) task
  dsimp only
  split
  · exact hs
  split
  · exact hr
  split
  · exact fatalTask_formed hs _ _ _
  split
  · exact askFor_formed hs _
  · exact finishSave_formed hs ht _

theorem foldl_setBytes_wf {α : Type} {at_ : α → Nat} {bytes : α → List Byte} (l : List α) {m : Memory} (hm : m.wf = true) :
    Memory.wf (l.foldl (fun m k => Memory.setBytes m (at_ k) (bytes k)) m) = true := by
  induction l generalizing m with
  | nil => exact hm
  | cons x l ih => exact ih (Memory.wf_setBytes _ _ hm)

theorem restorePad_pad (t : Task) (pads : List Byte) : (restorePad t pads).pad.wf = true :=
  foldl_setBytes_wf (m := []) _ rfl

theorem failRestore_formed {s : State} (hs : Formed s) (v : Saved) : Formed (failRestore s v) := by
  grind [failRestore, dropSaved_formed, faultRecord_formed, setStatus_formed]

theorem putRestored_formed {s : State} (hs : Formed s) (v : Saved) (core : Nat) (l : List Byte) :
    Formed (putRestored s v core l) := by
  have h1 : Formed { s with dev := { s.dev with
      saved := s.dev.saved.filter fun u => u.task.tid != v.task.tid
      areas := s.dev.areas.filter fun a => a.2.1 != v.area } } := by
    obtain ⟨hm, hp, hl, hw, hv⟩ := (formed_iff _).1 hs
    exact (formed_iff _).2 ⟨hm, hp, hl, hw, hv.filter _⟩
  have h2 := takePlan_formed h1 { v.task with core := core } v.task.plan.toNat
  obtain ⟨hm, hp, hl, hw, hv⟩ := (formed_iff _).1 (putCore_formed h2 _)
  exact (formed_iff _).2 ⟨hm, hp, (padsOk_append _ _).2 ⟨hl, (padsOk_cons _ _).2 ⟨restorePad_pad _ _, padsOk_nil⟩⟩, hw, hv⟩

theorem execContextRestore_formed (task core : Nat) {s : State} (hs : Formed s) : NextFormed (execContextRestore task core s) := by
  intro u e
  cases e
  grind [failRestore_formed, putRestored_formed]

theorem chooseLeave_formed {s : State} (hs : Formed s) (t : Task) (budget : Nat) : Formed (chooseLeave s t budget) := by
  grind [chooseLeave, beginSave_formed, restartTask_formed]

theorem execPreemptRequest_formed (task : Nat) {s : State} (hs : Formed s) : NextFormed (execPreemptRequest task s) := by
  intro v e
  cases e
  split
  · exact hs
  rename_i t hg
  have ht := getTask_pad hs hg
  dsimp only
  split
  · exact chooseLeave_formed (putTask_formed hs (t := { t with choice := false }) ht) _ _
  split
  · split
    · exact putTask_formed hs (t := { t with asked := true, preqAt := _ }) ht
    · exact chooseLeave_formed (putTask_formed hs (t := { t with asked := true }) ht) _ _
  · exact hs

theorem execPreemptDeferTimeout_formed (task : Nat) {s : State} (hs : Formed s) : NextFormed (execPreemptDeferTimeout task s) := by
  intro u e
  cases e
  grind [focus_formed, regionFault_formed]

theorem restartOrEnd_formed {s : State} (hs : Formed s) (t : Task) (k : Trap) (r : Report) : Formed (restartOrEnd s t k r) := by
  grind [restartOrEnd, formed_iff, fatalTask_formed, faultRecord_formed, restartTask_formed]

theorem leaveNow_formed {s : State} (hs : Formed s) (tid : Nat) (k : Trap) (r : Report) : Formed (leaveNow s tid k r) := by
  grind [leaveNow, beginSave_formed, restartOrEnd_formed]

theorem substitute_formed {s : State} (hs : Formed s) (core b n tid : Nat) (role : Role) :
    Formed (substitute s core b n tid role) := by
  grind [substitute, formed_iff, mapCore_formed, mapTask_formed]

theorem softRestart_formed {s : State} (hs : Formed s) {t : Task} (ht : t.pad.wf = true) (k : Trap) (r : Report) (lasting : Bool) :
    Formed (softRestart s t k r lasting) := abortTask_formed (putTask_formed hs (t := { t with pinned := !lasting }) ht) _ _ _

theorem mapOut_formed {s : State} (hs : Formed s) (core pipe : Nat) (k : Trap) : Formed (mapOut s core pipe k) :=
  foldl_formed (fun _ tid hu => leaveNow_formed hu tid k _) _ (mapCore_formed hs _ _)

theorem afterError_formed (x : Test) (r : Report) (lasting : Bool) {s : State} (hs : Formed s) :
    Formed (afterError x r lasting s) := by
  unfold afterError
  split
  · exact takeMasked_formed (faultRecord_formed hs.same _ _ _) _ _ _ _
  · exact softRestart_formed hs hs.task _ _ _

theorem afterMismatch_formed (x : Test) (r : Report) {s : State} (hs : Formed s) : Formed (afterMismatch x r s) := by
  grind [afterMismatch, formed_iff, faultRecord_formed, mapOut_formed]

theorem beginTest_formed {s : State} (hs : Formed s) (core : Nat) (x : BankTest) : Formed (beginTest s core x) := by
  grind [beginTest, formed_iff, mapCore_formed, substitute_formed]

theorem beginOn_formed {s : State} (hs : Formed s) (c : Core) : Formed (beginOn s c) :=
  foldl_formed (fun _ x hu => beginTest_formed hu c.id x) _ hs

theorem beginTests_formed {s : State} (hs : Formed s) : Formed (beginTests s) :=
  foldl_formed (fun _ c hu => beginOn_formed hu c) _ hs

theorem endTest_formed {s : State} (hs : Formed s) (ctx unit : Nat) (x : Test) (lasting : Bool) :
    Formed (endTest s ctx unit x lasting) := by
  grind [endTest, afterError_formed, afterMismatch_formed, onPath_formed]

theorem noteError_formed {s : State} (hs : Formed s) : Formed (noteError s) := hs

theorem pipeTested_formed {s : State} (hs : Formed s) (core unit ctx : Nat) (lasting : Bool) :
    Formed (pipeTested s core unit ctx lasting) := by
  grind [pipeTested, endTest_formed, faultRecord_formed, mapOut_formed, noteError_formed]

theorem endBank_formed {s : State} (hs : Formed s) (core bank : Nat) (lasting : Bool) :
    Formed (endBank s core bank lasting) := mapCore_formed hs _ _

theorem bankTested_formed {s : State} (hs : Formed s) (core : Nat) (x : BankTest) (lasting residue : Bool) :
    Formed (bankTested s core x lasting residue) := by
  have hn := noteError_formed (endBank_formed hs core x.bank lasting)
  unfold bankTested
  dsimp only
  split
  · split
    · exact hn
    · exact faultRecord_formed hn _ _ _
  · exact foldl_formed (fun _ w hu => endTest_formed hu w.1 x.bank w.2 lasting) _ hn

theorem execSelfTestComplete_formed (core unit : Nat) (lasting residue : Bool) (ctx : Nat) {s : State} (hs : Formed s) :
    NextFormed (execSelfTestComplete core unit lasting residue ctx s) := by
  intro u e
  cases e
  grind [bankTested_formed, pipeTested_formed]

theorem strikePad_pad (t : Task) (word : Nat) (ht : t.pad.wf = true) : (strikePad t word).pad.wf = true := by
  unfold strikePad
  split
  · exact ht
  · exact ht

theorem strikeAt_formed (e : Strike) {s : State} (hs : Formed s) : Formed (strikeAt e s) := by
  cases e with
  | reg ctx reg lane ecc => exact mapCtx_formed hs _ _
  | form ctx reg => exact mapCtx_formed hs _ _
  | pred ctx reg => exact mapCtx_formed hs _ _
  | writeback ctx => exact mapCtx_formed hs _ _
  | pad task word => exact mapTask_formed hs _ fun _ ht => strikePad_pad _ _ ht
  | cache core line bank =>
    have hm := fun f => mapCore_formed hs core f
    unfold strikeAt
    dsimp only
    split
    · exact askTest_formed (hm _) _
    · exact hm _
  | fifo task bank line =>
    refine mapTask_formed hs _ fun t ht => ?_
    split <;> exact ht
  | tile task bank =>
    refine mapTask_formed hs _ fun t ht => ?_
    split <;> exact ht
  | memory line =>
    unfold strikeAt
    dsimp only
    split
    · exact hs.same
    · exact hs
  | network ctx lanes applied => exact mapCtx_formed hs _ _
  | single => exact hs.same

/-! ### Tiers -/

theorem execTrackerControlWrite_formed (part : Nat) (val : Word64) {s : State} (hs : Formed s) :
    NextFormed (execTrackerControlWrite part val s) := by
  intro u e
  cases e
  split
  · exact hs
  · exact hs

theorem markBusy_formed {s : State} (hs : Formed s) (part addr : Nat) :
    Formed (markBusy s part addr) := rmwAtHome_formed (noteMiss_formed hs _ _ _) _ _ _ _ _

theorem readPage_formed {s : State} (hs : Formed s) (h : HotPage) : Formed (readPage s h) := by
  unfold readPage
  split
  · exact hs
  · exact readEntries_formed hs _ _

theorem startPair_formed {s : State} (hs : Formed s) (f n : HotPage) : Formed (startPair s f n) := by
  grind [startPair, formed_iff, markBusy_formed, readPage_formed]

theorem startPairs_formed (left : Nat) (l : List HotPage) {s : State} (hs : Formed s) : Formed (startPairs left l s) := by
  induction l generalizing left s with
  | nil => cases left <;> exact hs
  | cons f l ih =>
    cases left with
    | zero => exact hs
    | succ left =>
      unfold startPairs
      split
      · exact hs
      · split
        · exact ih _ (startPair_formed hs _ _)
        · exact ih _ hs

theorem execTrackerEpochEnd_formed {s : State} (hs : Formed s) : NextFormed (execTrackerEpochEnd s) := by
  intro u e
  cases e
  grind [formed_iff, askHost_formed, startPairs_formed]

theorem swapTask_pad (w : Swap) (t : Task) (ht : t.pad.wf = true) : (swapTask w t).pad.wf = true := ht

theorem swapHolders_formed {s : State} (hs : Formed s) (w : Swap) : Formed (swapHolders s w) := by
  obtain ⟨hm, hp, hl, hw, hv⟩ := (formed_iff _).1 hs
  exact (formed_iff _).2 ⟨hm, swapTask_pad w _ hp, hl.map (swapTask_pad w), hw, hv.map fun v hv => swapTask_pad w v.task hv⟩

theorem endPair_formed {s : State} (hs : Formed s) (w : Swap) : Formed (endPair s w) := by
  grind [endPair, formed_iff, dropPage_formed, swapHolders_formed, writeEntry_formed]

theorem execSwapLineMove_formed (pair : Nat) (bad : Bool) {s : State} (hs : Formed s) : NextFormed (execSwapLineMove pair bad s) := by
  intro u e
  cases e
  grind [askFor_formed, endPair_formed, moveOrStop_formed]

/-! ### Dies -/

theorem leaveDie_formed {s : State} (hs : Formed s) (die : Nat) : Formed (leaveDie s die) :=
  foldl_formed (fun _ tid hu => useFree_formed (leaveNow_formed hu tid _ _) 3) _ hs

theorem dieGoesDown_formed {s : State} (hs : Formed s) (die : Nat) : Formed (dieGoesDown s die) := hs

theorem writeBack_formed {s : State} (hs : Formed s) (die : Nat) : Formed (writeBack s die) := hs

theorem execDieResetOrderly_formed (die : Nat) {s : State} (hs : Formed s) : NextFormed (execDieResetOrderly die s) := by
  intro u e
  cases e
  grind [formed_iff, dieGoesDown_formed, leaveDie_formed, writeBack_formed]

theorem loseOps_formed {s : State} (hs : Formed s) (tid : Nat) : Formed (loseOps s tid) := by
  grind [loseOps, formed_iff, mapTask_formed]

theorem endOnDie_formed {s : State} (hs : Formed s) (tid : Nat) : Formed (endOnDie s tid) := by
  grind [endOnDie, loseOps_formed, restartOrEnd_formed, settle_formed, useFree_formed]

theorem endDie_formed {s : State} (hs : Formed s) (die : Nat) : Formed (endDie s die) :=
  foldl_formed (fun _ tid hu => endOnDie_formed hu tid) _ hs

theorem foldl_wf {α : Type} {f : Memory → α → Memory} (hf : ∀ m x, m.wf = true → (f m x).wf = true) (l : List α) {m : Memory}
    (hm : m.wf = true) : (l.foldl f m).wf = true := by
  induction l generalizing m with
  | nil => exact hm
  | cons x l ih => exact ih (hf m x hm)

theorem loseModified_formed {s : State} (hs : Formed s) (die : Nat) : Formed (loseModified s die) := by
  obtain ⟨hm, hp, hl, hw, hv⟩ := (formed_iff _).1 hs
  refine (formed_iff _).2 ⟨foldl_wf (fun m c hm => ?_) _ hm, hp, hl, hw, hv⟩
  split
  · exact Memory.wf_set _ _ hm
  · exact hm

theorem stopCommit_pad (s : State) (die : Nat) (t : Task) (ht : t.pad.wf = true) : (stopCommit s die t).pad.wf = true := by
  unfold stopCommit
  split <;> exact ht

theorem stopCommits_formed {s : State} (hs : Formed s) (die : Nat) : Formed (stopCommits s die) := by
  obtain ⟨hm, hp, hl, hw, hv⟩ := (formed_iff _).1 hs
  exact (formed_iff _).2 ⟨hm, stopCommit_pad s die _ hp, hl.map (stopCommit_pad s die), hw, hv⟩

theorem faultMasked_formed {s : State} (hs : Formed s) (mask : Nat → Bool) : Formed (faultMasked s mask) :=
  foldl_formed (fun _ num hu => useFree_formed (regionFault_formed hu num _ _ _) 1) _ hs

theorem execDieResetUnplanned_formed (die : Nat) {s : State} (hs : Formed s) : NextFormed (execDieResetUnplanned die s) := by
  intro u e
  cases e
  grind [dieGoesDown_formed, endDie_formed, faultMasked_formed, loseModified_formed, stopCommits_formed]

theorem execDieResetReturn_formed (die : Nat) {s : State} (hs : Formed s) : NextFormed (execDieResetReturn die s) := by
  intro u e
  cases e
  split
  · exact hs
  · exact hs

theorem execDroopReport_formed (die steps : Nat) {s : State} (hs : Formed s) :
    NextFormed (execDroopReport die steps s) := by intro u e; cases e; exact hs

theorem execClockStepRise_formed (die : Nat) {s : State} (hs : Formed s) : NextFormed (execClockStepRise die s) := by
  intro u e
  cases e
  split
  · exact hs
  · exact hs

theorem execSagCounterClear_formed (die : Nat) (val : Word64) {s : State} (hs : Formed s) :
    NextFormed (execSagCounterClear die val s) := by
  intro u e
  cases e
  split
  · exact hs
  · exact hs

/-! ### Module -/

theorem resetModule_formed {s : State} (hs : Formed s) : Formed (resetModule s) :=
  formed_of_empty ((formed_iff _).1 hs).1 rfl rfl rfl rfl

theorem execModuleReset_formed {s : State} (hs : Formed s) :
    NextFormed (execModuleReset s) := by intro u e; cases e; exact resetModule_formed hs

theorem bringTo_formed {s : State} (hs : Formed s) (ok : Bool) (next detail : Nat) : Formed (bringTo s ok next detail) := hs

theorem inBringState_formed {s : State} (hs : Formed s) (n : Nat) (f : State → State) (hf : ∀ u, Formed u → Formed (f u)) :
    NextFormed (inBringState s n f) := by
  intro u e
  cases e
  grind []

theorem execBringupRom_formed (ok : Bool) {s : State} (hs : Formed s) : NextFormed (execBringupRom ok s) := by
  intro u e
  cases e
  split
  · exact hs
  · exact hs

theorem execBringupFw_formed (ok : Bool) {s : State} (hs : Formed s) : NextFormed (execBringupFw ok s) := by
  intro u e
  cases e
  split
  · exact hs
  · exact hs

theorem takeConfig_formed {s : State} (hs : Formed s) (image : List Byte) : Formed (takeConfig s image) := hs

theorem execBringupConfig_formed (image : List (BitVec 8)) (sigOk : Bool) {s : State} (hs : Formed s) :
    NextFormed (execBringupConfig image sigOk s) := by
  intro u e
  cases e
  grind [bringTo_formed, inBringState_formed, takeConfig_formed]

theorem execBringupMemory_formed (ok : Bool) {s : State} (hs : Formed s) : NextFormed (execBringupMemory ok s) := by
  intro u e
  cases e
  grind [formed_iff, bringTo_formed, inBringState_formed]

theorem execBringupDies_formed (ok : Bool) {s : State} (hs : Formed s) : NextFormed (execBringupDies ok s) := by
  intro u e
  cases e
  grind [formed_iff, bringTo_formed, inBringState_formed]

theorem execBringupHost_formed (ok : Bool) {s : State} (hs : Formed s) : NextFormed (execBringupHost ok s) := by
  intro u e
  cases e
  grind [bringTo_formed, inBringState_formed]

theorem faultPart_formed {s : State} (hs : Formed s) (p : Nat) : Formed (faultPart s p) :=
  foldl_formed (fun _ num hu => useFree_formed (regionFault_formed hu num _ _ _) 1) _ hs

theorem finishPosted_formed {s : State} (hs : Formed s) (p : Nat) : Formed (finishPosted s p) := by
  refine foldl_formed (fun u w hu => ?_) _ (setPosted_formed hs _)
  split
  · rename_i v x e
    exact storeAtHome_formed (noteMiss_formed (walkXlat_formed hu _ _ _ e) _ _ _) _ _ _ _
  · exact hu

theorem completePart_formed {s : State} (hs : Formed s) (p : Nat) : Formed (completePart s p) := by
  grind [completePart, formed_iff, finishPosted_formed, serveAll_formed]

theorem dropLines_formed {s : State} (hs : Formed s) (p : Nat) : Formed (dropLines s p) :=
  (foldl_formed (fun _ h hu => evictLine_formed hu h)
    (s.lines.filter fun h => h.tag == p && h.resident && decide (h.home < 256)) hs).same

theorem zeroGroup_formed {s : State} (hs : Formed s) (g : Nat × Nat) : Formed (zeroGroup s g) := mapCore_formed hs _ _

theorem zeroGroups_formed {s : State} (hs : Formed s) (p : Nat) : Formed (zeroGroups s p) :=
  foldl_formed (fun _ g hu => zeroGroup_formed hu g) _ hs

theorem setRoot_formed {s : State} (hs : Formed s) (p : Nat) (v : Word64) : Formed (setRoot s p v) := hs

theorem tearDown_formed {s : State} (hs : Formed s) (p : Nat) : Formed (tearDown s p) := by
  grind [tearDown, formed_iff, completePart_formed, dropLines_formed, faultPart_formed, setRoot_formed, zeroGroups_formed]

theorem loadPools_formed {s : State} (hs : Formed s) (old : Config) : Formed (loadPools s old) := by
  grind [loadPools, formed_iff]

theorem execConfigRecordLoad_formed (image : List (BitVec 8)) (sigOk : Bool) {s : State} (hs : Formed s) :
    NextFormed (execConfigRecordLoad image sigOk s) := by
  refine inBringState_formed hs _ _ fun u hu => ?_
  split
  · exact hu
  · exact loadPools_formed (takeConfig_formed (foldl_formed (fun _ p hv => tearDown_formed hv p) _ hu) _) _

theorem execRootRegisterSet_formed (part : Nat) (val : Word64) {s : State} (hs : Formed s) :
    NextFormed (execRootRegisterSet part val s) := by
  intro u e
  cases e
  grind [dropAll_formed, setRoot_formed]

theorem execCapabilityRegisterSet_formed (part : Nat) (val : Word64) {s : State} (hs : Formed s) :
    NextFormed (execCapabilityRegisterSet part val s) := by
  intro u e
  cases e
  split
  · exact hs
  · exact hs

theorem execRegisterWrite_formed (part reg : Nat) (val : Word64) {s : State} (hs : Formed s) :
    NextFormed (execRegisterWrite part reg val s) := by
  intro u e
  cases e
  split
  · exact hs
  · exact hs

theorem execAttestationRequest_formed (part : Nat) (nonce : BitVec 256) {s : State} (hs : Formed s) :
    NextFormed (execAttestationRequest part nonce s) := by
  intro u e
  cases e
  grind [formed_iff, useFree_formed]

theorem releaseReport_formed {s : State} (hs : Formed s) : Formed (releaseReport s) := by
  unfold releaseReport
  split
  · exact hs
  · exact hs

theorem execPowerLoss_formed {s : State} (hs : Formed s) : NextFormed (execPowerLoss s) := by intro u e; cases e; exact hs

/-! ### HostLink -/

theorem hostStore_formed {s : State} (hs : Formed s) (run : Nat × List Byte) :
    Formed (hostStore s run) := storeAtHome_formed (noteMiss_formed hs _ _ _) _ _ _ _

theorem execHostMemWrite_formed (pa : Nat) (data : List (BitVec 8)) {s : State} (hs : Formed s) :
    NextFormed (execHostMemWrite pa data s) := by
  intro u e
  cases e
  split
  · exact foldl_formed (fun _ r hu => hostStore_formed hu r) _ hs
  · exact hs

theorem noteHeld_formed {s : State} (hs : Formed s) (line : Nat) : Formed (noteHeld s line) := by
  unfold noteHeld
  split
  · exact hs
  · exact hs

theorem hostLoad_formed (xs : List (Nat × Nat)) {s : State} (hs : Formed s) : Formed (hostLoad xs s).1 := by
  induction xs generalizing s with
  | nil => grind [hostLoad, noteHeld_formed, noteMiss_formed, readAtHome_formed]
  | cons y l ih => grind [hostLoad, noteHeld_formed, noteMiss_formed, readAtHome_formed]

theorem execHostMemRead_formed (pa size : Nat) {s : State} (hs : Formed s) : NextFormed (execHostMemRead pa size s) := by
  intro u e
  cases e
  split
  · exact hostLoad_formed _ hs
  · exact hs

theorem execBackInvalidateResponse_formed (n : Nat) {s : State} (hs : Formed s) : NextFormed (execBackInvalidateResponse n s) := by
  intro u e
  cases e
  split
  · exact hs
  · exact hs

theorem execHostLineAccess_formed (pa : Nat) (data : List (BitVec 8)) (write : Bool) {s : State} (hs : Formed s) :
    NextFormed (execHostLineAccess pa data write s) := by
  intro u e
  cases e
  split
  · exact hs
  split
  · exact foldl_formed (fun _ r hu => storeAtHome_formed hu _ _ _ _) _ hs
  · exact hs.same

/-! ### Chain -/

theorem fetchFail_formed {s : State} (hs : Formed s) (f : XFail) (packet : BitVec 32) (redo : Option Redo) :
    Formed (fetchFail s f packet redo) := by
  grind [fetchFail, mapPath_formed, takeTrap_formed, wordStall_formed]

theorem chainTrapAt_formed {s : State} (hs : Formed s) (packet : BitVec 32) (slot : Nat) (code : BitVec 8) (detail lane : Nat)
    (at_ : Option Nat) : Formed (chainTrapAt s packet slot code detail lane at_) := takeTrap_formed hs.same _ _ _ _

theorem chainTrap_formed {s : State} (hs : Formed s) (packet : BitVec 32) (slot : Nat) (code : BitVec 8) (detail lane : Nat) :
    Formed (chainTrap s packet slot code detail lane) := chainTrapAt_formed hs _ _ _ _ _ _

theorem beginChain_formed {s : State} (hs : Formed s) (packet : BitVec 32) (w : Word32 × Word32 × Word32) (us : List ChainWord) :
    Formed (beginChain s packet w us) := hs

theorem chainWord_formed {s : State} (hs : Formed s) (packet : BitVec 32) (slot : Nat) {u : State} {x : Word32}
    (e : chainWord s packet slot = .ok (u, x)) : Formed u := by
  grind [chainWord, formed_iff, mapPath_formed, → fetchPacket_formed]

theorem withKept_formed (i : Instr) {s : State} (hs : Formed s) : Formed (withKept i s) := by
  unfold withKept
  split
  · exact hs
  · exact hs

theorem putOff_formed {s : State} (hs : Formed s) (rest : List Nat) {u : State} (e : putOff s rest = some u) : Formed u := by
  obtain ⟨q, _, rfl⟩ := Option.map_eq_some_iff.1 e
  exact takePend_formed hs _ _ _ _

theorem placeChain_formed {s : State} (hs : Formed s) (w : Word32 × Word32 × Word32) (packet : BitVec 32) (slot : Nat)
    (us : List ChainWord) {u : State} (e : placeChain s w packet slot us = some u) : Formed u := by
  grind [placeChain, chainTrap_formed]

theorem packetNow_formed {s : State} (hs : Formed s) {u : State} {x : Word32 × Word32 × Word32} (e : packetNow s = .ok (u, x)) :
    Formed u := by
  grind [packetNow, → fetchPacket_formed]

/-! ### Sched -/

theorem releaseHolds_formed {s : State} (hs : Formed s) (ctx : Nat) : Formed (releaseHolds s ctx) := hs

theorem selectPath_formed {s : State} (hs : Formed s) (ready : Context → Path → Bool) (ctx path : Nat) {u : State}
    (e : selectPath s ready ctx path = some u) : Formed u := by
  grind [selectPath, formed_iff, focus_formed, releaseHolds_formed]

/-! ### Dispatch -/

theorem exec_formed (i : Instr) {s : State} (hs : Formed s) : NextFormed (exec i s) := by
  cases i with
  | nop => exact execNop_formed hs
  | ret => exact execRet_formed hs
  | matl => exact execMatl_formed hs
  | rjoin a b => exact execRjoin_formed a b hs
  | join => exact execJoin_formed hs
  | yield => exact execYield_formed hs
  | exit => exact execExit_formed hs
  | hret => exact execHret_formed hs
  | time d => exact execTime_formed d hs
  | laneid d => exact execLaneid_formed d hs
  | idx d b => exact execIdx_formed d b hs
  | locq d a => exact execLocq_formed d a hs
  | trap b => exact execTrap_formed b hs
  | launch d a b => exact execLaunch_formed d a b hs
  | xset d b => exact execXset_formed d b hs
  | bra disp => exact execBra_formed disp hs
  | call disp => exact execCall_formed disp hs
  | loop reg disp => exact execLoop_formed reg disp hs
  | brc cond reg disp => exact execBrc_formed cond reg disp hs
  | brv sense preg disp => exact execBrv_formed sense preg disp hs
  | brx a => exact execBrx_formed a hs
  | aadd d a b => exact execAadd_formed d a b hs
  | asub d a b => exact execAsub_formed d a b hs
  | amul d a b => exact execAmul_formed d a b hs
  | ashl d a b => exact execAshl_formed d a b hs
  | ashr d a b => exact execAshr_formed d a b hs
  | aand d a b => exact execAand_formed d a b hs
  | aor d a b => exact execAor_formed d a b hs
  | axor d a b => exact execAxor_formed d a b hs
  | amin d a b => exact execAmin_formed d a b hs
  | amax d a b => exact execAmax_formed d a b hs
  | acmpEq d a b => exact execAcmpEq_formed d a b hs
  | acmpNe d a b => exact execAcmpNe_formed d a b hs
  | acmpLt d a b => exact execAcmpLt_formed d a b hs
  | acmpLe d a b => exact execAcmpLe_formed d a b hs
  | acmpLtu d a b => exact execAcmpLtu_formed d a b hs
  | acmpLeu d a b => exact execAcmpLeu_formed d a b hs
  | aaddi d a imm => exact execAaddi_formed d a imm hs
  | amuli d a imm => exact execAmuli_formed d a imm hs
  | ashli d a imm => exact execAshli_formed d a imm hs
  | ashri d a imm => exact execAshri_formed d a imm hs
  | amovi d imm => exact execAmovi_formed d imm hs
  | aandi d a imm => exact execAandi_formed d a imm hs
  | ald data base disp6 => exact execAld_formed data base disp6 hs
  | pand pd pa pb => exact execPand_formed pd pa pb hs
  | por pd pa pb => exact execPor_formed pd pa pb hs
  | pxor pd pa pb => exact execPxor_formed pd pa pb hs
  | pnot pd pa => exact execPnot_formed pd pa hs
  | pcnt d pa => exact execPcnt_formed d pa hs
  | pfirstA d pa => exact execPfirstA_formed d pa hs
  | pfirstP pd pa => exact execPfirstP_formed pd pa hs
  | ballot d a => exact execBallot_formed d a hs
  | gets d b => exact execGets_formed d b hs
  | sets a b => exact execSets_formed a b hs
  | lread d a b => exact execLread_formed d a b hs
  | lwrite d a b => exact execLwrite_formed d a b hs
  | iadd d a b f => exact execIadd_formed d a b f hs
  | isub d a b f => exact execIsub_formed d a b f hs
  | imul d a b f => exact execImul_formed d a b f hs
  | imulh d a b f3 => exact execImulh_formed d a b f3 hs
  | imad d a b f => exact execImad_formed d a b f hs
  | imin d a b f3 => exact execImin_formed d a b f3 hs
  | imax d a b f3 => exact execImax_formed d a b f3 hs
  | iabs d a f => exact execIabs_formed d a f hs
  | icmp d a b f3 => exact execIcmp_formed d a b f3 hs
  | sel d a b f3 => exact execSel_formed d a b f3 hs
  | and d a b => exact execAnd_formed d a b hs
  | or d a b => exact execOr_formed d a b hs
  | xor d a b => exact execXor_formed d a b hs
  | andn d a b => exact execAndn_formed d a b hs
  | shl d a b => exact execShl_formed d a b hs
  | shr d a b => exact execShr_formed d a b hs
  | sar d a b => exact execSar_formed d a b hs
  | rotl d a b => exact execRotl_formed d a b hs
  | popc d a => exact execPopc_formed d a hs
  | clz d a => exact execClz_formed d a hs
  | brev d a => exact execBrev_formed d a hs
  | blut d a b => exact execBlut_formed d a b hs
  | bshuf d a b => exact execBshuf_formed d a b hs
  | bcmpEq d a b => exact execBcmpEq_formed d a b hs
  | bcmpLt d a b => exact execBcmpLt_formed d a b hs
  | bcmpLtu d a b => exact execBcmpLtu_formed d a b hs
  | baddsI8 d a b => exact execBaddsI8_formed d a b hs
  | baddsN8 d a b => exact execBaddsN8_formed d a b hs
  | lshc d a b f => exact execLshc_formed d a b f hs
  | xperm d a b => exact execXperm_formed d a b hs
  | vscan d a f => exact execVscan_formed d a f hs
  | vred d a f => exact execVred_formed d a f hs
  | fadd d a b f => exact execFadd_formed d a b f hs
  | fsub d a b f => exact execFsub_formed d a b f hs
  | fmul d a b f => exact execFmul_formed d a b f hs
  | fma d a b f => exact execFma_formed d a b f hs
  | fmin d a b => exact execFmin_formed d a b hs
  | fmax d a b => exact execFmax_formed d a b hs
  | fcmp d a b => exact execFcmp_formed d a b hs
  | fdiv d a b f => exact execFdiv_formed d a b f hs
  | fsqrt d a f => exact execFsqrt_formed d a f hs
  | frcp d a f => exact execFrcp_formed d a f hs
  | frsq d a f => exact execFrsq_formed d a f hs
  | fexp2 d a f => exact execFexp2_formed d a f hs
  | flog2 d a f => exact execFlog2_formed d a f hs
  | fsin d a f => exact execFsin_formed d a f hs
  | fcos d a f => exact execFcos_formed d a f hs
  | fclass d a => exact execFclass_formed d a hs
  | cvt d a dt f => exact execCvt_formed d a dt f hs
  | xsum data base index scale disp6 => exact execXsum_formed data base index scale disp6 hs
  | sumrd data base index scale disp6 => exact execSumrd_formed data base index scale disp6 hs
  | ldg data base index scale disp6 => exact execLdg_formed data base index scale disp6 hs
  | ldgF data base index scale disp6 => exact execLdgF_formed data base index scale disp6 hs
  | stg data base index scale disp6 => exact execStg_formed data base index scale disp6 hs
  | ldk data base scale disp6 => exact execLdk_formed data base scale disp6 hs
  | pref base index scale disp6 => exact execPref_formed base index scale disp6 hs
  | ldp data base index scale disp6 => exact execLdp_formed data base index scale disp6 hs
  | stp data base index scale disp6 => exact execStp_formed data base index scale disp6 hs
  | atomg d areg b f => exact execAtomg_formed d areg b f hs
  | atomp d areg b f => exact execAtomp_formed d areg b f hs
  | atomr d areg b f => exact execAtomr_formed d areg b f hs
  | cpy d a b ch => exact execCpy_formed d a b ch hs
  | cpyi d a b ch => exact execCpyi_formed d a b ch hs
  | cseal => exact execCseal_formed hs
  | cwait b => exact execCwait_formed b hs
  | pempty a b => exact execPempty_formed a b hs
  | fence => exact execFence_formed hs
  | barinit a b => exact execBarinit_formed a b hs
  | bararr d a => exact execBararr_formed d a hs
  | barwait a b => exact execBarwait_formed a b hs
  | barinv a => exact execBarinv_formed a hs
  | semw d a b => exact execSemw_formed d a b hs
  | sems a b => exact execSems_formed a b hs
  | tlbinv a b => exact execTlbinv_formed a b hs
  | sendq d a b => exact execSendq_formed d a b hs
  | recvq d a => exact execRecvq_formed d a hs
  | padopen win rights a b => exact execPadopen_formed win rights a b hs
  | poolset d src dst b f3 => exact execPoolset_formed d src dst b f3 hs
  | poolq d src dst => exact execPoolq_formed d src dst hs
  | mma tile ka kb fmt step => exact execMma_formed tile ka kb fmt step hs
  | mmas tile ka kb fmt step => exact execMmas_formed tile ka kb fmt step hs
  | mzero tile i32 => exact execMzero_formed tile i32 hs
  | mload tile ka i32 => exact execMload_formed tile ka i32 hs
  | mdrain tile ka flags => exact execMdrain_formed tile ka flags hs
  | mseal => exact execMseal_formed hs
  | mwait flags => exact execMwait_formed flags hs
  | epload tile ka => exact execEpload_formed tile ka hs
  | rset d a b ch => exact execRset_formed d a b ch hs
  | rast d a bw bp => exact execRast_formed d a bw bp hs
  | travset d bpair => exact execTravset_formed d bpair hs
  | travRay d a bpair bp => exact execTravRay_formed d a bpair bp hs
  | travBox d a bpair bp => exact execTravBox_formed d a bpair bp hs
  | fbload dch a b => exact execFbload_formed dch a b hs
  | fbstore dch a b => exact execFbstore_formed dch a b hs
  | fbdone a b => exact execFbdone_formed a b hs
  | vtest pd pa b f => exact execVtest_formed pd pa b f hs
  | fbw d pa b f => exact execFbw_formed d pa b f hs
  | vsplit wd wr pa => exact execVsplit_formed wd wr pa hs
  | vends d pa => exact execVends_formed d pa hs
  | vmask pd pa b => exact execVmask_formed pd pa b hs
  | vagree gwd gws gt gva gvb => exact execVagree_formed gwd gws gt gva gvb hs
  | vhalve wd wr pa => exact execVhalve_formed wd wr pa hs
  | xpfx kind payload => exact execXpfx_formed kind payload hs
  | parkedTractServe core => exact execParkedTractServe_formed core hs
  | pendingPieceStart ctx => exact execPendingPieceStart_formed ctx hs
  | rjoinWaitExpire ctx => exact execRjoinWaitExpire_formed ctx hs
  | versionCommit task => exact execVersionCommit_formed task hs
  | standSpill core => exact execStandSpill_formed core hs
  | spillReturn core => exact execSpillReturn_formed core hs
  | clearingComplete core => exact execClearingComplete_formed core hs
  | waitLimitExpire ctx pathNo => exact execWaitLimitExpire_formed ctx pathNo hs
  | semwWaitLimit ctx pathNo => exact execSemwWaitLimit_formed ctx pathNo hs
  | yieldHoldExpire ctx pathNo => exact execYieldHoldExpire_formed ctx pathNo hs
  | bankPortUrgent ctx => exact execBankPortUrgent_formed ctx hs
  | homeLoad n => exact execHomeLoad_formed n hs
  | homeStore n => exact execHomeStore_formed n hs
  | homeAtomic n => exact execHomeAtomic_formed n hs
  | copyStart core ch n => exact execCopyStart_formed core ch n hs
  | copyComplete core ch => exact execCopyComplete_formed core ch hs
  | matrixOpExecute core n => exact execMatrixOpExecute_formed core n hs
  | drainExecute core n => exact execDrainExecute_formed core n hs
  | inboxMessageArrive n => exact execInboxMessageArrive_formed n hs
  | atomrExecute n => exact execAtomrExecute_formed n hs
  | preemptRequest task => exact execPreemptRequest_formed task hs
  | preemptDeferTimeout task => exact execPreemptDeferTimeout_formed task hs
  | contextSave task => exact execContextSave_formed task hs
  | contextRestore task core => exact execContextRestore_formed task core hs
  | selfTestComplete core unit lasting residue ctx => exact execSelfTestComplete_formed core unit lasting residue ctx hs
  | pageWalk core part va write => exact execPageWalk_formed core part va write hs
  | trackerEpochEnd => exact execTrackerEpochEnd_formed hs
  | swapLineMove pair bad => exact execSwapLineMove_formed pair bad hs
  | regload resv arg0 arg1 seq => exact execRegload_formed resv arg0 arg1 seq hs
  | regfree resv arg0 arg1 seq => exact execRegfree_formed resv arg0 arg1 seq hs
  | qset resv arg0 arg1 seq => exact execQset_formed resv arg0 arg1 seq hs
  | qstop resv arg0 arg1 seq => exact execQstop_formed resv arg0 arg1 seq hs
  | semset resv arg0 arg1 seq => exact execSemset_formed resv arg0 arg1 seq hs
  | hostSlotWrite q rec => exact execHostSlotWrite_formed q rec hs
  | launchDequeue => exact execLaunchDequeue_formed hs
  | launchSemaphoreWait serial => exact execLaunchSemaphoreWait_formed serial hs
  | piecePlacement die => exact execPiecePlacement_formed die hs
  | completionRecordWrite serial => exact execCompletionRecordWrite_formed serial hs
  | dieResetOrderly die => exact execDieResetOrderly_formed die hs
  | dieResetUnplanned die => exact execDieResetUnplanned_formed die hs
  | dieResetReturn die => exact execDieResetReturn_formed die hs
  | moduleReset => exact execModuleReset_formed hs
  | bringupRom ok => exact execBringupRom_formed ok hs
  | bringupFw ok => exact execBringupFw_formed ok hs
  | bringupConfig image sigOk => exact execBringupConfig_formed image sigOk hs
  | bringupMemory ok => exact execBringupMemory_formed ok hs
  | bringupDies ok => exact execBringupDies_formed ok hs
  | bringupHost ok => exact execBringupHost_formed ok hs
  | configRecordLoad image sigOk => exact execConfigRecordLoad_formed image sigOk hs
  | rootRegisterSet part val => exact execRootRegisterSet_formed part val hs
  | capabilityRegisterSet part val => exact execCapabilityRegisterSet_formed part val hs
  | attestationRequest part nonce => exact execAttestationRequest_formed part nonce hs
  | hostMemWrite pa data => exact execHostMemWrite_formed pa data hs
  | hostMemRead pa size => exact execHostMemRead_formed pa size hs
  | backInvalidateResponse n => exact execBackInvalidateResponse_formed n hs
  | droopReport die steps => exact execDroopReport_formed die steps hs
  | clockStepRise die => exact execClockStepRise_formed die hs
  | sagCounterClear die val => exact execSagCounterClear_formed die val hs
  | trackerControlWrite part val => exact execTrackerControlWrite_formed part val hs
  | registerWrite part reg val => exact execRegisterWrite_formed part reg val hs
  | pendingHorizonGuardReached ctx pathNo => exact execPendingHorizonGuardReached_formed ctx pathNo hs
  | powerLoss => exact execPowerLoss_formed hs
  | hostLineAccess pa data write => exact execHostLineAccess_formed pa data write hs

/-! ## Chains and turns -/

/-- What a path does next leaves the form as it is. -/
def PrepFormed : Prep → Prop
  | .word _ s => Formed s
  | .done s => Formed s

/-! ### Chain -/

theorem issueHead_formed {s : State} (hs : Formed s) (packet : BitVec 32) (slot : Nat) (rest : List Nat) :
    PrepFormed (issueHead s packet slot rest) := by
  unfold issueHead
  dsimp only
  split
  · exact fetchFail_formed hs _ _ _
  · rename_i u x e
    have hu := chainWord_formed hs _ _ e
    split
    · exact wordTrap_formed hu _
    · rename_i i _
      have hk := withKept_formed i hu
      split
      · rename_i v ev
        split at ev
        · exact putOff_formed hk _ ev
        · cases ev
      · split
        · exact hk
        · exact wordStall_formed hk _

theorem issueChain_formed {s : State} (hs : Formed s) (packet : BitVec 32) (w : Word32 × Word32 × Word32) (us : List ChainWord) :
    PrepFormed (issueChain s packet w us) := by
  have hb := beginChain_formed hs packet w us
  unfold issueChain
  dsimp only
  split
  · exact issueHead_formed hb _ _ _
  · exact hb

theorem issueMany_formed {s : State} (hs : Formed s) (packet : BitVec 32) (w : Word32 × Word32 × Word32) (us : List ChainWord) :
    PrepFormed (issueMany s packet w us) := by
  have ht := fun k code d l => chainTrap_formed hs packet k code d l
  unfold issueMany
  dsimp only
  split
  · exact ht _ _ _ _
  split
  · simp only [PrepFormed]
    split
    · exact materialise_formed hs ‹_›
    · exact ht _ _ _ _
    · exact wordStall_formed hs _
  split
  · exact ht _ _ _ _
  split
  · exact chainTrapAt_formed hs _ _ _ _ _ _
  · exact issueChain_formed hs _ _ _

theorem startChain_formed {s : State} (hs : Formed s) : PrepFormed (startChain s) := by
  unfold startChain
  dsimp only
  split
  · exact fetchFail_formed hs _ _ _
  rename_i u w e
  have hu := packetNow_formed hs e
  split
  · exact placeChain_formed hu _ _ _ _ ‹_›
  split
  · exact issueChain_formed hu _ _ _
  · exact issueMany_formed hu _ _ _

theorem prepare_formed {s : State} (hs : Formed s) : PrepFormed (prepare s) := by
  unfold prepare
  split
  · exact issueHead_formed hs _ _ _
  · exact startChain_formed hs

/-! ### Turn -/

theorem runWords_formed (n : Nat) {s : State} (hs : Formed s) : NextFormed (runWords n s) := by
  induction n generalizing s with
  | zero => intro u e; cases e; exact hs
  | succ n ih =>
    have hp := prepare_formed hs
    unfold runWords
    split
    · rename_i t e
      rw [e] at hp
      intro u h; cases h; exact hp
    · rename_i i v e
      rw [e] at hp
      have hx := exec_formed i hp
      split
      · rename_i t he
        have ht := hx t he
        split
        · exact ih ht
        · intro u h; cases h; exact ht
      · exact hx

theorem firstMove_formed (l : List Instr) {s : State} (hs : Formed s) {o : Host.Outcome State Fault Refusal}
    (e : firstMove l s = some o) : NextFormed o := by
  induction l with
  | nil => cases e
  | cons i l ih =>
    have hx := exec_formed i hs
    unfold firstMove at e
    split at e
    · rename_i t he
      split at e
      · exact ih e
      · cases e; exact he ▸ hx
    · cases e; exact hx

theorem runPath_formed {s : State} (hs : Formed s) (ctx path n : Nat) : NextFormed (runPath s ctx path n) := by
  grind [runPath, NextFormed, runWords_formed, → selectPath_formed]

theorem runTurn_formed (t : Turn) {s : State} (hs : Formed s) : NextFormed (runTurn t s) := by
  cases t with
  | event i => exact exec_formed i hs
  | issue ctx path => exact runPath_formed hs _ _ _
  | lanes ctx path n =>
    have hr := runPath_formed (s := { s with cut := some n }) hs.same ctx path chainMax
    unfold runTurn
    dsimp only
    split
    · rename_i v he
      intro u h; cases h; exact (hr v he).same
    · exact hr
  | strike e => intro u h; cases h; exact strikeAt_formed e hs
  | sign => intro u h; cases h; exact releaseReport_formed hs

theorem tick_formed {s : State} (hs : Formed s) : Formed (tick s) :=
  drainPosted_formed _ (beginTests_formed (commitsDue_formed hs.same))

theorem defaultTurn_formed {s : State} (hs : Formed s) : NextFormed (defaultTurn s) := by
  unfold defaultTurn
  split
  · intro u h; cases h; exact releaseReport_formed hs
  split
  · exact firstMove_formed _ hs ‹_›
  split
  · exact runTurn_formed _ hs
  · intro u h; cases h; exact hs

/-! ### Step -/

theorem step_formed {s : State} (hs : Formed s) : NextFormed (step s) := by
  unfold step
  split
  · split
    · exact runTurn_formed _ (tick_formed hs.same)
    · exact defaultTurn_formed (tick_formed hs)
  · split
    · exact exec_formed _ hs.same
    · intro u h; cases h

/-- Settles O6: each operation a step is made of keeps the form, and so does the step. -/
theorem stepKeepsMemoryForm : Obligations.StepKeepsMemoryForm :=
  fun _ t hs h => step_formed hs t h

end Sys2Proof.Machine

end

section
/-! PROOF. The module's reset, its bring-up, the resets of a die, and droop (R4, R385, R406, R411 to R422). -/

set_option Elab.async false

namespace Sys2Proof.Machine

open Sys2Proof

/-! ## The state after power-on -/

theorem vget_replicate {α : Type} (n i : Nat) (x : α) : vget (Vector.replicate n x) i x = x := by
  by_cases h : i < n <;> simp [vget, Vector.getD, h]

/-- Every bank of a core that comes out of reset is OFF. -/
theorem bankAt_reset (id b : Nat) : bankAt (Core.reset id) b = ⟨.off, none, false⟩ := vget_replicate 96 b _

theorem reset_formed : Formed State.reset := formed_of_empty rfl rfl rfl rfl rfl

/-- Settles O5, by the definition of `State.reset`. -/
theorem resetState : Obligations.ResetState :=
  ⟨rfl, rfl, rfl, rfl, rfl, rfl, rfl, rfl, rfl, rfl, rfl, rfl, fun b _ => congrArg Bank.role (bankAt_reset 0 b), rfl, rfl,
    reset_formed⟩

/-! ## Bring-up (R420) -/

theorem inBringState_same {s : State} {n : Nat} (f : State → State) (h : s.dev.bringState = n) : inBringState s n f = .next (f s) :=
  congrArg Host.Outcome.next (if_pos h)

theorem inBringState_other {s : State} {n : Nat} (f : State → State) (h : s.dev.bringState ≠ n) : inBringState s n f = .next s :=
  congrArg Host.Outcome.next (if_neg h)

/-- The steps of bring-up but CONFIG: the event of each, with its state. -/
def BringStep (ok : Bool) (i : Instr) (n : Nat) : Prop :=
  (i = .bringupRom ok ∧ n = 0) ∨ (i = .bringupFw ok ∧ n = 1) ∨ (i = .bringupMemory ok ∧ n = 3) ∨ (i = .bringupDies ok ∧ n = 4)
    ∨ (i = .bringupHost ok ∧ n = 5)

theorem bringStep_other {ok : Bool} {i : Instr} {n : Nat} (hi : BringStep ok i n) {s : State} (h : s.dev.bringState ≠ n) :
    exec i s = .next s := by
  obtain ⟨rfl, rfl⟩ | ⟨rfl, rfl⟩ | ⟨rfl, rfl⟩ | ⟨rfl, rfl⟩ | ⟨rfl, rfl⟩ := hi
  · rw [exec_bringupRom]; exact inBringState_other _ h
  · rw [exec_bringupFw]; exact inBringState_other _ h
  · rw [exec_bringupMemory]; exact inBringState_other _ h
  · rw [exec_bringupDies]; exact inBringState_other _ h
  · rw [exec_bringupHost]; exact inBringState_other _ h

/-- Dies that have come up have every bank OFF, in the cores that something has touched and in the others. -/
theorem getCore_fresh_bank {u : State} {id : Nat} (hc : u.core = Core.reset id) (hl : u.cores = []) (c b : Nat) :
    (bankAt (getCore u c) b).role = .off := by
  unfold getCore
  rw [hc, hl]
  split
  · exact congrArg Bank.role (bankAt_reset id b)
  · exact congrArg Bank.role (bankAt_reset c b)

theorem bringStep_passes {i : Instr} {n : Nat} (hi : BringStep true i n) {s : State} (h : s.dev.bringState = n) (hn : n ≠ 0) :
    ∃ u, exec i s = .next u ∧ u.dev.bringState = n + 1 ∧ u.mem = s.mem ∧ (n = 3 → ∀ p, vget u.dev.roots p 0 = 0)
      ∧ (n = 4 → ∀ c b, b < 96 → (bankAt (getCore u c) b).role = .off) := by
  obtain ⟨rfl, rfl⟩ | ⟨rfl, rfl⟩ | ⟨rfl, rfl⟩ | ⟨rfl, rfl⟩ | ⟨rfl, rfl⟩ := hi
  · exact absurd rfl hn
  · exact ⟨_, (exec_bringupFw _ _).trans (inBringState_same _ h), rfl, rfl, nofun, nofun⟩
  · exact ⟨_, (exec_bringupMemory _ _).trans (inBringState_same _ h), rfl, rfl, fun _ p => vget_replicate 64 p 0, nofun⟩
  · exact ⟨_, (exec_bringupDies _ _).trans (inBringState_same _ h), rfl, rfl, nofun,
      fun _ c b _ => getCore_fresh_bank (id := s.core.id) rfl rfl c b⟩
  · exact ⟨_, (exec_bringupHost _ _).trans (inBringState_same _ h), rfl, rfl, nofun, nofun⟩

theorem bringStep_fails {i : Instr} {n : Nat} (hi : BringStep false i n) {s : State} (h : s.dev.bringState = n) (hn : n ≠ 5) :
    exec i s = .next { s with dev := { s.dev with bringState := 15, bringDetail := n + 1 } } := by
  obtain ⟨rfl, rfl⟩ | ⟨rfl, rfl⟩ | ⟨rfl, rfl⟩ | ⟨rfl, rfl⟩ | ⟨rfl, rfl⟩ := hi
  · exact (exec_bringupRom _ _).trans (inBringState_same _ h)
  · exact (exec_bringupFw _ _).trans (inBringState_same _ h)
  · exact (exec_bringupMemory _ _).trans (inBringState_same _ h)
  · exact (exec_bringupDies _ _).trans (inBringState_same _ h)
  · exact absurd rfl hn

/-- HOST that fails stays in its state, to try again. -/
theorem bringupHost_retries {s : State} (h : s.dev.bringState = 5) : exec (.bringupHost false) s = .next s :=
  (exec_bringupHost _ _).trans (inBringState_same _ h)

theorem bringupRom_verifies {s : State} (h : s.dev.bringState = 0) : exec (.bringupRom true) s = .next { s with dev := { s.dev with
    bringState := if firmwareVerified s then 1 else 15, bringDetail := if firmwareVerified s then s.dev.bringDetail else 1 } } :=
  (exec_bringupRom _ _).trans (inBringState_same _ h)

theorem bringupConfig_other {s : State} {image : List Byte} {ok : Bool} (h : s.dev.bringState ≠ 2 ∨ ok ≠ recordSigned image) :
    exec (.bringupConfig image ok) s = .next s := by
  rw [exec_bringupConfig]
  by_cases hb : s.dev.bringState = 2
  · exact (inBringState_same _ hb).trans (congrArg Host.Outcome.next (if_pos (h.resolve_left (not_not_intro hb))))
  · exact inBringState_other _ hb

theorem bringupConfig_takes {s : State} {image : List Byte} {ok : Bool} (hb : s.dev.bringState = 2) (hs : ok = recordSigned image)
    (ha : recordAccepted s image = true) : exec (.bringupConfig image ok) s = .next { s with dev := { s.dev with
      bringState := 3, cfg := parseConfig image, verCounter := BitVec.ofNat 64 (imageNat image 0 8), lastGood := image } } := by
  rw [exec_bringupConfig]
  refine (inBringState_same _ hb).trans (congrArg Host.Outcome.next ?_)
  rw [if_neg (not_not_intro hs), if_pos ha]
  rfl

theorem bringupConfig_refuses {s : State} {image : List Byte} {ok : Bool} (hb : s.dev.bringState = 2) (hs : ok = recordSigned image)
    (ha : recordAccepted s image = false) : exec (.bringupConfig image ok) s =
      .next { s with dev := { s.dev with bringState := 15, bringDetail := 3 } } := by
  rw [exec_bringupConfig]
  refine (inBringState_same _ hb).trans (congrArg Host.Outcome.next ?_)
  rw [if_neg (not_not_intro hs), if_neg (by simp [ha])]
  rfl

/-! ## Dies (R4, R406, R421) -/

/-- An element set to the default reads as the default, past the end too. -/
theorem vget_vset_default {α : Type} {n : Nat} (v : Vector α n) (i : Nat) (d : α) : vget (vset v i d) i d = d := by
  by_cases h : i < n
  · exact vget_vset_same v i d d h
  · simp [vget, vset, Vector.getD, h]

theorem vget_foldl_vset_default {α : Type} {n : Nat} (l : List Nat) (v : Vector α n) (i : Nat) (d : α)
    (h : i ∈ l ∨ vget v i d = d) : vget (l.foldl (fun v j => vset v j d) v) i d = d := by
  induction l generalizing v with
  | nil => exact h.resolve_left List.not_mem_nil
  | cons j l ih =>
    refine ih _ ?_
    by_cases hj : j = i
    · exact .inr (hj ▸ vget_vset_default v j d)
    · rw [vget_vset_other v j i d d hj]
      exact h.imp_left fun h => (List.mem_cons.1 h).resolve_left (Ne.symm hj)

theorem Launch.takeBack_waitingAt (g : Launch) {dies : List Nat} {die : Nat} (h4 : die < 4) (h : die ∉ dies) :
    (g.takeBack dies).waitingAt die = [] :=
  vget_foldl_vset_default _ g.shadow die [] (.inl (by simp [h4, h]))

/-- Nothing of a launch that goes on waits in the shadow of a die that goes down. -/
theorem loseShadow_waitingAt {die : Nat} (h4 : die < 4) (g : Launch) (h : (loseShadow die g).stopped = false) :
    (loseShadow die g).waitingAt die = [] := by
  unfold loseShadow at h ⊢
  split at h
  · simp_all
  · rw [if_neg ‹_›]
    exact Launch.takeBack_waitingAt g h4 (by simp)

theorem sagOf_setSag_same (s : State) {die : Nat} (h4 : die < 4) (g : Sag) : sagOf (setSag s die g) die = g :=
  vget_vset_same _ _ _ _ h4

theorem sagOf_setSag_other (s : State) {die k : Nat} (h : k ≠ die) (g : Sag) : sagOf (setSag s die g) k = sagOf s k :=
  vget_vset_other _ _ _ _ _ (Ne.symm h)

theorem dieGoesDown_dieDown (s : State) {die : Nat} (h4 : die < 4) :
    vget (dieGoesDown s die).dev.dieDown die none = some (clockOf s die) := vget_vset_same _ _ _ _ h4

theorem dieGoesDown_sag (s : State) {die : Nat} (h4 : die < 4) :
    sagOf (dieGoesDown s die) die = { (sagOf s die).upTo (controlClock s) with now := 0, shown := 0 } :=
  sagOf_setSag_same (clearCores s die) h4 _

/-- Nothing of a die's cores survives. -/
theorem dieGoesDown_cores {s : State} {die : Nat} {c : Core} (hc : c ∈ knownCores (dieGoesDown s die)) (hd : c.id / 208 = die) :
    c = Core.reset c.id := by
  have fresh (d : Core) (e : (if d.id / 208 = die then Core.reset d.id else d) = c) : c = Core.reset c.id := by
    split at e
    · rw [← e]; rfl
    · exact absurd (e ▸ hd) ‹_›
  obtain rfl | h := List.mem_cons.1 hc
  · exact fresh s.core rfl
  · obtain ⟨d, _, e⟩ := List.mem_map.1 h
    exact fresh d e

theorem dieGoesDown_shadow {s : State} {die : Nat} (h4 : die < 4) {g : Launch} (hg : g ∈ (dieGoesDown s die).dev.launches)
    (h : g.stopped = false) : g.waitingAt die = [] := by
  obtain ⟨k, _, rfl⟩ := List.mem_map.1 hg
  exact loseShadow_waitingAt h4 k h

theorem writeBack_backing {s : State} {die : Nat} {c : Host.Cell} (h : c ∈ (writeBack s die).backing) : homedOn s die c.1 = false := by
  simpa using (List.mem_filter.1 h).2

theorem emptySlices_resident {s : State} {die since : Nat} {h : HomeLine} (hm : h ∈ (emptySlices s die since).lines)
    (hd : h.home / 64 = die) (hh : h.home < 256) : h.resident = false := by
  obtain ⟨k, _, e⟩ := List.mem_map.1 hm
  by_cases hk : k.home / 64 = die ∧ k.home < 256
  · rw [if_pos hk] at e
    rw [← e]
  · rw [if_neg hk] at e
    exact absurd (e ▸ ⟨hd, hh⟩) hk

/-- The guard of both resets of a die: it is one of the four, and not in reset. -/
theorem die_up {s : State} {die : Nat} (h4 : die < 4) (h : vget s.dev.dieDown die none = none) :
    ¬(4 ≤ die ∨ (vget s.dev.dieDown die none).isSome = true) := by
  simp [h, h4]

theorem dieResetOrderly_begins {s : State} {die : Nat} (h4 : die < 4) (h : vget s.dev.dieDown die none = none)
    (hs : vget s.dev.dieStop die false = false) : exec (.dieResetOrderly die) s =
      .next (leaveDie { s with dev := { s.dev with dieStop := vset s.dev.dieStop die true } } die) := by
  rw [exec_dieResetOrderly, execDieResetOrderly, if_neg (die_up h4 h), if_pos hs]

theorem dieResetOrderly_ends {s : State} {die : Nat} (h4 : die < 4) (h : vget s.dev.dieDown die none = none)
    (hs : vget s.dev.dieStop die false = true) (he : dieEmpty s die = true) :
    exec (.dieResetOrderly die) s = .next (dieGoesDown (writeBack s die) die) := by
  rw [exec_dieResetOrderly, execDieResetOrderly, if_neg (die_up h4 h), if_neg (by simp [hs]), if_pos he]

theorem dieResetUnplanned_down {s : State} {die : Nat} (h4 : die < 4) (h : vget s.dev.dieDown die none = none) :
    exec (.dieResetUnplanned die) s = .next (dieGoesDown
      (faultMasked (stopCommits (loseModified (endDie s die) die) die) (dieMaskOf s die)) die) := by
  rw [exec_dieResetUnplanned, execDieResetUnplanned, if_neg (die_up h4 h)]

theorem dieResetReturn_up {s : State} {die since : Nat} (h4 : die < 4) (h : vget s.dev.dieDown die none = some since) :
    ∃ u, exec (.dieResetReturn die) s = .next u ∧ vget u.dev.dieDown die none = none ∧ u.mem = s.mem
      ∧ (∀ l ∈ u.lines, l.home / 64 = die → l.home < 256 → l.resident = false) ∧ u.me = s.me ∧ u.tasks = s.tasks := by
  rw [exec_dieResetReturn, execDieResetReturn, if_pos h4, h]
  exact ⟨_, rfl, vget_vset_default _ _ _, rfl, fun _ hl => emptySlices_resident (s := s) (die := die) (since := since) hl, rfl, rfl⟩

/-! ## Droop (R421, R422) -/

theorem earlier_eq_min (a b : Nat) : earlier a b = min a b := by
  unfold earlier
  split <;> omega

theorem later_eq_max (a b : Nat) : later a b = max a b := by
  unfold later
  split <;> omega

/-- The droop state of a die after a report of some steps. -/
def droopSag (s : State) (die steps : Nat) : Sag :=
  let g := (sagOf s die).upTo (controlClock s)
  let now := earlier (g.now + steps) 8
  { g with
    events := earlier (g.events + 1) (2 ^ 24 - 1), now := now, shown := now, deep := later g.deep now
    steady := controlClock s + (Free.byte s.freeCtr).toNat }

theorem exec_droopReport_eq (s : State) (die steps : Nat) :
    exec (.droopReport die steps) s = .next (useFree (setSag s die (droopSag s die steps)) 1) := exec_droopReport die steps s

theorem sagOf_useFree (s : State) (n die : Nat) : sagOf (useFree s n) die = sagOf s die := rfl

theorem droopReport_slows (s : State) {die : Nat} (h4 : die < 4) (steps : Nat) :
    ∃ u, exec (.droopReport die steps) s = .next u ∧ (sagOf u die).now = min ((sagOf s die).now + steps) 8
      ∧ (sagOf u die).events = min ((sagOf s die).events + 1) (2 ^ 24 - 1) ∧ (sagOf u die).shown = (sagOf u die).now
      ∧ controlClock s ≤ (sagOf u die).steady
      ∧ (sagOf u die).deep = max (sagOf s die).deep (min ((sagOf s die).now + steps) 8)
      ∧ (∀ k, k ≠ die → sagOf u k = sagOf s k) ∧ u.mem = s.mem ∧ u.me = s.me := by
  refine ⟨_, exec_droopReport_eq s die steps, ?_⟩
  rw [sagOf_useFree, sagOf_setSag_same s h4]
  refine ⟨earlier_eq_min _ _, earlier_eq_min _ _, rfl, Nat.le_add_right _ _, ?_, fun k hk => ?_, rfl, rfl⟩
  · exact (later_eq_max _ _).trans (congrArg _ (earlier_eq_min _ _))
  · rw [sagOf_useFree, sagOf_setSag_other s hk]

theorem clockStepRise_raises {s : State} {die : Nat} (h4 : die < 4) (hn : (sagOf s die).now ≠ 0)
    (hc : (sagOf s die).steady + 1000 ≤ controlClock s) : ∃ u, exec (.clockStepRise die) s = .next u
      ∧ (sagOf u die).now = (sagOf s die).now - 1 ∧ (sagOf u die).shown = (sagOf s die).now - 1
      ∧ (sagOf u die).steady = (sagOf s die).steady + 1000 ∧ (sagOf u die).events = (sagOf s die).events ∧ u.mem = s.mem := by
  rw [exec_clockStepRise, execClockStepRise, if_neg (not_or.2 ⟨hn, Nat.not_lt.2 hc⟩)]
  refine ⟨_, rfl, ?_⟩
  rw [sagOf_setSag_same s h4]
  exact ⟨rfl, rfl, rfl, rfl, rfl⟩

theorem clockStepRise_waits {s : State} {die : Nat} (h : (sagOf s die).now = 0 ∨ controlClock s < (sagOf s die).steady + 1000) :
    exec (.clockStepRise die) s = .next s := by
  rw [exec_clockStepRise, execClockStepRise]
  exact congrArg Host.Outcome.next (if_pos h)

/-- A register of R422 whose counters are 0 since now reads 0, whatever the reduction in force. -/
theorem sagRegister_clear {s : State} {die : Nat} (h : (sagOf s die).events = 0 ∧ (sagOf s die).shown = 0 ∧ (sagOf s die).deep = 0
    ∧ (sagOf s die).lowNs = 0 ∧ (sagOf s die).since = controlClock s) : sagRegister s die = 0 := by
  obtain ⟨he, hs, hd, hl, hc⟩ := h
  simp [sagRegister, Sag.upTo, he, hs, hd, hl, hc, atBit, earlier]

theorem failed_eq (s : State) : failed s = false ↔ s.dev.bringState ≠ 15 := by
  simp [failed]

theorem sagCounterClear_clears {s : State} {die : Nat} (h4 : die < 4) {val : Word64} (hv : val.getLsbD 63 = true)
    (hb : s.dev.bringState ≠ 15) : ∃ u, exec (.sagCounterClear die val) s = .next u
      ∧ (sagOf u die).events = 0 ∧ (sagOf u die).deep = 0 ∧ (sagOf u die).lowNs = 0 ∧ (sagOf u die).shown = 0
      ∧ sagRegister u die = 0 ∧ (sagOf u die).now = (sagOf s die).now ∧ (sagOf u die).steady = (sagOf s die).steady := by
  rw [exec_sagCounterClear, execSagCounterClear, if_pos ⟨hv, (failed_eq s).2 hb⟩]
  refine ⟨_, rfl, ?_⟩
  have hr := fun g => sagRegister_clear (s := setSag s die g) (die := die)
  rw [sagOf_setSag_same s h4]
  refine ⟨rfl, rfl, rfl, rfl, hr _ ?_, rfl, rfl⟩
  rw [sagOf_setSag_same s h4]
  exact ⟨rfl, rfl, rfl, rfl, rfl⟩

theorem sagCounterClear_keeps {s : State} {die : Nat} {val : Word64} (h : val.getLsbD 63 = false ∨ s.dev.bringState = 15) :
    exec (.sagCounterClear die val) s = .next s := by
  rw [exec_sagCounterClear, execSagCounterClear, if_neg]
  rintro ⟨hv, hf⟩
  exact h.elim (fun h => absurd (h.symm.trans hv) Bool.false_ne_true) ((failed_eq s).1 hf)

/-- Settles O59, event by event. -/
theorem bringupAndDies : Obligations.BringupAndDies := by
  refine ⟨fun s ok i n hi => ?_, fun s h => bringupRom_verifies h, fun s image ok => ?_, fun s => ?_, fun s => exec_powerLoss s,
    fun s die h4 h => ?_, fun s die since h4 h => dieResetReturn_up h4 h, fun s die steps h4 => ?_⟩
  · refine ⟨bringStep_other hi, fun h ho hn => ?_, fun h ho hn => ?_, fun h ho hn => ?_⟩
    · subst ho
      exact bringStep_passes hi h hn
    · subst ho
      exact bringStep_fails hi h hn
    · subst ho hn
      obtain ⟨_, e⟩ | ⟨_, e⟩ | ⟨_, e⟩ | ⟨_, e⟩ | ⟨rfl, _⟩ := hi
      iterate 4 cases e
      exact bringupHost_retries h
  · exact ⟨bringupConfig_other, bringupConfig_takes, bringupConfig_refuses⟩
  · exact ⟨_, exec_moduleReset s, rfl, rfl, rfl, rfl, rfl, rfl, rfl, rfl, rfl, rfl, rfl, rfl, rfl, rfl, rfl, rfl⟩
  · refine ⟨dieResetOrderly_begins h4 h, fun hs he => ⟨_, dieResetOrderly_ends h4 h hs he, dieGoesDown_dieDown _ h4, rfl,
      fun c hc => writeBack_backing hc, fun c hc => dieGoesDown_cores hc, ?_, ?_, fun g hg => dieGoesDown_shadow h4 hg⟩,
      _, dieResetUnplanned_down h4 h, ?_, fun c hc => dieGoesDown_cores hc⟩
    · rw [dieGoesDown_sag _ h4]
    · rw [dieGoesDown_sag _ h4]
      rfl
    · rw [dieGoesDown_dieDown _ h4]
      rfl
  · exact ⟨droopReport_slows s h4 steps, clockStepRise_raises h4, clockStepRise_waits,
      fun val => ⟨sagCounterClear_clears h4, sagCounterClear_keeps⟩⟩

end Sys2Proof.Machine

end

section
/-! PROOF. The loads of file 11 (R287 to R290): `GlobalLoads` fails in a state whose homes keep two records of one line. A fill for the
first lane of LDG.F then evicts the second record, which replaces the first, and the line reads as one of another key for the next lane. -/

set_option Elab.async false

namespace Sys2Proof.Machine

open Sys2Proof

/-! ## Reads with nothing to wait for -/

/-- No request on its way: an access of the task flushes nothing. -/
theorem flushLine_quiet {s : State} (h : s.flight = []) (line : Nat) : flushLine s line = .ok s := by
  have hs : { s with flight := [] } = s := by rw [← h]
  simp [flushLine, h, reqsWait, serveAll, hs]

/-- A load that CACHE may not serve, at a home that answers, of a line without an error, is served at the home (R290). -/
theorem loadPart_atHome {s : State} (hf : s.flight = []) {p : Part} (hd : homeDown s p.pa p.home = false) (hb : lineBad s p.pa = false)
    (lane : Nat) : loadPart s lane p false = .ok ((loadAtHome s p false).1,
      withVersion (loadAtHome s p false).1 p.pa (loadAtHome s p false).2.1 (loadAtHome s p false).2.2) := by
  simp [loadPart, flushLine_quiet hf, hd, hb]

/-- The bytes a load at its home brings are those read at the physical address. -/
theorem loadAtHome_bytes (s : State) (p : Part) : (loadAtHome s p false).2.1 =
    (readPhys (noteMiss s s.task.part (some p.va) p.pa) (noteMiss s s.task.part (some p.va) p.pa).task.part p.pa p.len).2 := rfl

/-- A load at its home that fills no CACHE leaves the context under issue as it is. -/
theorem loadAtHome_me (s : State) (p : Part) : (loadAtHome s p false).1.me = s.me :=
  (readAtHome_keeps _ _ _ _ _).me.trans (noteMiss_keeps _ _ _ _).me

/-- A line under another key reads as free bytes (R407). -/
theorem readPhys_sealed {s : State} {part pa : Nat} (hc : inCapPage s pa = false) (hs : sealed s part (placeOf s pa) = true) (n : Nat) :
    (readPhys s part pa n).2 = freeBytes s.freeCtr n := by
  simp [readPhys, hc, hs]

/-- An address past the parameter window translates to one part. -/
theorem spotOf_page {need : Need} {window : Bool} {bad : PaKind → Bool} {va n lane : Nat} {s t : State} {x : Xlat} {k : PaKind}
    (hv : 4096 ≤ va) (ht : translate s s.task.part va need = .ok (t, x)) (hk : paKind x.pa = some k) (hb : bad k = false) :
    spotOf need window bad va n lane s = .ok (t, ⟨lane, va, [partOf x va n]⟩) := by
  simp [spotOf, Nat.not_lt.2 hv, ht, hk, hb]

theorem ofBytesLE_mod (b : Byte) (l : List Byte) : ofBytesLE (b :: l) % 256 = b.toNat := by
  have := b.isLt
  simp only [ofBytesLE]
  omega

theorem overlay_nil (a : Nat) (l : List Byte) : overlay [] a l = l := by
  induction l generalizing a with
  | nil => rfl
  | cons b l ih => simp [overlay, cellGet, ih]

/-! ## A line with two records -/

/-- Line 769 has a record of no key, and 1,024 more under the key of partition 2, which fill the one way that partition 1 has in their
slice. Lanes 0 and 1 of a task of partition 1 have the addresses 0x10000 and 0x18080, of lines of one slice; one byte of memory is
listed. -/
def crowded : State :=
  { State.reset with
    time := 1000
    me := { Context.idle with
      id := 7, task := 1, kind := .stand, box := ⟨0, 64, 0, 1, 0, 1⟩, nextPath := 1
      regs := { Regs.reset with a := vset Regs.reset.a 5 ⟨0x10000, 0x8080, 0, 0, .int32⟩ }
      path := { Path.start 0 4 3 with slot := 1, run := some (4, [0]) } }
    task := { Task.none with tid := 1, part := 1, code := 0x8000, box := ⟨0, 64, 0, 1, 0, 1⟩, phase := .running, fsize := 2 }
    core := { Core.reset 0 with tlb := [⟨1, 0, 30, 0x0200_0000_0000_00DF⟩] }
    mem := [(0x18080, Free.byte 0 + 1)]
    lines := ⟨769, 2, 0, 0, [], false, 64, 0, 0, 0⟩ :: List.replicate 1024 ⟨769, 2, 0, 0, [], true, 2, 0, 2, 0⟩
    dev := { Device.reset with
      bringState := 6
      cfg := { Config.none with parts := vset Config.none.parts 1 ⟨true, 1, 1, 0, 0, 0⟩ } } }

/-- The word: a 32-bit load at the home, into v2. -/
def crowdedWord : Instr := .ldgF 2#7 5#5 31#5 0#2 0#6

/-- Lane 0's access. -/
def part0 : Part := ⟨0x10000, 0x10000, 2, 0, false, 4⟩
/-- Lane 1's access. -/
def part1 : Part := ⟨0x18080, 0x18080, 2, 0, false, 4⟩

theorem crowded_issues : Issues crowdedWord crowded := by
  unfold Issues
  decide +kernel

theorem crowded_quiet : Quiet crowded :=
  ⟨rfl, ⟨rfl, fun t h => by rw [List.mem_singleton.1 h]; rfl, rfl⟩, Nat.zero_le _⟩

theorem crowded_spot0 : spotOf .read true anyKind 0x10000 4 0 crowded = .ok (crowded, ⟨0, 0x10000, [part0]⟩) :=
  spotOf_page (x := ⟨0x10000, 0x0200_0000_0000_00DF⟩) (k := .near) (by decide) rfl (by decide +kernel) rfl

theorem crowded_spot1 : spotOf .read true anyKind 0x18080 4 1 crowded = .ok (crowded, ⟨1, 0x18080, [part1]⟩) :=
  spotOf_page (x := ⟨0x18080, 0x0200_0000_0000_00DF⟩) (k := .near) (by decide) rfl (by decide +kernel) rfl

theorem crowded_access : access .read true anyKind 4 (wordAddrs crowded 5#5 31#5 0#2 0#6 4) (lanesOf crowded.me.path.mask) crowded =
    .ok (crowded, [⟨0, 0x10000, [part0]⟩, ⟨1, 0x18080, [part1]⟩]) := by
  have hc : firstTrap (fun l => formTrap (wordAddrs crowded 5#5 31#5 0#2 0#6 4 l) 4 l) (lanesOf crowded.me.path.mask) = none := by
    decide +kernel
  have hl : (lanesOf crowded.me.path.mask).map (fun l => (l, wordAddrs crowded 5#5 31#5 0#2 0#6 4 l)) = [(0, 0x10000), (1, 0x18080)] := by
    decide +kernel
  simp only [access, hc, hl, check_none, bind_ok, spotsOf, crowded_spot0, crowded_spot1]

/-- Lane 1's line has no key before the word. -/
theorem crowded_plain : Plain crowded part1 :=
  ⟨by decide +kernel, by decide +kernel, by decide +kernel⟩

/-- The state in which lane 1's load begins: lane 0's has been served. -/
def crowdedNext : State := raiseHorizon (loadAtHome crowded part0 false).1 0

theorem raiseHorizon_path (s : State) (w : Nat) : (raiseHorizon s w).me.path = s.me.path := rfl

theorem crowdedNext_path : crowdedNext.me.path = crowded.me.path := by
  rw [crowdedNext, raiseHorizon_path, loadAtHome_me]

/-- Lane 0's fill has left line 769 under the key of partition 2, so that lane 1 reads free bytes. -/
theorem crowdedNext_bytes : (loadAtHome crowdedNext part1 false).2.1 = freeBytes 0 4 := by
  rw [loadAtHome_bytes, readPhys_sealed (by decide +kernel) (by decide +kernel)]
  exact congrArg (freeBytes · 4) (by decide +kernel)

theorem crowded_load0 : ∃ bytes, loadPart crowded 0 part0 false = .ok ((loadAtHome crowded part0 false).1, bytes, 0) := by
  have hw : (withVersion (loadAtHome crowded part0 false).1 part0.pa (loadAtHome crowded part0 false).2.1
      (loadAtHome crowded part0 false).2.2).2 = 0 := by decide +kernel
  have h := loadPart_atHome (s := crowded) (p := part0) rfl (by decide +kernel) (by decide +kernel) 0
  generalize withVersion _ _ _ _ = v at h hw
  exact ⟨v.1, by rw [h, ← hw]⟩

theorem crowded_load1 : ∃ w, loadPart crowdedNext 1 part1 false = .ok ((loadAtHome crowdedNext part1 false).1, freeBytes 0 4, w) := by
  have hv : (loadAtHome crowdedNext part1 false).1.task.vlines = [] := by decide +kernel
  have hb : (withVersion (loadAtHome crowdedNext part1 false).1 part1.pa (loadAtHome crowdedNext part1 false).2.1
      (loadAtHome crowdedNext part1 false).2.2).1 = freeBytes 0 4 := by
    rw [withVersion, hv, overlay_nil, crowdedNext_bytes]
  have h := loadPart_atHome (s := crowdedNext) (p := part1) (by decide +kernel) (by decide +kernel) (by decide +kernel) 1
  generalize withVersion _ _ _ _ = v at h hb
  exact ⟨v.2, by rw [h, ← hb]⟩

/-- The values the two lanes load. -/
theorem crowded_loads : ∃ u x, loadSpots false [⟨0, 0x10000, [part0]⟩, ⟨1, 0x18080, [part1]⟩] crowded =
    .ok (u, [(0, x), (1, ofBytesLE (freeBytes 0 4))]) ∧ u.me.path = crowded.me.path := by
  obtain ⟨b, h0⟩ := crowded_load0
  obtain ⟨w, h1⟩ := crowded_load1
  refine ⟨raiseHorizon (loadAtHome crowdedNext part1 false).1 (later w 0), ofBytesLE b, ?_, ?_⟩
  · have hn : raiseHorizon (loadAtHome crowded part0 false).1 (later 0 0) = crowdedNext := rfl
    simp only [loadSpots, loadParts, h0, h1, hn, bind_ok, List.append_nil]
  · rw [raiseHorizon_path, loadAtHome_me, crowdedNext_path]

/-! ## The registers a load writes -/

/-- What a load writes is what `loadedInto` says, but for a pair. -/
theorem writeLoaded_regs (s : State) (reg t : Nat) {size : Nat} (h : size ≠ 8) (val : Nat → Nat) :
    (writeLoaded s reg t size val).me.regs = loadedInto s reg t size val := by
  simp only [writeLoaded, loadedInto, if_neg h]
  rfl

theorem writeLoaded_path (s : State) (reg t size : Nat) (val : Nat → Nat) : (writeLoaded s reg t size val).me.path = s.me.path := by
  unfold writeLoaded
  split <;> rfl

/-- A lane of the register that a load of at most 4 bytes writes. -/
theorem loadedInto_lane (s : State) {reg l : Nat} (t : Nat) {size : Nat} (h : size ≠ 8) (val : Nat → Nat) (hr : reg < 64)
    (hl : l < 64) (hm : s.me.path.mask.getLsbD l = true) :
    vget (vget (loadedInto s reg t size val).v reg VReg.fresh).lanes l 0 = BitVec.ofNat 32 (extended t size (val l)) := by
  simp only [loadedInto, if_neg h, groupInto, vInto]
  rw [vget_vset_same _ _ _ _ hr, vget_vmask _ _ _ _ _ hl, if_pos hm]

/-- LDG.F that issues, whose access passes and whose loads are served, writes what they bring. -/
theorem ldgF_loads {s q u : State} {data : BitVec 7} {base index : BitVec 5} {scale : BitVec 2} {disp : BitVec 6} {t size : Nat}
    {spots : List Spot} {l : List (Nat × Nat)} (hi : Issues (.ldgF data base index scale disp) s)
    (ht : t = memType s.me.path.lead data) (hz : size = typeSize t)
    (ha : access .read true anyKind size (wordAddrs s base index scale disp size) (lanesOf s.me.path.mask) s = .ok (q, spots))
    (hw : loadsWait s = .ok ()) (hl : loadSpots false spots q = .ok (u, l)) :
    exec (.ldgF data base index scale disp) s = .next (wordDone (writeLoaded u (dataReg data) t size (valueAt l))) := by
  subst ht hz
  rw [exec_ldgF, execLdgF, loadWord, runWord_issues hi]
  dsimp only [p0]
  rw [ha, bind_ok, hw, bind_ok, hl, bind_ok, wordEnd_ok]

/-- The word delivers free bytes to lane 1. -/
theorem crowded_lane {u : State} (h : exec crowdedWord crowded = .next u) :
    vget (vget u.me.regs.v 2 VReg.fresh).lanes 1 0 = BitVec.ofNat 32 (ofBytesLE (freeBytes 0 4)) := by
  obtain ⟨v, x, hl, hm⟩ := crowded_loads
  have he := ldgF_loads crowded_issues (t := 4) (size := 4) rfl rfl crowded_access (by decide +kernel) hl
  have hk : v.me.path.mask.getLsbD 1 = true := by
    rw [hm]
    decide
  rw [wordDone_eq (by rw [writeLoaded_path, hm]; rfl)] at he
  cases he.symm.trans h
  exact (congrArg (fun r : Regs => vget (vget r.v 2 VReg.fresh).lanes 1 0) (writeLoaded_regs v 2 4 (by decide) _)).trans
    (loadedInto_lane v 4 (by decide) _ (by decide) (by decide) hk)

/-- Memory holds another byte than the free one at lane 1's address. -/
theorem crowded_held : BitVec.ofNat 32 (heldAt crowded 0x18080 4) ≠ BitVec.ofNat 32 (ofBytesLE (freeBytes 0 4)) := by
  intro h
  have hh : heldAt crowded 0x18080 4 = ofBytesLE ((Free.byte 0 + 1) :: [0, 0, 0]) := rfl
  have h8 := congrArg (fun b : Word32 => b.toNat % 256) h
  simp only [BitVec.toNat_ofNat, Nat.mod_mod_of_dvd _ (show 256 ∣ 2 ^ 32 by decide), hh, freeBytes, ofBytesLE_mod, BitVec.toNat_add] at h8
  have := (Free.byte 0).isLt
  simp at h8
  omega

/-- Refutes O33: where the homes keep two records of a line, lane 0's read of LDG.F evicts the second, and lane 1, whose line had no key
before the word, reads free bytes. -/
theorem not_globalLoads : ¬ Obligations.GlobalLoads := by
  intro h
  obtain ⟨_, h, _⟩ := h crowdedWord crowded 2#7 5#5 31#5 0#2 0#6 4 4 (lanesOf crowded.me.path.mask) anyKind id crowded_issues rfl rfl
    (.inr (.inl ⟨rfl, rfl, rfl, rfl⟩))
  obtain ⟨u, val, he, hu, hv⟩ := h _ _ crowded_access crowded_quiet
  have hx : val 1 = heldAt crowded 0x18080 4 :=
    hv (.inl rfl) ⟨1, 0x18080, [part1]⟩ (.tail _ (.head _)) part1 rfl crowded_plain
  have hr := loadedInto_lane crowded (reg := 2) (l := 1) 4 (size := 4) (by decide) val (by decide) (by decide) (by decide)
  have hl := crowded_lane he
  rw [hu.regs] at hl
  exact crowded_held ((congrArg (BitVec.ofNat 32) hx).symm.trans (hr.symm.trans hl))

end Sys2Proof.Machine

end

section
/-! PROOF. The predicate words and BALLOT (R60, R244): each is the write of one register. -/

set_option Elab.async false

namespace Sys2Proof.Machine

open Sys2Proof

/-- Bits added up from the highest lane down, each below twice the sum so far, are the lanes that pass. -/
theorem maskWhere_foldr (p : Nat → Bool) (k : Nat) : ∀ n j : Nat,
    ((List.range' k n).foldr (fun l acc => bitNat (p l) + 2 * acc) 0).testBit j = (decide (j < n) && p (k + j)) := by
  intro n
  induction n generalizing k with
  | zero => simp
  | succ n ih =>
    intro j
    rw [List.range'_succ, List.foldr_cons]
    rcases j with _ | j
    · cases p k <;> simp [bitNat, Nat.testBit_zero]
    · have hj : (bitNat (p k) + 2 * ((List.range' (k + 1) n).foldr (fun l acc => bitNat (p l) + 2 * acc) 0)) / 2
          = (List.range' (k + 1) n).foldr (fun l acc => bitNat (p l) + 2 * acc) 0 := by
        cases p k <;> simp [bitNat]; omega
      rw [Nat.testBit_succ, hj, ih]
      simp [Nat.add_assoc, Nat.add_comm 1 j]

/-- A lane is in the mask of a test exactly when it passes it. -/
theorem maskWhere_getLsbD (p : Nat → Bool) {l : Nat} (h : l < 64) : (maskWhere p).getLsbD l = p l := by
  rw [maskWhere, BitVec.getLsbD_ofNat, lanes64, List.range_eq_range', maskWhere_foldr]
  simp [h]

/-- The lowest lane of a mask is the first of the 64 that it has. -/
theorem lowestLane_eq_find (m : Word64) : lowestLane m = (List.range 64).find? fun l => m.getLsbD l := List.head?_filter ..

/-- A word issues where no word of its chain has raised a trap. -/
theorem issues_pend {i : Instr} {s : State} (h : Issues i s) : s.me.path.pend = none := by
  obtain ⟨_, _, _, hpend, _⟩ := h
  exact hpend

/-- A word that issues and succeeds is over, where its path is still the one it issued on. -/
theorem wordEnd_issues {i : Instr} {s t : State} (h : Issues i s) (ht : t.me.path = s.me.path) : wordEnd s (.ok t) = past t :=
  wordEnd_done (by rw [ht]; exact issues_pend h)

/-- A word that writes a p register and can do nothing else. -/
theorem runWord_setP {i : Instr} {s : State} (h : Issues i s) {body : State → Res State} {n : Nat} {m : Word64}
    (hb : body s = .ok (setP s n m)) : runWord i s body = .next (wrote s (predInto s n m)) := runWord_regs h hb

theorem predWord_issues {i : Instr} {pd : BitVec 3} {s : State} (h : Issues i s) (m : Word64) :
    predWord i pd s m = .next (wrote s (predInto s pd.toNat m)) := runWord_setP h rfl

/-- A word that writes an a-register and can do nothing else. -/
theorem runWord_setUniform {i : Instr} {s : State} (h : Issues i s) {body : State → Res State} {d : BitVec 7} {x : Word64} {t : Tag}
    (hb : body s = .ok (setUniform s d x t)) : runWord i s body = .next (wrote s (formInto s d (uniform x t))) := runWord_regs h hb

theorem ballotMask_getLsbD (s : State) (a : BitVec 7) {l : Nat} (h : l < 64) :
    (ballotMask s a).getLsbD l = true ↔ s.me.path.mask.getLsbD l = true ∧ laneA s a 32 l ≠ 0 := by
  simp [ballotMask, maskWhere_getLsbD _ h, laneA, p0]

/-- Settles O20: each word is the write of one register, and BALLOT's bits are those of `maskWhere`. -/
theorem predicateWords : Obligations.PredicateWords := by
  refine ⟨fun s pd pa pb h => ?_, fun s pd pa pb h => ?_, fun s pd pa pb h => ?_, fun s pd pa h => ?_, fun s d pa h => ?_,
    fun s d pa h => ?_, fun s pd pa h => ?_, fun s d a h => ⟨ballotMask s a, fun l hl => ballotMask_getLsbD s a hl, fun hd => ?_, fun hd => ?_⟩⟩
  · rw [exec_pand]; exact predWord_issues h _
  · rw [exec_por]; exact predWord_issues h _
  · rw [exec_pxor]; exact predWord_issues h _
  · rw [exec_pnot]; exact predWord_issues h _
  · rw [exec_pcnt]; exact runWord_setUniform h rfl
  · rw [exec_pfirstA, ← lowestLane_eq_find]; exact runWord_setUniform h rfl
  · rw [exec_pfirstP, ← lowestLane_eq_find]; exact runWord_setP h rfl
  · rw [exec_ballot]; exact runWord_setUniform h (by rw [if_pos hd])
  · rw [exec_ballot]; exact runWord_setP h (by rw [if_neg (by simp [hd])])

end Sys2Proof.Machine

end

section
/-! PROOF. The floating-point words with a register result (R59, R80, R84, R276): one operation per element, then the end that
`floatEnd` says. -/

set_option Elab.async false

namespace Sys2Proof.Machine

open Sys2Proof

theorem low_word (x : Nat) : (BitVec.ofNat 64 x).setWidth 32 = BitVec.ofNat 32 x := by
  apply BitVec.eq_of_toNat_eq
  simp only [BitVec.toNat_setWidth, BitVec.toNat_ofNat]
  omega

theorem high_word (x : Nat) : (BitVec.ofNat 64 x >>> 32).setWidth 32 = BitVec.ofNat 32 (x / 2 ^ 32) := by
  apply BitVec.eq_of_toNat_eq
  simp only [BitVec.toNat_setWidth, BitVec.toNat_ushiftRight, BitVec.toNat_ofNat, Nat.shiftRight_eq_div_pow]
  omega

/-- A pair of v registers written with 64-bit values (R59). -/
theorem setVPair_eq_group (s : State) (n : Nat) (t : Tag) (val : Nat → Nat) :
    setVPair s n t (fun l => BitVec.ofNat 64 (val l)) = { s with me := { s.me with regs := groupInto s t val n 2 s.me.regs } } := by
  simp only [setVPair, low_word, high_word]
  rfl

/-- What a floating-point word does to v registers: a pair for 64 bits, else one register. -/
theorem floatDest_vector {s : State} {d : BitVec 7} (bits : Nat) (t : Tag) (val : Nat → Nat) (hd : isA d = false) :
    floatDest s d bits t val =
      .ok { s with me := { s.me with regs := groupInto s t val d.toNat (if bits = 64 then 2 else 1) s.me.regs } } := by
  unfold floatDest
  split
  · rw [setVPair_eq_group]
  · rw [setDest_vector hd]
    rfl

/-- A word with one operation per element ends as a floating-point word does. -/
theorem floatWord_ends {i : Instr} {s : State} {d : BitVec 7} {f : Nat} {srcs : State → List Src} {op : Fmt → Round → List Nat → FRes}
    (h : Issues i s) (he : exec i s = floatWord i d f srcs op s)
    (ha : typeBits (fpType s.me.path.lead) = 64 → isA d = false) :
    FloatEnds i s (floatLanes s f (srcs s) op) d (if typeBits (fpType s.me.path.lead) = 64 then 2 else 1)
      (typeTag (fpType s.me.path.lead)) false :=
  runFlow_floats h he rfl (fun hd => floatDest_vector _ _ _ hd) fun hd => if_neg fun h64 => by simp [ha h64] at hd

/-- A word of the function unit, likewise. -/
theorem unitWord_ends {i : Instr} {s : State} {n : Nat} {d a : BitVec 7} {g : BitVec 4} (h : Issues i s)
    (he : exec i s = unitWord i n d a g s) (ha : typeBits (fpType s.me.path.lead) = 64 → isA d = false) :
    FloatEnds i s (floatLanes s g.toNat [fSrc s 0 a.toNat] fun t r l => fUnit n t r (opd l 0)) d
      (if typeBits (fpType s.me.path.lead) = 64 then 2 else 1) (typeTag (fpType s.me.path.lead)) false :=
  floatWord_ends (srcs := fun s => [fSrc s 0 a.toNat]) h he ha

/-- Settles O28: each word is one operation on the elements of its sources. -/
theorem floatWords : Obligations.FloatWords := by
  intro i s d a f srcs op b g hi hw ha
  rcases hw with ⟨rfl, rfl, rfl, rfl⟩ | ⟨rfl, rfl, rfl, rfl⟩ | ⟨rfl, rfl, rfl, rfl⟩ | ⟨rfl, rfl, rfl, rfl⟩ | ⟨rfl, rfl, rfl, rfl⟩
    | ⟨rfl, rfl, rfl, rfl⟩ | ⟨rfl, rfl, rfl, rfl⟩ | ⟨rfl, rfl, rfl, rfl⟩ | ⟨rfl, rfl, rfl, rfl⟩ | ⟨rfl, rfl, rfl, rfl⟩
    | ⟨rfl, rfl, rfl, rfl⟩ | ⟨rfl, rfl, rfl, rfl⟩ | ⟨rfl, rfl, rfl, rfl⟩ | ⟨rfl, rfl, rfl, rfl⟩
  · exact floatWord_ends hi (exec_fadd d a b g s) ha
  · exact floatWord_ends hi (exec_fsub d a b g s) ha
  · exact floatWord_ends hi (exec_fmul d a b g s) ha
  · exact floatWord_ends (srcs := fun s => pairOf a b s ++ [addend (readRegs s) s.me.path.lead d]) hi (exec_fma d a b g s) ha
  · exact floatWord_ends hi (exec_fmin d a b s) ha
  · exact floatWord_ends hi (exec_fmax d a b s) ha
  · exact floatWord_ends hi (exec_fdiv d a b g s) ha
  · exact unitWord_ends hi (exec_fsqrt d a g s) ha
  · exact unitWord_ends hi (exec_frcp d a g s) ha
  · exact unitWord_ends hi (exec_frsq d a g s) ha
  · exact unitWord_ends hi (exec_fexp2 d a g s) ha
  · exact unitWord_ends hi (exec_flog2 d a g s) ha
  · exact unitWord_ends hi (exec_fsin d a g s) ha
  · exact unitWord_ends hi (exec_fcos d a g s) ha

end Sys2Proof.Machine

end

section
/-! PROOF. The pad words (R45, R55, R56, R70, R99, R287, R293, R299): what an access of the pad waits for and traps on, what a write of
the pad changes, and then LDP, STP and ATOMP. -/

set_option Elab.async false

namespace Sys2Proof.Machine

open Sys2Proof

/-! ## What a pad access waits for -/

section
variable {s : State} (hc : s.core.clearing = none)
include hc

/-- No clearing moves lines where none runs. -/
theorem padMoving_of_no_clearing (o : Nat) : padMoving s o = false := by simp [padMoving, hc]

theorem padFullWait_ready {lanes : List Nat} {off : Nat → Nat} {n : Nat} (he : ∀ l ∈ lanes, emptyIn s.task (off l) n l = []) :
    padFullWait s lanes off n = .ok () := by
  have h : (lanes.flatMap fun l => emptyIn s.task (off l) n l) = [] := List.flatMap_eq_nil_iff.2 he
  simp [padFullWait, padMoving_of_no_clearing hc, h, waitFull]

/-- Reads with nothing to wait for meet the errors of what they read alone. -/
theorem padReadWait_ready {lanes : List Nat} {off : Nat → Nat} {n : Nat} (he : ∀ l ∈ lanes, emptyIn s.task (off l) n l = []) :
    padReadWait s lanes off n = Res.check (eccTrap s.task lanes off n) := by
  rw [padReadWait, padFullWait_ready hc he, bind_ok]

/-- Writes with no operation to wait for, and no waiter to be served first, wait for nothing. -/
theorem padWriteWait_ready (hm : s.core.matq = []) (hs : ∀ k, servedFirst s s.task k = false) (lanes : List Nat) (off : Nat → Nat)
    (n : Nat) : padWriteWait s lanes off n = .ok () := by
  simp [padWriteWait, padMoving_of_no_clearing hc, matHolds, hm, hs]

end

/-- A pad without an error has none to trap on. -/
theorem eccTrap_of_no_error {t : Task} (h : t.badPad = []) (lanes : List Nat) (off : Nat → Nat) (n : Nat) :
    eccTrap t lanes off n = none := by
  simp [eccTrap, padBad, h]

/-- A first lane that reads an error traps. -/
theorem eccTrap_first {t : Task} {l : Nat} {rest : List Nat} {off : Nat → Nat} {n : Nat} (h : padBad t 0 (off l) n = true) :
    eccTrap t (l :: rest) off n = some (trapLane 0x21 (roleCode .pad) (off l) l) := by
  simp [eccTrap, h, trapLane]

/-- Lanes that pass their check raise no trap. -/
theorem firstTrap_eq_none {f : Nat → Option Trap} {lanes : List Nat} (h : ∀ l ∈ lanes, f l = none) : firstTrap f lanes = none :=
  List.findSome?_eq_none_iff.2 h

/-- A pad offset that fails its check is misaligned, or outside the pad. -/
theorem padTrap_cases {t : Task} {off n l : Nat} {k : Trap} (h : padTrap t off n l = some k) :
    k = trapLane 0x08 0 off l ∨ k = trapLane 0x0A 16 off l := by
  unfold padTrap at h
  split at h
  · exact .inl (Option.some.inj h).symm
  · split at h
    · cases h
    · exact .inr (Option.some.inj h).symm

/-- The trap of a word's lanes is that of the lane it names. -/
theorem firstTrap_padTrap {t : Task} {off : Nat → Nat} {n : Nat} {lanes : List Nat} {k : Trap}
    (h : firstTrap (fun l => padTrap t (off l) n l) lanes = some k) :
    k = trapLane 0x08 0 (off k.lane) k.lane ∨ k = trapLane 0x0A 16 (off k.lane) k.lane := by
  obtain ⟨l, _, hl⟩ := List.exists_of_findSome?_eq_some h
  rcases padTrap_cases hl with rfl | rfl
  · exact .inl rfl
  · exact .inr rfl

/-! ## Bytes written into the pad -/

/-- A write changes the bytes, the empty lines and the errors of a pad alone. -/
theorem padWrite_rest (t : Task) (off : Nat) (bytes : List Byte) :
    { padWrite t off bytes with pad := t.pad, empty := t.empty, badPad := t.badPad } = t := rfl

/-- In a pad without an error, its bytes and its empty lines alone. -/
theorem padWrite_rest_of_no_error {t : Task} (h : t.badPad = []) (off : Nat) (bytes : List Byte) :
    { padWrite t off bytes with pad := t.pad, empty := t.empty } = t := by
  have hb : (padWrite t off bytes).badPad = t.badPad := by simp [padWrite, setFull, h]
  exact (congrArg (fun b => { padWrite t off bytes with pad := t.pad, empty := t.empty, badPad := b }) hb).trans (padWrite_rest t off bytes)

theorem padWrite_writes {t : Task} (h : t.pad.wf = true) (off : Nat) (bytes : List Byte) :
    WritesAt t.pad (padWrite t off bytes).pad off bytes := fun b => Memory.get_setBytes off b bytes h

/-- Every line a write touches is full after it, and no other line changes (R55). -/
theorem mem_padWrite_empty {t : Task} {off n : Nat} {bytes : List Byte} :
    n ∈ (padWrite t off bytes).empty ↔ n ∈ t.empty ∧ n ∉ linesOf off bytes.length := by
  simp [padWrite, setFull]

section
variable {off : Nat → Nat} {bytes : Nat → List Byte}

/-- Writes of lanes in order change the bytes, the empty lines and the errors of a pad alone. -/
theorem foldl_padWrite_rest (lanes : List Nat) (t : Task) :
    { lanes.foldl (fun t l => padWrite t (off l) (bytes l)) t with pad := t.pad, empty := t.empty, badPad := t.badPad } = t := by
  induction lanes generalizing t with
  | nil => rfl
  | cons l rest ih =>
    exact congrArg (fun k : Task => { k with pad := t.pad, empty := t.empty, badPad := t.badPad }) (ih (padWrite t (off l) (bytes l)))

variable {n : Nat} (hn : ∀ l, (bytes l).length = n)
include hn

/-- Where lanes write to one byte, the last of them stands (R99). -/
theorem foldl_padWrite_get (o : Nat) (lanes : List Nat) (t : Task) (h : t.pad.wf = true) :
    (lanes.foldl (fun t l => padWrite t (off l) (bytes l)) t).pad.get o =
      (lanes.reverse.findSome? fun l => if off l ≤ o ∧ o < off l + n then (bytes l)[o - off l]? else none).getD (t.pad.get o) := by
  induction lanes generalizing t with
  | nil => rfl
  | cons l rest ih =>
    rw [List.foldl_cons, ih _ (padWrite_pad _ _ _ h), padWrite_writes h, hn, List.reverse_cons, List.findSome?_append, Option.getD_or]
    by_cases ho : off l ≤ o ∧ o < off l + n
    · simp [ho, List.getD_eq_getElem?_getD, show o - off l < (bytes l).length by rw [hn]; omega]
    · simp [ho]

theorem mem_foldl_padWrite_empty (lanes : List Nat) (t : Task) (k : Nat) :
    k ∈ (lanes.foldl (fun t l => padWrite t (off l) (bytes l)) t).empty ↔ k ∈ t.empty ∧ ∀ l ∈ lanes, k ∉ linesOf (off l) n := by
  induction lanes generalizing t with
  | nil => simp
  | cons l rest ih => rw [List.foldl_cons, ih, mem_padWrite_empty, hn, and_assoc, List.forall_mem_cons]

end

/-! ## LDP and STP -/

/-- A store takes as many bytes as its access has (R289). -/
theorem storeBytes_length (r : Regs) (reg size l : Nat) : (storeBytes r reg size l).length = size := by
  unfold storeBytes
  split <;> simp [bytesLE_length, *]

/-- What a load writes is what `loadedInto` says. -/
theorem writeLoaded_eq (s : State) (reg t size : Nat) (val : Nat → Nat) :
    writeLoaded s reg t size val = { s with me := { s.me with regs := loadedInto s reg t size val } } := by
  unfold writeLoaded loadedInto
  split
  · rw [setVPair_eq_group]
  · rfl

section
variable {s : State} {data : BitVec 7} {base index : BitVec 5} {scale : BitVec 2} {disp : BitVec 6} {t size : Nat} {off : Nat → Nat}
  (ht : t = memType s.me.path.lead data) (hz : size = typeSize t) (ho : off = wordAddrs s base index scale disp size)
include ht hz ho

theorem ldp_trap {k : Trap} (hi : Issues (.ldp data base index scale disp) s)
    (hk : firstTrap (fun l => padTrap s.task (off l) size l) (lanesOf s.me.path.mask) = some k) :
    exec (.ldp data base index scale disp) s = .next (wordTrap s k) := by
  subst ht hz ho
  rw [exec_ldp, execLdp, runWord_issues hi]
  dsimp only [p0]
  rw [hk, check_some, bind_trap, wordEnd_trap]

theorem stp_trap {k : Trap} (hi : Issues (.stp data base index scale disp) s)
    (hk : firstTrap (fun l => padTrap s.task (off l) size l) (lanesOf s.me.path.mask) = some k) :
    exec (.stp data base index scale disp) s = .next (wordTrap s k) := by
  subst ht hz ho
  rw [exec_stp, execStp, runWord_issues hi]
  dsimp only [p0]
  rw [hk, check_some, bind_trap, wordEnd_trap]

/-- LDP with nothing to wait for traps on what it reads, or loads. -/
theorem ldp_ready (hi : Issues (.ldp data base index scale disp) s)
    (hl : ∀ l ∈ lanesOf s.me.path.mask, padTrap s.task (off l) size l = none ∧ emptyIn s.task (off l) size l = [])
    (hc : s.core.clearing = none) :
    exec (.ldp data base index scale disp) s = .next (match eccTrap s.task (lanesOf s.me.path.mask) off size with
      | some k => wordTrap s k
      | none => wrote s (loadedInto s (dataReg data) t size fun l => ofBytesLE (s.task.pad.getBytes (off l) size))) := by
  subst ht hz ho
  rw [exec_ldp, execLdp, runWord_issues hi]
  dsimp only [p0]
  rw [firstTrap_eq_none fun l h => (hl l h).1, check_none, bind_ok, padReadWait_ready hc fun l h => (hl l h).2]
  cases eccTrap s.task (lanesOf s.me.path.mask) (wordAddrs s base index scale disp (typeSize (memType s.me.path.lead data)))
      (typeSize (memType s.me.path.lead data)) with
  | some k => rfl
  | none =>
    rw [check_none, bind_ok, writeLoaded_eq, wordEnd_issues hi (by rfl)]
    rfl

/-- STP with nothing to wait for writes its lanes' bytes in order. -/
theorem stp_ready (hi : Issues (.stp data base index scale disp) s)
    (hl : ∀ l ∈ lanesOf s.me.path.mask, padTrap s.task (off l) size l = none) (hc : s.core.clearing = none) (hm : s.core.matq = [])
    (hs : ∀ k, servedFirst s s.task k = false) :
    exec (.stp data base index scale disp) s = .next { wrote s s.me.regs with
      task := (lanesOf s.me.path.mask).foldl (fun t l => padWrite t (off l) (storeBytes (readRegs s) (dataReg data) size l)) s.task } := by
  subst ht hz ho
  rw [exec_stp, execStp, runWord_issues hi]
  dsimp only [p0]
  rw [firstTrap_eq_none hl, check_none, bind_ok, padWriteWait_ready hc hm hs, bind_ok, wordEnd_issues hi (by rfl)]
  rfl

end

/-! ## ATOMP of one lane -/

/-- Values written where only one lane is active: that lane's value. -/
theorem vmask_one {α : Type} (v : Vector α 64) {m : Word64} {l : Nat} (h : lanesOf m = [l]) (f : Nat → α) :
    vmask v m f = vmask v m fun _ => f l := by
  apply Vector.ext
  intro k hk
  simp only [vmask, Vector.getElem_ofFn]
  split
  · next hm =>
    have : k ∈ lanesOf m := by simp [lanesOf, lanes64, hk, hm]
    rw [h, List.mem_singleton] at this
    rw [this]
  · rfl

theorem vInto_one (r : Regs) {m : Word64} {l : Nat} (h : lanesOf m = [l]) (d : Nat) (t : Tag) (f : Nat → Word32) :
    vInto r m d t f = vInto r m d t fun _ => f l := by rw [vInto, vmask_one _ h]; rfl

/-- A group written where one lane is active holds that lane's value. -/
theorem groupInto_one {s : State} {l : Nat} (h : lanesOf s.me.path.mask = [l]) (t : Tag) (n : Nat) (val : Nat → Nat) (reg : Nat) (r : Regs) :
    groupInto s t val reg n r = groupInto s t (fun _ => val l) reg n r := by
  induction n generalizing val reg r with
  | zero => rfl
  | succ n ih => rw [groupInto, ih, vInto_one _ h]; rfl

/-- Which lanes a group is written in is all it takes of the state. -/
theorem groupInto_of_mask {s u : State} (h : u.me.path.mask = s.me.path.mask) (t : Tag) (n : Nat) (val : Nat → Nat) (reg : Nat) (r : Regs) :
    groupInto u t val reg n r = groupInto s t val reg n r := by
  induction n generalizing val reg r with
  | zero => rfl
  | succ n ih => rw [groupInto, ih, h]; rfl

/-- Old values written to v registers. -/
theorem writeAtom_vector {s : State} {d : BitVec 7} (hd : isA d = false) (t lane : Nat) (val : Nat → Nat) :
    writeAtom s d t lane val =
      onRegs s (groupInto s (typeTag t) val d.toNat (if typeBits t = 64 then 2 else 1) s.me.regs) := by
  unfold writeAtom
  rw [if_neg (by simp [hd])]
  split
  · exact setVPair_eq_group s _ _ val
  · rfl

theorem writeAtom_form {s : State} {d : BitVec 7} (hd : isA d = true) (t lane : Nat) (val : Nat → Nat) :
    writeAtom s d t lane val = onRegs s (formInto s d (uniform
      (if t = 5 then BitVec.ofInt 64 (signedOf 32 (val lane)) else BitVec.ofNat 64 (val lane)) (typeTag t))) := if_pos hd

theorem writeAtom_path (s : State) (d : BitVec 7) (t lane : Nat) (val : Nat → Nat) : (writeAtom s d t lane val).me.path = s.me.path := by
  cases hd : isA d with
  | false => rw [writeAtom_vector hd]; rfl
  | true => rw [writeAtom_form hd]; rfl

/-- One lane's value in the list of it alone. -/
theorem valueAt_one (l x : Nat) : valueAt [(l, x)] l = x := by simp [valueAt, lookupNat]

/-- The old value of the one active lane, written to v registers. -/
theorem writeAtom_vector_one {s u : State} (hu : u.me = s.me) {d : BitVec 7} (hd : isA d = false) {l : Nat}
    (hl : lanesOf s.me.path.mask = [l]) (t lane x : Nat) : writeAtom u d t lane (valueAt [(l, x)]) =
      onRegs u (groupInto s (typeTag t) (fun _ => x) d.toNat (if typeBits t = 64 then 2 else 1) s.me.regs) := by
  rw [writeAtom_vector hd, groupInto_of_mask (s := s) (by rw [hu]), groupInto_one hl, valueAt_one, hu]

section
variable {s : State} {d b : BitVec 7} {areg : BitVec 5} {f : BitVec 4} {t bits l : Nat}

/-- ATOMP of one lane with nothing to wait for. -/
theorem atomp_one (hi : Issues (.atomp d areg b f) s) (ht : t = atomType s.me.path.lead f) (hb : bits = typeBits t)
    (hl : atomLanes s d = [l]) (hk : padTrap s.task (atomAddr s areg l) (bits / 8) l = none)
    (he : emptyIn s.task (atomAddr s areg l) (bits / 8) l = []) (hc : s.core.clearing = none) (hm : s.core.matq = [])
    (hs : ∀ k, servedFirst s s.task k = false) (hp : s.task.badPad = []) {x : Nat}
    (hx : x = ofBytesLE (s.task.pad.getBytes (atomAddr s areg l) (bits / 8))) {k : Task}
    (hu : k = padWrite s.task (atomAddr s areg l)
      (bytesLE (bits / 8) (atomNew f.toNat t bits x (atomOperand s b bits l) (atomCompare s d bits l)))) :
    exec (.atomp d areg b f) s = .next (past (writeAtom { s with task := k } d t (electedLane s) (valueAt [(l, x)]))) := by
  subst ht hb hx hu
  rw [exec_atomp, execAtomp, runWord_issues hi]
  dsimp only
  rw [hl, firstTrap_eq_none (by simpa using hk), check_none, bind_ok, padReadWait_ready hc (by simpa using he), eccTrap_of_no_error hp,
    check_none, bind_ok, padWriteWait_ready hc hm hs, bind_ok]
  exact congrArg Host.Outcome.next (wordEnd_issues hi (writeAtom_path _ _ _ _ _))

end

/-- Settles O39: loads and traps by what the accesses meet, stores by induction on the lanes, ATOMP by its one lane. -/
theorem padWords : Obligations.PadWords := by
  intro s base index scale disp data t size off ht hz ho
  refine ⟨fun hi hl hc => ⟨fun l rest hm hb => ?_, fun hb => ?_⟩, fun hi hl hc hm hs hw => ⟨_, stp_ready ht hz ho hi hl hc hm hs,
    foldl_padWrite_rest _ _, fun o => foldl_padWrite_get (storeBytes_length _ _ _) o _ _ hw,
    mem_foldl_padWrite_empty (storeBytes_length _ _ _) _ _⟩, fun l k _ hk hl => ⟨fun hi => ldp_trap ht hz ho hi hk,
      fun hi => stp_trap ht hz ho hi hk, hl ▸ firstTrap_padTrap hk⟩, ?_⟩
  · rw [ldp_ready ht hz ho hi hl hc, hm, eccTrap_first hb]
  · rw [ldp_ready ht hz ho hi hl hc, eccTrap_of_no_error hb]
  · intro d b areg f ty bits l x hi ht hb hl hk he hc hm hs hp hw hx
    refine ⟨_, padWrite_rest_of_no_error hp _ _, padWrite_writes hw _ _, fun hd => ?_, fun hd => ?_⟩
    · have hl' : electedLane s = l := by simpa [atomLanes, hd] using hl
      rw [atomp_one hi ht hb hl hk he hc hm hs hp hx rfl, writeAtom_form hd, hl', valueAt_one]
      rfl
    · have hl' : lanesOf s.me.path.mask = [l] := by simpa [atomLanes, hd, p0] using hl
      rw [atomp_one hi ht hb hl hk he hc hm hs hp hx rfl, writeAtom_vector_one (s := s) (by rfl) hd hl', hb]
      rfl

end Sys2Proof.Machine

end

section
/-! PROOF. CPY, CPYI and PEMPTY (R56, R116, R120, R300, R301, R304). -/

set_option Elab.async false

namespace Sys2Proof.Machine

open Sys2Proof

/-! ## A copy word up to its record -/

/-- The reader of CPYI's record: the pad, once nothing is empty or moving (R301). -/
def padRecord (s : State) (ar lane : Nat) : Res (State × List Byte) :=
  (Res.check (padTrap s.task ar 64 lane)).bind fun _ =>
    (padReadWait s [lane] (fun _ => ar) 64).bind fun _ => .ok (s, padRead s.task ar 64)

theorem padRecord_ready {s : State} {ar lane : Nat} (hk : padTrap s.task ar 64 lane = none) (he : emptyIn s.task ar 64 lane = [])
    (hc : s.core.clearing = none) (hp : s.task.badPad = []) : padRecord s ar lane = .ok (s, s.task.pad.getBytes ar 64) := by
  rw [padRecord, hk, check_none, bind_ok, padReadWait_ready hc (by simpa using he), eccTrap_of_no_error hp]
  rfl

theorem exec_cpyi_padRecord (d a b : BitVec 7) (ch : BitVec 2) (s : State) :
    exec (.cpyi d a b ch) s = copyWord (.cpyi d a b ch) d a b ch padRecord s := exec_cpyi d a b ch s

/-- CPY and CPYI differ in how they read their record alone. -/
theorem exec_copy {i : Instr} {d a b : BitVec 7} {ch : BitVec 2} (s : State) (h : i = .cpy d a b ch ∨ i = .cpyi d a b ch) :
    ∃ rd, exec i s = copyWord i d a b ch rd s := by
  rcases h with rfl | rfl
  · exact ⟨_, exec_cpy d a b ch s⟩
  · exact ⟨_, exec_cpyi d a b ch s⟩

section
variable {i : Instr} {s : State} (h : Issues i s) {d a b : BitVec 7} {ch : BitVec 2} {rd : State → Nat → Nat → Res (State × List Byte)}
include h

/-- A copy word without a leader does nothing (R116). -/
theorem copyWord_idle (hl : leaderOf s (extraOf s.me.path.lead).pred = none) : copyWord i d a b ch rd s = .next (past s) := by
  rw [copyWord, runFlow_issues h]
  simp only [hl]
  rw [wordDone_eq (issues_pend h)]

/-- A record at an address that is not a multiple of 64 traps (R120). -/
theorem copyWord_misaligned {lane : Nat} (hl : leaderOf s (extraOf s.me.path.lead).pred = some lane)
    (ha : atLeader s d.toNat lane % 64 ≠ 0) :
    copyWord i d a b ch rd s = .next (wordTrap s (trapLane 0x08 0 (atLeader s d.toNat lane) lane)) := by
  rw [copyWord, runFlow_issues h]
  simp only [hl]
  rw [if_pos ha]

/-- A copy word whose record has been read goes on to what it issues. -/
theorem copyWord_read {lane ar : Nat} {bar : Option Nat} (hl : leaderOf s (extraOf s.me.path.lead).pred = some lane)
    (hr : ar = atLeader s d.toNat lane) (ha : ar % 64 = 0)
    (hb : bar = if (extraOf s.me.path.lead).aux = 1 then some (atLeader s (extraOf s.me.path.lead).third lane) else none)
    (hx : ∀ x, bar = some x → x % 16 = 0) {t : State} {bytes : List Byte} (hd : rd s ar lane = .ok (t, bytes))
    (hv : coordsVary s (b.toNat - 64) bytes = false) :
    copyWord i d a b ch rd s =
      .next (wordEnd s (issueCopy t lane ch.toNat (b.toNat - 64) (atLeader s a.toNat lane) bar bytes)) := by
  have hbar : (bar.any fun x => x % 16 != 0) = false := by
    cases bar with
    | none => rfl
    | some x => simp [hx x rfl]
  rw [copyWord, runFlow_issues h]
  simp only [hl]
  rw [← hr, ← hb, if_neg (by simp [ha]), hbar, if_neg (by simp), hd]
  dsimp only
  rw [hv, if_neg (by simp)]

end

/-! ## What a copy word issues (R120, R301) -/

/-- A record that fails its checks traps. -/
theorem issueCopy_bad {t : State} {lane ch k dense : Nat} {bar : Option Nat} {bytes : List Byte} {rec : BitVec 512}
    (hr : rec = BitVec.ofNat 512 (ofBytesLE bytes)) (h : layoutOk rec k = false) :
    issueCopy t lane ch k dense bar bytes = .trap (trapLane 0x01 0 (wordAddr t) lane) := by
  subst hr
  simp [issueCopy, h]

/-- The coordinates that a copy takes from its registers at the leader (log entry 32). -/
def copyCoords (t : State) (rec : BitVec 512) (k lane : Nat) : List Int :=
  (List.range (layoutOf rec).ndim).map fun j =>
    signedOf 32 (formLane t.me (aReg (readRegs t) (k + j)) (if lane = 64 then 0 else lane)).toNat

/-- A record that passes its checks is queued. -/
theorem issueCopy_ok {t : State} {lane ch k dense : Nat} {bar : Option Nat} {bytes : List Byte} {rec : BitVec 512}
    (hr : rec = BitVec.ofNat 512 (ofBytesLE bytes)) (h : layoutOk rec k = true) (hc : cellsMisaligned (layoutOf rec) dense = none)
    (hp : padSideOut t.task (layoutOf rec) dense bar = none) :
    issueCopy t lane ch k dense bar bytes = queueCopy t ch (.layout rec (copyCoords t rec k lane) dense bar) := by
  subst hr
  simp [issueCopy, h, hc, hp, copyCoords]

/-- A channel with room takes the copy, unsealed, as the newest operation of its task; nothing else changes. -/
theorem queueCopy_room {t : State} {ch : Nat} (h : (channel t.core ch).queue.length < 16) (hc : ch < 4) (k : CopyKind) :
    ∃ u : State, queueCopy t ch k = .ok u
      ∧ (channel u.core ch).queue = (channel t.core ch).queue ++ [⟨t.nextOp, t.me.id, t.task.tid, k, false, 0, 0, 0, none, []⟩]
      ∧ u.task.ops = t.task.ops ++ [⟨t.nextOp, t.me.id, false, none, false, none, 0⟩] ∧ u.nextOp = t.nextOp + 1
      ∧ u.me = t.me ∧ u.mem = t.mem ∧ u.ctxs = t.ctxs :=
  ⟨_, if_neg (Nat.not_le.2 h), congrArg Channel.queue (vget_vset_same _ _ _ _ hc), rfl, rfl, rfl, rfl, rfl⟩

/-! ## PEMPTY (R56, R304) -/

/-- A core with nothing queued has no copy of any task. -/
theorem copiesOf_idle {c : Core} (h : ∀ ch, (channel c ch).queue = []) (tid : Nat) : copiesOf c tid = [] := by
  have hq : (c.chans.toList.flatMap fun q => q.queue) = [] := List.flatMap_eq_nil_iff.2 fun q hq => by
    obtain ⟨k, hk, rfl⟩ := List.getElem_of_mem hq
    have hk4 : k < 4 := by simpa using hk
    simpa [channel, vget, Vector.getD, hk4] using h k
  rw [copiesOf, hq]
  rfl

theorem linesOf_zero (off : Nat) : linesOf off 0 = [] := if_pos rfl

/-- A range that nothing writes, reads, moves or waits for becomes empty. -/
theorem emptyRange_ready {s : State} {off n : Nat} (ho : off % 128 = 0) (hn : n % 128 = 0) (hp : padIn s.task off n = true)
    (hq : ∀ c, (channel s.core c).queue = []) (hm : s.core.matq = []) (hc : s.core.clearing = none)
    (hs : ∀ k, servedFirst s s.task k = false) (hl : lanesOpen s s.task = false) :
    ∃ k : Task, emptyRange s off n = .ok { s with task := k } ∧ { k with empty := s.task.empty } = s.task
      ∧ ∀ j, j ∈ k.empty ↔ j ∈ s.task.empty ∨ j ∈ linesOf off n := by
  by_cases h0 : n = 0
  · subst h0
    exact ⟨s.task, by simp [emptyRange, ho], rfl, by simp [linesOf_zero]⟩
  · refine ⟨{ s.task with empty := s.task.empty ++ (linesOf off n).filter fun k => !s.task.empty.contains k }, ?_, rfl, fun j => ?_⟩
    · simp [emptyRange, ho, hn, h0, hp, copiesOf_idle hq, matHolds, hm, padMoving_of_no_clearing hc, hs, hl]
    · by_cases hj : j ∈ s.task.empty <;> simp [hj]

/-- Settles O46: CPY and CPYI differ in the reader of their record alone, and `queueCopy` adds the copy. -/
theorem copyWords : Obligations.CopyWords := by
  refine ⟨?_, ?_, ?_⟩
  · intro i s t d a b ch lane ar dense k bar bytes rec hi har hdense hk hbar hx hl ha hr hp hw hv
    have hd : exec i s = .next (wordEnd s (issueCopy t lane ch.toNat k dense bar bytes)) := by
      subst hdense hk
      rcases hw with ⟨rfl, hrd⟩ | ⟨rfl, rfl, hpt, he, hc, hbp, rfl⟩
      · rw [exec_cpy, execCpy, copyWord_read hi hl har ha hbar hx hrd hv]
      · rw [exec_cpyi_padRecord, copyWord_read hi hl har ha hbar hx (padRecord_ready hpt he hc hbp) hv]
    refine ⟨fun hbad => ?_, fun hok hcells hside => ⟨fun hfull => ?_, fun hroom => ?_⟩⟩
    · rw [hd, issueCopy_bad hr hbad, wordEnd_trap]
    · rw [hd, issueCopy_ok hr hok hcells hside, queueCopy, if_pos hfull, wordEnd_stall]
    · obtain ⟨u, hu, hq, ho, hn, hme, hmem, hctxs⟩ := queueCopy_room hroom ch.isLt (.layout rec (copyCoords t rec k lane) dense bar)
      rw [hd, issueCopy_ok hr hok hcells hside, hu]
      refine ⟨past u, by rw [wordEnd_issues hi (by rw [hme, hp])], hq, ho, hn, ?_, hmem, hctxs⟩
      simp only [past, hme, hp]
  · intro i s d a b ch hi hw
    obtain ⟨rd, he⟩ := exec_copy s hw
    exact ⟨fun hl => he.trans (copyWord_idle hi hl), fun lane hl ha => he.trans (copyWord_misaligned hi hl ha)⟩
  · intro s a b hi ho hn hp hq hm hc hs hl
    obtain ⟨k, hk, hrest, hmem⟩ := emptyRange_ready ho hn hp hq hm hc hs hl
    refine ⟨k, ?_, hrest, hmem⟩
    rw [exec_pempty, execPempty, runWord_issues hi, hk, wordEnd_issues hi (by rfl)]

end Sys2Proof.Machine

end

section
/-! PROOF. The glade words (R47 to R53, R313, R314): what a move does to banks, files and charges, then POOLQ, POOLSET and the end of a
clearing. -/

set_option Elab.async false

namespace Sys2Proof.Machine

open Sys2Proof

/-! ## Banks, files and charges -/

/-- Entries of a vector written one after another, each with a value that its place gives. -/
theorem vget_foldl_vset {α : Type} {n : Nat} (f : Nat → α) (l : List Nat) (v : Vector α n) (k : Nat) (d : α) (hk : k < n) :
    vget (l.foldl (fun v b => vset v b (f b)) v) k d = if k ∈ l then f k else vget v k d := by
  induction l generalizing v with
  | nil => simp
  | cons b rest ih =>
    rw [List.foldl_cons, ih]
    by_cases hr : k ∈ rest
    · simp [hr]
    · by_cases hb : b = k
      · subst hb; simp [hr, vget_vset_same _ _ _ _ hk]
      · simp [hr, Ne.symm hb, vget_vset_other _ _ _ _ _ hb]

/-- Banks given a role and an owner have them, and the others stand. -/
theorem bankAt_setBanks (c : Core) (l : List Nat) (r : Role) (o : Option Nat) {k : Nat} (hk : k < 96) :
    bankAt (setBanks c l r o) k = if k ∈ l then ⟨r, o, (bankAt c k).out⟩ else bankAt c k :=
  vget_foldl_vset (fun b => Bank.mk r o (bankAt c b).out) l c.banks k ⟨.off, none, false⟩ hk

/-- A core with the banks of a move: those that leave, those that join, and those that take over pad slots. -/
def movedCore (c : Core) (gone joined spare : List Nat) (r : Role) (tid : Nat) : Core :=
  setBanks (setBanks (setBanks c gone .off none) joined r (some tid)) spare .pad (some tid)

/-- The banks after a move: those that take over pad slots, else those that joined, else those that left, else as before. -/
theorem bankAt_movedCore (c : Core) (gone joined spare : List Nat) (r : Role) (tid : Nat) {k : Nat} (hk : k < 96) :
    (k ∈ spare → (bankAt (movedCore c gone joined spare r tid) k).role = .pad
      ∧ (bankAt (movedCore c gone joined spare r tid) k).owner = some tid)
    ∧ (k ∉ spare → k ∈ joined → (bankAt (movedCore c gone joined spare r tid) k).role = r
      ∧ (bankAt (movedCore c gone joined spare r tid) k).owner = some tid)
    ∧ (k ∉ spare → k ∉ joined → k ∈ gone → (bankAt (movedCore c gone joined spare r tid) k).role = .off
      ∧ (bankAt (movedCore c gone joined spare r tid) k).owner = none)
    ∧ (k ∉ spare → k ∉ joined → k ∉ gone → bankAt (movedCore c gone joined spare r tid) k = bankAt c k) := by
  simp only [movedCore, bankAt_setBanks _ _ _ _ hk]
  refine ⟨fun h => ?_, fun h h1 => ?_, fun h h1 h2 => ?_, fun h h1 h2 => ?_⟩
  · simp [h]
  · simp [h, h1]
  · simp [h, h1, h2]
  · simp [h, h1, h2]

/-- Two states that differ in the files of their contexts alone. -/
def FilesDiffer (s t : State) : Prop := t = { s with me := { s.me with file := t.me.file }, ctxs := t.ctxs }

theorem FilesDiffer.trans {s t u : State} (h : FilesDiffer s t) (k : FilesDiffer t u) : FilesDiffer s u := by
  rw [FilesDiffer] at h k ⊢
  rw [k, h]

/-- A file given to a context by number changes files alone. -/
theorem mapCtx_file (s : State) (id : Nat) (f : Nat × Nat) : FilesDiffer s (mapCtx s id fun d => { d with file := some f }) := by
  unfold mapCtx putCtx
  cases hc : getCtx s id with
  | none => rfl
  | some c =>
    have hid : c.id = id := by simpa using List.find?_some hc
    dsimp only
    by_cases hm : s.me.kind ≠ .idle ∧ s.me.id = c.id
    · have hme : c = s.me := by simpa [getCtx, liveCtxs, hm.1, hm.2, hid] using hc.symm
      rw [if_pos hm, hme]
      rfl
    · rw [if_neg hm]
      rfl

theorem moveFiles_files (cs : List Context) (fs : List (Nat × Nat)) (s : State) : FilesDiffer s (moveFiles s cs fs) := by
  induction cs generalizing fs s with
  | nil => rfl
  | cons c cs ih =>
    cases fs with
    | nil => rfl
    | cons f fs => exact (mapCtx_file s c.id f).trans (ih fs _)

/-- The line of a region is read off the regions alone. -/
theorem regionLine_congr {s u : State} (h : u.dev.regions = s.dev.regions) (fuel num : Nat) :
    regionLine u fuel num = regionLine s fuel num := by
  induction fuel generalizing num with
  | zero => rfl
  | succ fuel ih => simp only [regionLine, getRegion, h, ih]

theorem mapLine_congr {s u : State} (h : u.dev.regions = s.dev.regions) (region : Nat) (f : Region → Region) :
    (mapLine u region f).dev.regions = (mapLine s region f).dev.regions := by
  simp only [mapLine, ancestry, regionLine_congr h, h]

theorem charge_congr {s u : State} (h : u.dev.regions = s.dev.regions) (region : Nat) (r : Role) (n : Nat) :
    (charge u region r n).dev.regions = (charge s region r n).dev.regions := by
  unfold charge
  split
  · exact h
  · exact mapLine_congr h _ _

theorem release_congr {s u : State} (h : u.dev.regions = s.dev.regions) (region : Nat) (r : Role) (n : Nat) :
    (release u region r n).dev.regions = (release s region r n).dev.regions := by
  unfold release
  split
  · exact h
  · exact mapLine_congr h _ _

/-- A charge changes the regions alone. -/
theorem charge_rest (s : State) (region : Nat) (r : Role) (n : Nat) :
    charge s region r n = { s with dev := { s.dev with regions := (charge s region r n).dev.regions } } := by
  unfold charge
  split <;> rfl

theorem release_rest (s : State) (region : Nat) (r : Role) (n : Nat) :
    release s region r n = { s with dev := { s.dev with regions := (release s region r n).dev.regions } } := by
  unfold release
  split <;> rfl

/-! ## The move (R48 to R50) -/

/-- The charges of a move change hands (R49, R53). -/
def chargeMove (s : State) (m : Move) : State :=
  let t := charge s s.task.region m.dst m.n
  if m.src = .off ∨ m.keep = true then t else release t t.task.region m.src m.n

theorem chargeMove_rest (s : State) (m : Move) :
    chargeMove s m = { s with dev := { s.dev with regions := (chargeMove s m).dev.regions } } := by
  unfold chargeMove
  dsimp only
  split
  · exact charge_rest _ _ _ _
  · rw [release_rest, charge_rest]

theorem chargeMove_regions {s u : State} (h : u.dev = s.dev) (hr : u.task.region = s.task.region) (m : Move) :
    (chargeMove u m).dev.regions = (if m.src = .off ∨ m.keep = true then charge s s.task.region m.dst m.n
      else release (charge s s.task.region m.dst m.n) s.task.region m.src m.n).dev.regions := by
  have hc := charge_congr (congrArg Device.regions h) s.task.region m.dst m.n
  have ht : (charge u s.task.region m.dst m.n).task.region = s.task.region := by rw [charge_rest]; exact hr
  unfold chargeMove
  dsimp only
  rw [hr]
  split
  · exact hc
  · rw [ht]
    exact release_congr hc _ _ _

/-- The banks that have the destination's role after a move (R48). -/
def joinedBanks (s : State) (m : Move) (subs : List Nat) : List Nat :=
  if m.src = .off then subs else if m.dst = .off then [] else (departing s m).filter (allows m.dst) ++ subs

/-- The clearing that a move starts (R47). -/
def clearingOf (s : State) (m : Move) (dest : Nat) : Clearing :=
  ⟨s.me.id, s.me.path.id, s.task.tid, dest, if m.keep then departSlots s m else [], (movingFiles s m).2.map fun c => c.id⟩

/-- A move is a change of banks, pad, tiles and files, and then of charges. -/
theorem applyMove_eq (s : State) (m : Move) (dest : Nat) (subs spare : List Nat) :
    ∃ u : State, applyMove s m dest subs spare = chargeMove u m
      ∧ u.core = { trimCache (movedCore s.core (departing s m) (joinedBanks s m subs) spare m.dst s.task.tid) s.task.tid with
          clearing := some (clearingOf s m dest) }
      ∧ u.dev = s.dev ∧ u.task.region = s.task.region ∧ u.me.regs = s.me.regs ∧ u.me.path = s.me.path ∧ u.mem = s.mem := by
  have h := moveFiles_files (movingFiles s m).2 (movingFiles s m).1 s
  refine ⟨_, rfl, ?core, ?dev, ?region, ?regs, ?path, ?mem⟩
  case core =>
    dsimp only
    rw [h]
    rfl
  all_goals
    dsimp only
    rw [h]

/-! ## POOLSET (R47 to R52, R313) -/

/-- What POOLSET's conditions come to, as a state. -/
def poolEnd (s : State) : Res State → State
  | .ok t => t
  | .trap k => wordTrap s k
  | .stall w => wordStall s w

/-- The state in which a condition has failed: code 6 withdraws the inbox's credits (R51). -/
def withdrawnFor (s : State) (m : Move) (k : Nat) : State :=
  if k = 6 then { s with task := { s.task with withdrawn := some ((ownBanks s.core s.task.tid .fifo).length - m.n) } } else s

theorem withdrawnFor_eq (s : State) (m : Move) (k : Nat) :
    withdrawnFor s m k = { s with task := { s.task with withdrawn := (withdrawnFor s m k).task.withdrawn } } := by
  unfold withdrawnFor
  split <;> rfl

/-- What a trap reports of a word does not turn on the credits withdrawn. -/
theorem trapHere_withdrawn (s : State) (m : Move) (k : Nat) (code : BitVec 8) (detail : Nat) :
    trapHere (withdrawnFor s m k) code detail = trapHere s code detail := by
  rw [withdrawnFor_eq]
  rfl

theorem wordDone_withdrawn {s : State} (h : s.me.path.pend = none) (m : Move) (k : Nat) (d : BitVec 7) (x : Word64) (t : Tag) :
    wordDone (setUniform (withdrawnFor s m k) d x t) = wrote (withdrawnFor s m k) (formInto s d (uniform x t)) := by
  rw [withdrawnFor_eq, wordDone_eq (by exact h)]
  rfl

theorem coded_fails {s : State} {m : Move} {d : BitVec 7} {trapped : Bool} {k : Nat} (hk : poolCode s m = k) (h0 : k ≠ 0) :
    poolWord.coded s m d trapped = if trapped then .ok (wordTrap (withdrawnFor s m k) (trapHere (withdrawnFor s m k) 0x0C k))
      else .ok (wordDone (setUniform (withdrawnFor s m k) d (BitVec.ofNat 64 k) .int32)) := by
  obtain ⟨j, rfl⟩ := Nat.exists_eq_succ_of_ne_zero h0
  rw [poolWord.coded, hk]
  rfl

theorem coded_busy {s : State} {m : Move} (hk : poolCode s m = 0) (hb : padBusy s (departSlots s m) = true) (d : BitVec 7)
    (trapped : Bool) : poolWord.coded s m d trapped = .stall .pool := by
  simp only [poolWord.coded, hk, hb, if_true]

theorem coded_moves {s : State} {m : Move} (hk : poolCode s m = 0) (hb : padBusy s (departSlots s m) = false) {subs spare : List Nat}
    (hp : pickBanks m (needed s m) (freePool s) = some (subs, spare)) (d : BitVec 7) (trapped : Bool) :
    poolWord.coded s m d trapped = .ok (wordStall (applyMove s m d.toNat subs spare) .clearing) := by
  simp only [poolWord.coded, hk, hb, hp, Bool.false_eq_true, if_false]

section
variable {s : State} {d b : BitVec 7} {src dst f3 : BitVec 3} {m : Move} (hi : Issues (.poolset d src dst b f3) s)
  (hm : m = ⟨roleOf src.toNat, roleOf dst.toNat, b.toNat, f3.getLsbD 0, f3.getLsbD 1⟩) (hc : s.core.clearing = none)
include hi hm hc

/-- POOLSET on a core without a clearing meets its conditions. -/
theorem exec_poolset_coded : exec (.poolset d src dst b f3) s = .next (poolEnd s (poolWord.coded s m d (f3.getLsbD 2))) := by
  subst hm
  rw [exec_poolset, execPoolset, runFlow_issues hi, poolWord, hc]
  rfl

theorem exec_poolset_fails {k : Nat} (hk : poolCode s m = k) (h0 : k ≠ 0) :
    exec (.poolset d src dst b f3) s = .next (if f3.getLsbD 2 then wordTrap (withdrawnFor s m k) (trapHere (withdrawnFor s m k) 0x0C k)
      else wordDone (setUniform (withdrawnFor s m k) d (BitVec.ofNat 64 k) .int32)) := by
  rw [exec_poolset_coded hi hm hc, coded_fails hk h0]
  cases f3.getLsbD 2 with
  | true => rfl
  | false => rfl

theorem exec_poolset_busy (hk : poolCode s m = 0) (hb : padBusy s (departSlots s m) = true) :
    exec (.poolset d src dst b f3) s = .next (wordStall s .pool) := by
  rw [exec_poolset_coded hi hm hc, coded_busy hk hb]
  rfl

theorem exec_poolset_moves (hk : poolCode s m = 0) (hb : padBusy s (departSlots s m) = false) {subs spare : List Nat}
    (hp : pickBanks m (needed s m) (freePool s) = some (subs, spare)) :
    exec (.poolset d src dst b f3) s = .next (wordStall (applyMove s m d.toNat subs spare) .clearing) := by
  rw [exec_poolset_coded hi hm hc, coded_moves hk hb hp]
  rfl

end

/-! ## The end of a clearing (R47, R52) -/

theorem stepPast_id (p : Path) : (stepPast p).id = p.id := by
  unfold stepPast
  split <;> rfl

theorem focusPath_self {c : Context} {n : Nat} (h : c.path.id = n) : focusPath c n = c := if_pos h

theorem focus_self {s : State} {n : Nat} (hk : s.me.kind ≠ .idle) (h : s.me.id = n) : focus s n = s := if_pos ⟨hk, h⟩

/-- An effect on the path under issue is the effect itself, where it keeps that path under issue. -/
theorem onPath_self {s : State} {f : State → State} (hk : s.me.kind ≠ .idle) (hs : ∀ r ∈ s.dev.spilled, r.id ≠ s.me.id)
    (hf : (f s).me.kind = s.me.kind ∧ (f s).me.id = s.me.id ∧ (f s).me.path.id = s.me.path.id) :
    onPath s s.me.id s.me.path.id f = f s := by
  obtain ⟨hkind, hid, hpath⟩ := hf
  have hsp : getSpilled s s.me.id = none := by simpa [getSpilled] using hs
  simp only [onPath, hsp, focus_self hk rfl, focusPath_self rfl, backTo]
  rw [if_neg (by simp [hk]), if_neg hk, focus_self (by rw [hkind]; exact hk) hid, focusPath_self hpath]

/-- The clearing of the path under issue ends: its code 0 is written, and the word is over. -/
theorem exec_clearingComplete_self {s : State} {c : Clearing} (hc : s.core.clearing = some c) (hx : c.ctx = s.me.id)
    (hp : c.path = s.me.path.id) (hk : s.me.kind ≠ .idle) (hs : ∀ r ∈ s.dev.spilled, r.id ≠ s.me.id) (hn : s.me.path.pend = none) :
    exec (.clearingComplete s.core.id) s = .next (wrote { s with core := { s.core with clearing := none } }
      (formInto s (BitVec.ofNat 7 c.dest) (uniform 0 .int32))) := by
  have hg : getCore s s.core.id = s.core := if_pos rfl
  have hm : mapCore s s.core.id (fun k => { k with clearing := none }) = { s with core := { s.core with clearing := none } } := by
    rw [mapCore, hg]
    exact if_pos rfl
  rw [exec_clearingComplete, execClearingComplete, hg, hc]
  dsimp only
  rw [hm, hx, hp, onPath_self (s := { s with core := { s.core with clearing := none } }) hk hs, wordDone_eq (by exact hn)]
  · rfl
  · rw [wordDone_eq (by exact hn)]
    exact ⟨rfl, rfl, stepPast_id _⟩

/-- Settles O45: the banks of a move by `bankAt_movedCore`, its charges by `chargeMove_regions`, and the end of a clearing as an effect
on the path under issue. -/
theorem gladeWords : Obligations.GladeWords := by
  refine ⟨fun s d src dst hi => ?_, ?_, fun s c hc hx hp hk hs hn _ => exec_clearingComplete_self hc hx hp hk hs hn⟩
  · rw [exec_poolq]
    exact runWord_setUniform hi rfl
  · intro s d b src dst f3 m hi hc hm
    refine ⟨fun k u hk h0 hu => ⟨fun hf => ?_, fun hf => ?_⟩, exec_poolset_busy hi hm hc, ?_⟩
    · rw [exec_poolset_fails hi hm hc hk h0, hf, if_neg (by simp), wordDone_withdrawn (issues_pend hi), hu]
      rfl
    · rw [exec_poolset_fails hi hm hc hk h0, hf, if_pos rfl, trapHere_withdrawn, hu]
      rfl
    · intro gone joined subs spare hk hb hp hgone hjoined
      subst hgone
      obtain rfl : joined = joinedBanks s m subs := hjoined
      obtain ⟨u, hu, hcore, hdev, hreg, hregs, hpath, hmem⟩ := applyMove_eq s m d.toNat subs spare
      refine ⟨applyMove s m d.toNat subs spare, exec_poolset_moves hi hm hc hk hb hp, ?_, ?_, ?_, ?_, ?_, ?_⟩
      · rw [hu, chargeMove_rest]
        exact congrArg Core.clearing hcore
      · intro j hj
        have hbank : bankAt (applyMove s m d.toNat subs spare).core j
            = bankAt (movedCore s.core (departing s m) (joinedBanks s m subs) spare m.dst s.task.tid) j := by
          rw [hu, chargeMove_rest]
          exact (congrArg (fun c => bankAt c j) hcore).trans rfl
        rw [hbank]
        exact bankAt_movedCore _ _ _ _ _ _ hj
      · rw [hu]
        exact chargeMove_regions hdev hreg m
      · rw [hu, chargeMove_rest]
        exact hregs
      · rw [hu, chargeMove_rest]
        exact hpath
      · rw [hu, chargeMove_rest]
        exact hmem

end Sys2Proof.Machine

end

section
/-! PROOF. Queued matrix operations and drains (R70, R138, R144, R145, R323, R324): the tile an operation makes, the task it belongs to, and
its end. -/

set_option Elab.async false

namespace Sys2Proof.Machine

open Sys2Proof

/-! ## Tiles -/

theorem lookupNat_setNat_same {α : Type} (k : Nat) (x : α) (l : List (Nat × α)) : lookupNat k (setNat k x l) = some x := by
  induction l with
  | nil => simp [setNat, lookupNat]
  | cons y l ih => by_cases h : y.1 = k <;> simp [setNat, lookupNat, h, ih]

theorem lookupNat_setNat_other {α : Type} {j k : Nat} (h : j ≠ k) (x : α) (l : List (Nat × α)) :
    lookupNat j (setNat k x l) = lookupNat j l := by
  induction l with
  | nil => simp [setNat, lookupNat, Ne.symm h]
  | cons y l ih =>
    by_cases hk : y.1 = k
    · simp [setNat, lookupNat, hk, Ne.symm h]
    · simp [setNat, lookupNat, hk, ih]

/-- The task after an operation has made its tile. -/
def tileMade (t : Task) (o : MatOp) : Task := clearTile { t with tiles := setNat o.bank (tileAfter t o) t.tiles } o

/-- An operation changes the tile of its bank, and what is known of its errors. -/
theorem tileMade_rest (t : Task) (o : MatOp) :
    tileMade t o = { t with tiles := setNat o.bank (tileAfter t o) t.tiles, badTiles := (tileMade t o).badTiles } := by
  unfold tileMade clearTile
  split <;> rfl

theorem tileOf_tileMade_same (t : Task) (o : MatOp) : tileOf (tileMade t o) o.bank = tileAfter t o := by
  rw [tileMade_rest, tileOf, lookupNat_setNat_same]
  rfl

theorem tileOf_tileMade_other (t : Task) {o : MatOp} {b : Nat} (h : b ≠ o.bank) : tileOf (tileMade t o) b = tileOf t b := by
  rw [tileMade_rest, tileOf, lookupNat_setNat_other h]
  rfl

/-! ## The task under issue -/

/-- A running task under issue is the one of its number. -/
theorem getTask_running {s : State} (h : s.task.phase = .running) : getTask s s.task.tid = some s.task := by
  simp [getTask, liveTasks, h]

theorem mapTask_running {s : State} (h : s.task.phase = .running) {f : Task → Task} (hf : (f s.task).tid = s.task.tid) :
    mapTask s s.task.tid f = { s with task := f s.task } := by
  simp [mapTask, putTask, getTask_running h, h, hf]

/-- A running task goes on as it is. -/
theorem settle_running {s : State} (h : s.task.phase = .running) : settle s s.task.tid = s := by
  rw [settle, getTask_running h]
  simp [h]

/-- The only task of a core, with no context under issue, is the one that an engine of the core works for. -/
theorem focusTask_self {s : State} (hme : s.me = Context.idle) (hp : s.task.phase = .running) (ht : s.tasks = [])
    (hc : s.task.core = s.core.id) : focusTask s s.task.tid = s := by
  have hs : stash s = { s with task := Task.none, tasks := [s.task] } := by
    have hk : s.me.kind = .idle := by rw [hme]; rfl
    rw [stash, if_pos hk, if_neg (by simp [hp]), if_neg (by simp [hp]), ht, ← hme]
    rfl
  have hf : focusCore s s.task.core = s := if_pos hc.symm
  rw [focusTask, hs]
  simp only [List.find?_cons, eraseFirst, beq_self_eq_true, if_true, ← ht]
  exact hf

/-! ## The end of an operation (R138) -/

/-- The task of an operation that has ended. -/
def opClosed (t : Task) (o : MatOp) (fault : Option Trap) (w : Nat) : Task :=
  { t with ops := updateFirst (fun k => k.id == o.op) (fun k => { k with done := true, fault := fault, wct := later k.wct w }) t.ops }

/-- An operation of the running task leaves the queue, and is done. -/
theorem endMatOp_running {s : State} {o : MatOp} (ho : o.task = s.task.tid) (hp : s.task.phase = .running) (fault : Option Trap) (w : Nat) :
    endMatOp s o fault w = { s with
      core := { s.core with matq := eraseFirst (fun k => k.op == o.op) s.core.matq }
      task := opClosed s.task o fault w } := by
  have hc : closeMatOp s o fault w = { s with
      core := { s.core with matq := eraseFirst (fun k => k.op == o.op) s.core.matq }
      task := opClosed s.task o fault w } := by
    rw [closeMatOp, ho]
    exact mapTask_running (by exact hp) rfl
  rw [endMatOp, hc, ho]
  exact settle_running (by exact hp)

theorem work_of_isDrain {o : MatOp} (h : isDrain o = true) : ∃ program args rel clear, o.work = .drain program args rel clear := by
  unfold isDrain at h
  split at h
  · exact ⟨_, _, _, _, by assumption⟩
  · cases h

section
variable {s : State} {n : Nat} {o : MatOp} (hq : s.core.matq[n]? = some o) (hme : s.me = Context.idle) (ho : o.task = s.task.tid)
  (hp : s.task.phase = .running) (ht : s.tasks = []) (hfree : ∀ k ∈ s.core.matq.take n, k.bank ≠ o.bank) (hcore : s.task.core = s.core.id)
include hq hme ho hp ht hfree hcore

/-- The operation an engine of the core acts on, in the state as it is, once no earlier one is on its tile. -/
theorem matAt_self : matAt s s.core.id n = some (s, o) := by
  have hg : getCore s s.core.id = s.core := if_pos rfl
  have htile : tileFree s.core n o = true := by
    simp only [tileFree, Bool.not_eq_true', List.any_eq_false]
    intro k hk
    simp [hfree k hk]
  rw [matAt, hg, hq]
  dsimp only
  rw [if_pos htile, ho, focusTask_self hme hp ht hcore]

theorem exec_matrixOpExecute_bad (hd : isDrain o = false) (hc : s.core.clearing = none) (he : matEmpty s.task o = none) {k : Trap}
    (hb : matBad s.task o = some k) : exec (.matrixOpExecute s.core.id n) s = .next (endMatOp s o (some k) 0) := by
  rw [exec_matrixOpExecute, execMatrixOpExecute, matAt_self hq hme ho hp ht hfree hcore]
  simp [hd, he, hb, padMoving_of_no_clearing hc]

theorem exec_matrixOpExecute_done (hd : isDrain o = false) (hc : s.core.clearing = none) (he : matEmpty s.task o = none)
    (hb : matBad s.task o = none) :
    exec (.matrixOpExecute s.core.id n) s = .next (endMatOp { s with task := tileMade s.task o } o none 0) := by
  rw [exec_matrixOpExecute, execMatrixOpExecute, matAt_self hq hme ho hp ht hfree hcore]
  simp [hd, he, hb, padMoving_of_no_clearing hc, tileMade]

theorem exec_drainExecute_bad (hd : isDrain o = true) {k : Trap} (hb : matBad s.task o = some k) :
    exec (.drainExecute s.core.id n) s = .next (endMatOp s o (some k) 0) := by
  obtain ⟨program, args, rel, clear, hw⟩ := work_of_isDrain hd
  rw [exec_drainExecute, execDrainExecute, matAt_self hq hme ho hp ht hfree hcore]
  simp [hw, hb]

theorem exec_drainExecute_runs {program : Vector Word32 16} {args : Vector Word64 4} {rel clear : Bool} (hw : o.work = .drain program args rel clear)
    (hb : matBad s.task o = none) {p : Drain}
    (hr : p = drainRows o program args clear (lanesOf o.rows) ⟨s, ⟨[], [], 32, 0, 0⟩, none, none, 0, [], s.task⟩) (hs : p.stall = none) :
    exec (.drainExecute s.core.id n) s = .next (endMatOp p.s o p.fault p.wct) := by
  rw [exec_drainExecute, execDrainExecute, matAt_self hq hme ho hp ht hfree hcore]
  simp only [hw, hb, ← hr, hs, Option.isSome_none, Bool.false_eq_true, if_false]

end

/-- Settles O48: the operation's task is the one under issue, runs on, and changes in its tile and its operations alone. -/
theorem matrixExecution : Obligations.MatrixExecution := by
  intro s n o hq hme ho hp ht hfree hcore
  refine ⟨fun k hc he hb => ⟨fun hd => ?_, fun hd => ?_⟩, fun hd hc he hb => ?_, fun program args rel clear p hw hb hr hs => ?_⟩
  · exact exec_matrixOpExecute_bad hq hme ho hp ht hfree hcore hd hc he hb
  · exact exec_drainExecute_bad hq hme ho hp ht hfree hcore hd hb
  · refine ⟨_, exec_matrixOpExecute_done hq hme ho hp ht hfree hcore hd hc he hb, ?_⟩
    have hr := tileMade_rest s.task o
    rw [endMatOp_running (by rw [hr]; exact ho) (by rw [hr]; exact hp)]
    exact ⟨tileOf_tileMade_same _ _, rfl, by rw [hr]; rfl, rfl, fun b hbank => tileOf_tileMade_other _ hbank⟩
  · exact exec_drainExecute_runs hq hme ho hp ht hfree hcore hw hb hr hs

end Sys2Proof.Machine

end

section
/-! PROOF. The words of pipe M that queue an operation, and EPLOAD (R132 to R144, R318 to R327): what a queue with room takes, what the
checks of pad operands and the binding of an m register come to, and then each word. -/

set_option Elab.async false

namespace Sys2Proof.Machine

open Sys2Proof

/-! ## What the words share -/

/-- An operation of the word under issue queued, unsealed, with the rows of p0 (R138). -/
def withMatOp (s : State) (bank : Nat) (tag : Tag) (work : MatWork) : State :=
  { s with
    nextOp := s.nextOp + 1
    task := { s.task with ops := s.task.ops ++ [⟨s.nextOp, s.me.id, true, none, false, none, 0⟩] }
    core := { s.core with matq := s.core.matq ++ [⟨s.nextOp, s.me.id, s.task.tid, bank, tag, s.me.path.mask, work, none⟩] } }

/-- A queue with room takes the operation. -/
theorem queueMat_room {s : State} (h : s.core.matq.length < 16) (bank : Nat) (tag : Tag) (work : MatWork) :
    queueMat s bank tag work = .ok (withMatOp s bank tag work) := if_neg (Nat.not_le.2 h)

/-- Pad pairs that pass their checks have no reserved bit set. -/
theorem any_pairBad_of_pairTrap {s : State} {pairs : List (Word64 × Word64)} {rows : List Nat} {index n : Nat}
    (h : pairTrap s pairs rows index n = none) : pairs.any pairBad = false := by
  cases hb : pairs.any pairBad with
  | false => rfl
  | true =>
    rw [pairTrap, if_pos hb] at h
    cases h

/-- A context's m register bound to a bank, with its tag. -/
def withMReg (s : State) (tile : BitVec 3) (m : MReg) : State :=
  { s with me := { s.me with regs := { s.me.regs with m := vset s.me.regs.m tile.toNat m } } }

/-- A bound m register keeps its bank; an unbound one takes the task's first unbound TILE bank (R62, R324). -/
theorem bindTile_binds {s : State} {tile : BitVec 3} {bank : Nat}
    (h : (mRegOf s tile).bank = some bank ∨ ((mRegOf s tile).bank = none ∧ (unboundTiles s s.task).head? = some bank)) (tag : Tag) :
    bindTile s tile tag = .ok (withMReg s tile ⟨some bank, tag⟩, bank) := by
  rcases h with h | ⟨h, hu⟩
  · simp only [bindTile, h]; rfl
  · simp only [bindTile, h, hu]; rfl

/-- A task without an error in its TILE banks names none as bad, so that no drain traps (R70). -/
theorem badTiles_contains_of_nil {t : Task} (h : t.badTiles = []) (bank : Nat) : t.badTiles.contains bank = false := by rw [h]; rfl

section
variable {s : State} (hroom : s.core.matq.length < 16)
include hroom

/-! ## MMA and MMAS -/

/-- A step that is queued takes its tile's bank and tag, and its operands as they stand at issue (R134, R323). -/
theorem queueStep_room (tile : BitVec 3) (ka kb fmt index : Nat) (scale : Option (Vector Word32 64 × Vector Word32 64)) (col : Nat) :
    queueStep s tile ka kb fmt index scale col = .ok (withMatOp s ((mRegOf s tile).bank.getD 0) (mRegOf s tile).tag
      (.step fmt index (captureSrc s 0 ka) (captureSrc s 1 kb) scale col)) := queueMat_room hroom _ _ _

variable {tile : BitVec 3} {ka kb : BitVec 7} {fmt : BitVec 4} {step : BitVec 2}
  (hpads : pairTrap s (stepPairs s ka.toNat kb.toNat) lanes64 step.toNat 32 = none)
include hpads

theorem exec_mma_queues (hi : Issues (.mma tile ka kb fmt step) s) :
    exec (.mma tile ka kb fmt step) s = .next (past (withMatOp s ((mRegOf s tile).bank.getD 0) (mRegOf s tile).tag
      (.step fmt.toNat step.toNat (captureSrc s 0 ka.toNat) (captureSrc s 1 kb.toNat) none 0))) := by
  rw [exec_mma, execMma, runWord_issues hi, hpads, check_none, bind_ok, queueStep_room hroom, wordEnd_issues hi (by rfl)]

/-- The row parameters are the third operand's words through its pattern, read at issue (R68, R322). -/
theorem exec_mmas_queues (hi : Issues (.mmas tile ka kb fmt step) s) {col : Nat}
    (hcol : col = (aReg (readRegs s) ((extraOf s.me.path.lead).aux % 32)).base.toNat) (halign : col % 8 = 0)
    (hin : padIn s.task (col + 512 * step.toNat) 512 = true) :
    exec (.mmas tile ka kb fmt step) s = .next (past (withMatOp s ((mRegOf s tile).bank.getD 0) (mRegOf s tile).tag
      (.step fmt.toNat step.toNat (captureSrc s 0 ka.toNat) (captureSrc s 1 kb.toNat)
        (some (execMmas.rowWord s (readRegs s) (extraOf s.me.path.lead).third 0,
          execMmas.rowWord s (readRegs s) (extraOf s.me.path.lead).third 1)) col))) := by
  subst hcol
  rw [exec_mmas, execMmas, runWord_issues hi]
  dsimp only
  rw [any_pairBad_of_pairTrap hpads, if_neg Bool.false_ne_true, check_none, bind_ok, beq_iff_eq.2 halign, need_true, bind_ok, hpads,
    check_none, bind_ok, hin, need_true, bind_ok, queueStep_room hroom, wordEnd_issues hi (by rfl)]

end

/-! ## MZERO and MLOAD -/

section
variable {s : State} (hroom : s.core.matq.length < 16) {tile : BitVec 3} {bank : Nat}
  (hbank : (mRegOf s tile).bank = some bank ∨ ((mRegOf s tile).bank = none ∧ (unboundTiles s s.task).head? = some bank))
include hroom hbank

/-- The tile that is bound is the one the operation writes (R324). -/
theorem bindTile_queueMat (tag : Tag) (work : MatWork) :
    ((bindTile s tile tag).bind fun q => queueMat q.1 q.2 tag work) = .ok (withMatOp (withMReg s tile ⟨some bank, tag⟩) bank tag work) := by
  rw [bindTile_binds hbank, bind_ok]
  exact queueMat_room (s := withMReg s tile ⟨some bank, tag⟩) hroom bank tag work

theorem exec_mzero_queues {i32 : BitVec 1} (hi : Issues (.mzero tile i32) s) :
    exec (.mzero tile i32) s = .next (past (withMatOp (withMReg s tile ⟨some bank, modTag i32⟩) bank (modTag i32) .zero)) := by
  rw [exec_mzero, execMzero, runWord_issues hi, bindTile_queueMat hroom hbank, wordEnd_issues hi (by rfl)]

theorem exec_mload_queues {ka : BitVec 7} {i32 : BitVec 1} (hi : Issues (.mload tile ka i32) s)
    (hpads : pairTrap s [padPair s ka.toNat] (lanesOf s.me.path.mask) 0 256 = none) :
    exec (.mload tile ka i32) s = .next (past (withMatOp (withMReg s tile ⟨some bank, modTag i32⟩) bank (modTag i32)
      (.load (.pad (padPair s ka.toNat).1 (padPair s ka.toNat).2)))) := by
  rw [exec_mload, execMload, runWord_issues hi]
  dsimp only [p0]
  rw [hpads, check_none, bind_ok, bindTile_queueMat hroom hbank, wordEnd_issues hi (by rfl)]

end

/-! ## MDRAIN -/

/-- With .release mk is unbound from the issue onward (R325). -/
theorem exec_mdrain_queues {s : State} {tile : BitVec 3} {ka : BitVec 7} {flags : BitVec 4} (hi : Issues (.mdrain tile ka flags) s)
    (hroom : s.core.matq.length < 16) (hbad : s.task.badTiles = []) {work : MatWork}
    (hw : work = .drain (vget s.task.epi (bitsOf flags.toNat 2 2) (Vector.replicate 16 0))
      (Vector.ofFn fun k => (aReg (readRegs s) (ka.toNat - 64 + k.val)).base) (flags.getLsbD 0) (flags.getLsbD 1)) :
    exec (.mdrain tile ka flags) s = .next (wrote (withMatOp s ((mRegOf s tile).bank.getD 0) (mRegOf s tile).tag work)
      (if flags.getLsbD 0 then { s.me.regs with m := vset s.me.regs.m tile.toNat MReg.unbound } else s.me.regs)) := by
  rw [exec_mdrain, execMdrain, runWord_issues hi]
  dsimp only
  rw [badTiles_contains_of_nil hbad, if_neg Bool.false_ne_true, check_none, bind_ok, ← hw, queueMat_room hroom, bind_ok]
  by_cases hrel : flags.getLsbD 0 = true
  · rw [if_pos hrel, if_pos hrel, wordEnd_issues hi (by rfl)]; rfl
  · rw [if_neg hrel, if_neg hrel, wordEnd_issues hi (by rfl)]; rfl

/-! ## EPLOAD -/

/-- A program's words in an epilogue slot of the task under issue. -/
def withProgram (s : State) (slot : Nat) (words : List Word32) : State :=
  { s with task := { s.task with epi := vset s.task.epi slot (Vector.ofFn fun k => words.getD k.val 0) } }

/-- A program that can be read is loaded where it passes its checks, and traps where it does not (R142, R327). -/
theorem exec_epload_reads {s : State} {tile : BitVec 3} {ka : BitVec 7} (hi : Issues (.epload tile ka) s)
    (hk : padTrap s.task (valueA s ka) 64 (electedLane s) = none) (he : emptyIn s.task (valueA s ka) 64 (electedLane s) = [])
    (hc : s.core.clearing = none) (hp : s.task.badPad = []) {words : List Word32}
    (hw : words = (List.range 16).map fun k => BitVec.ofNat 32 (ofBytesLE (s.task.pad.getBytes (valueA s ka + 4 * k) 4))) :
    exec (.epload tile ka) s =
      .next (if programOk words then past (withProgram s tile.toNat words) else wordTrap s (trapHere s 0x01 0)) := by
  rw [exec_epload, execEpload, runWord_issues hi]
  dsimp only [padNat, padRead]
  rw [hk, check_none, bind_ok, padReadWait_ready hc (by simpa using he), eccTrap_of_no_error hp, check_none, bind_ok, ← hw]
  cases programOk words with
  | true => exact congrArg Host.Outcome.next (wordEnd_issues hi (by rfl))
  | false => rfl

/-- Settles O47: each word that has nothing to wait for and nothing to trap on comes to `withMatOp`, after its binding or before its
release, and EPLOAD to its slot. -/
theorem matrixWords : Obligations.MatrixWords := by
  refine ⟨?_, ?_, fun s tile ka flags hi hroom hbad => exec_mdrain_queues hi hroom hbad rfl, ?_⟩
  · intro i s tile ka kb fmt step scale col hi hroom hpads hw
    rcases hw with ⟨rfl, rfl, rfl⟩ | ⟨rfl, hcol, halign, hin, rfl⟩
    · exact exec_mma_queues hroom hpads hi
    · exact exec_mmas_queues hroom hpads hi hcol halign hin
  · intro i s tile ka i32 bank work hi hroom hbank hw
    rcases hw with ⟨rfl, rfl⟩ | ⟨rfl, hpads, rfl⟩
    · exact exec_mzero_queues hroom hbank hi
    · exact exec_mload_queues hroom hbank hi hpads
  · intro s tile ka words hi hk he hc hp hw
    have hd := exec_epload_reads hi hk he hc hp hw
    exact ⟨fun hok => by rw [hd, if_pos hok]; rfl, fun hbad => by rw [hd, if_neg (by simp [hbad])]⟩

end Sys2Proof.Machine

end

section
/-! PROOF. The encoding, the checks before a word issues, and the step that runs a fetched word (R200, R204 to R218). -/

set_option Elab.async false

namespace Sys2Proof.Machine

open Sys2Proof

/-! ## Words and their instructions (R210 to R215) -/

/-- The round trip of every instruction, from the one lemma for each in Laws/PerInstr. -/
theorem decodeWord_encode (i : Instr) : Laws.Encoding.Statement i := by
  cases i with
  | nop => exact Laws.Encoding.nop
  | ret => exact Laws.Encoding.ret
  | matl => exact Laws.Encoding.matl
  | rjoin a b => exact Laws.Encoding.rjoin a b
  | join => exact Laws.Encoding.join
  | yield => exact Laws.Encoding.yield
  | exit => exact Laws.Encoding.exit
  | hret => exact Laws.Encoding.hret
  | time d => exact Laws.Encoding.time d
  | laneid d => exact Laws.Encoding.laneid d
  | idx d b => exact Laws.Encoding.idx d b
  | locq d a => exact Laws.Encoding.locq d a
  | trap b => exact Laws.Encoding.trap b
  | launch d a b => exact Laws.Encoding.launch d a b
  | xset d b => exact Laws.Encoding.xset d b
  | bra disp => exact Laws.Encoding.bra disp
  | call disp => exact Laws.Encoding.call disp
  | loop reg disp => exact Laws.Encoding.loop reg disp
  | brc cond reg disp => exact Laws.Encoding.brc cond reg disp
  | brv sense preg disp => exact Laws.Encoding.brv sense preg disp
  | brx a => exact Laws.Encoding.brx a
  | aadd d a b => exact Laws.Encoding.aadd d a b
  | asub d a b => exact Laws.Encoding.asub d a b
  | amul d a b => exact Laws.Encoding.amul d a b
  | ashl d a b => exact Laws.Encoding.ashl d a b
  | ashr d a b => exact Laws.Encoding.ashr d a b
  | aand d a b => exact Laws.Encoding.aand d a b
  | aor d a b => exact Laws.Encoding.aor d a b
  | axor d a b => exact Laws.Encoding.axor d a b
  | amin d a b => exact Laws.Encoding.amin d a b
  | amax d a b => exact Laws.Encoding.amax d a b
  | acmpEq d a b => exact Laws.Encoding.acmpEq d a b
  | acmpNe d a b => exact Laws.Encoding.acmpNe d a b
  | acmpLt d a b => exact Laws.Encoding.acmpLt d a b
  | acmpLe d a b => exact Laws.Encoding.acmpLe d a b
  | acmpLtu d a b => exact Laws.Encoding.acmpLtu d a b
  | acmpLeu d a b => exact Laws.Encoding.acmpLeu d a b
  | aaddi d a imm => exact Laws.Encoding.aaddi d a imm
  | amuli d a imm => exact Laws.Encoding.amuli d a imm
  | ashli d a imm => exact Laws.Encoding.ashli d a imm
  | ashri d a imm => exact Laws.Encoding.ashri d a imm
  | amovi d imm => exact Laws.Encoding.amovi d imm
  | aandi d a imm => exact Laws.Encoding.aandi d a imm
  | ald data base disp6 => exact Laws.Encoding.ald data base disp6
  | pand pd pa pb => exact Laws.Encoding.pand pd pa pb
  | por pd pa pb => exact Laws.Encoding.por pd pa pb
  | pxor pd pa pb => exact Laws.Encoding.pxor pd pa pb
  | pnot pd pa => exact Laws.Encoding.pnot pd pa
  | pcnt d pa => exact Laws.Encoding.pcnt d pa
  | pfirstA d pa => exact Laws.Encoding.pfirstA d pa
  | pfirstP pd pa => exact Laws.Encoding.pfirstP pd pa
  | ballot d a => exact Laws.Encoding.ballot d a
  | gets d b => exact Laws.Encoding.gets d b
  | sets a b => exact Laws.Encoding.sets a b
  | lread d a b => exact Laws.Encoding.lread d a b
  | lwrite d a b => exact Laws.Encoding.lwrite d a b
  | iadd d a b f => exact Laws.Encoding.iadd d a b f
  | isub d a b f => exact Laws.Encoding.isub d a b f
  | imul d a b f => exact Laws.Encoding.imul d a b f
  | imulh d a b f3 => exact Laws.Encoding.imulh d a b f3
  | imad d a b f => exact Laws.Encoding.imad d a b f
  | imin d a b f3 => exact Laws.Encoding.imin d a b f3
  | imax d a b f3 => exact Laws.Encoding.imax d a b f3
  | iabs d a f => exact Laws.Encoding.iabs d a f
  | icmp d a b f3 => exact Laws.Encoding.icmp d a b f3
  | sel d a b f3 => exact Laws.Encoding.sel d a b f3
  | and d a b => exact Laws.Encoding.and d a b
  | or d a b => exact Laws.Encoding.or d a b
  | xor d a b => exact Laws.Encoding.xor d a b
  | andn d a b => exact Laws.Encoding.andn d a b
  | shl d a b => exact Laws.Encoding.shl d a b
  | shr d a b => exact Laws.Encoding.shr d a b
  | sar d a b => exact Laws.Encoding.sar d a b
  | rotl d a b => exact Laws.Encoding.rotl d a b
  | popc d a => exact Laws.Encoding.popc d a
  | clz d a => exact Laws.Encoding.clz d a
  | brev d a => exact Laws.Encoding.brev d a
  | blut d a b => exact Laws.Encoding.blut d a b
  | bshuf d a b => exact Laws.Encoding.bshuf d a b
  | bcmpEq d a b => exact Laws.Encoding.bcmpEq d a b
  | bcmpLt d a b => exact Laws.Encoding.bcmpLt d a b
  | bcmpLtu d a b => exact Laws.Encoding.bcmpLtu d a b
  | baddsI8 d a b => exact Laws.Encoding.baddsI8 d a b
  | baddsN8 d a b => exact Laws.Encoding.baddsN8 d a b
  | lshc d a b f => exact Laws.Encoding.lshc d a b f
  | xperm d a b => exact Laws.Encoding.xperm d a b
  | vscan d a f => exact Laws.Encoding.vscan d a f
  | vred d a f => exact Laws.Encoding.vred d a f
  | fadd d a b f => exact Laws.Encoding.fadd d a b f
  | fsub d a b f => exact Laws.Encoding.fsub d a b f
  | fmul d a b f => exact Laws.Encoding.fmul d a b f
  | fma d a b f => exact Laws.Encoding.fma d a b f
  | fmin d a b => exact Laws.Encoding.fmin d a b
  | fmax d a b => exact Laws.Encoding.fmax d a b
  | fcmp d a b => exact Laws.Encoding.fcmp d a b
  | fdiv d a b f => exact Laws.Encoding.fdiv d a b f
  | fsqrt d a f => exact Laws.Encoding.fsqrt d a f
  | frcp d a f => exact Laws.Encoding.frcp d a f
  | frsq d a f => exact Laws.Encoding.frsq d a f
  | fexp2 d a f => exact Laws.Encoding.fexp2 d a f
  | flog2 d a f => exact Laws.Encoding.flog2 d a f
  | fsin d a f => exact Laws.Encoding.fsin d a f
  | fcos d a f => exact Laws.Encoding.fcos d a f
  | fclass d a => exact Laws.Encoding.fclass d a
  | cvt d a dt f => exact Laws.Encoding.cvt d a dt f
  | xsum data base index scale disp6 => exact Laws.Encoding.xsum data base index scale disp6
  | sumrd data base index scale disp6 => exact Laws.Encoding.sumrd data base index scale disp6
  | ldg data base index scale disp6 => exact Laws.Encoding.ldg data base index scale disp6
  | ldgF data base index scale disp6 => exact Laws.Encoding.ldgF data base index scale disp6
  | stg data base index scale disp6 => exact Laws.Encoding.stg data base index scale disp6
  | ldk data base scale disp6 => exact Laws.Encoding.ldk data base scale disp6
  | pref base index scale disp6 => exact Laws.Encoding.pref base index scale disp6
  | ldp data base index scale disp6 => exact Laws.Encoding.ldp data base index scale disp6
  | stp data base index scale disp6 => exact Laws.Encoding.stp data base index scale disp6
  | atomg d areg b f => exact Laws.Encoding.atomg d areg b f
  | atomp d areg b f => exact Laws.Encoding.atomp d areg b f
  | atomr d areg b f => exact Laws.Encoding.atomr d areg b f
  | cpy d a b ch => exact Laws.Encoding.cpy d a b ch
  | cpyi d a b ch => exact Laws.Encoding.cpyi d a b ch
  | cseal => exact Laws.Encoding.cseal
  | cwait b => exact Laws.Encoding.cwait b
  | pempty a b => exact Laws.Encoding.pempty a b
  | fence => exact Laws.Encoding.fence
  | barinit a b => exact Laws.Encoding.barinit a b
  | bararr d a => exact Laws.Encoding.bararr d a
  | barwait a b => exact Laws.Encoding.barwait a b
  | barinv a => exact Laws.Encoding.barinv a
  | semw d a b => exact Laws.Encoding.semw d a b
  | sems a b => exact Laws.Encoding.sems a b
  | tlbinv a b => exact Laws.Encoding.tlbinv a b
  | sendq d a b => exact Laws.Encoding.sendq d a b
  | recvq d a => exact Laws.Encoding.recvq d a
  | padopen win rights a b => exact Laws.Encoding.padopen win rights a b
  | poolset d src dst b f3 => exact Laws.Encoding.poolset d src dst b f3
  | poolq d src dst => exact Laws.Encoding.poolq d src dst
  | mma tile ka kb fmt step => exact Laws.Encoding.mma tile ka kb fmt step
  | mmas tile ka kb fmt step => exact Laws.Encoding.mmas tile ka kb fmt step
  | mzero tile i32 => exact Laws.Encoding.mzero tile i32
  | mload tile ka i32 => exact Laws.Encoding.mload tile ka i32
  | mdrain tile ka flags => exact Laws.Encoding.mdrain tile ka flags
  | mseal => exact Laws.Encoding.mseal
  | mwait flags => exact Laws.Encoding.mwait flags
  | epload tile ka => exact Laws.Encoding.epload tile ka
  | rset d a b ch => exact Laws.Encoding.rset d a b ch
  | rast d a bw bp => exact Laws.Encoding.rast d a bw bp
  | travset d bpair => exact Laws.Encoding.travset d bpair
  | travRay d a bpair bp => exact Laws.Encoding.travRay d a bpair bp
  | travBox d a bpair bp => exact Laws.Encoding.travBox d a bpair bp
  | fbload dch a b => exact Laws.Encoding.fbload dch a b
  | fbstore dch a b => exact Laws.Encoding.fbstore dch a b
  | fbdone a b => exact Laws.Encoding.fbdone a b
  | vtest pd pa b f => exact Laws.Encoding.vtest pd pa b f
  | fbw d pa b f => exact Laws.Encoding.fbw d pa b f
  | vsplit wd wr pa => exact Laws.Encoding.vsplit wd wr pa
  | vends d pa => exact Laws.Encoding.vends d pa
  | vmask pd pa b => exact Laws.Encoding.vmask pd pa b
  | vagree gwd gws gt gva gvb => exact Laws.Encoding.vagree gwd gws gt gva gvb
  | vhalve wd wr pa => exact Laws.Encoding.vhalve wd wr pa
  | xpfx kind payload => exact Laws.Encoding.xpfx kind payload
  | parkedTractServe | pendingPieceStart | rjoinWaitExpire | versionCommit | standSpill | spillReturn | clearingComplete
  | waitLimitExpire | semwWaitLimit | yieldHoldExpire | bankPortUrgent | homeLoad | homeStore | homeAtomic | copyStart
  | copyComplete | matrixOpExecute | drainExecute | inboxMessageArrive | atomrExecute | preemptRequest | preemptDeferTimeout
  | contextSave | contextRestore | selfTestComplete | pageWalk | trackerEpochEnd | swapLineMove | regload | regfree | qset
  | qstop | semset | hostSlotWrite | launchDequeue | launchSemaphoreWait | piecePlacement | completionRecordWrite
  | dieResetOrderly | dieResetUnplanned | dieResetReturn | moduleReset | bringupRom | bringupFw | bringupConfig | bringupMemory
  | bringupDies | bringupHost | configRecordLoad | rootRegisterSet | capabilityRegisterSet | attestationRequest | hostMemWrite
  | hostMemRead | backInvalidateResponse | droopReport | clockStepRise | sagCounterClear | trackerControlWrite | registerWrite
  | pendingHorizonGuardReached | powerLoss | hostLineAccess =>
    intro c w _ h
    exact absurd h (by simp [encode])

/-- Settles O1, by the round trip of each constructor. -/
theorem decodeOfEncode : Obligations.DecodeOfEncode := decodeWord_encode

/-- The round trip for a word without its chain bit. -/
theorem decodeWord_of_encode {i : Instr} {w : Word32} (hi : i.WellFormed) (he : encode 0#1 i = some w) : decodeWord w = .ok i :=
  decodeWord_encode i 0#1 w hi he

/-- Settles O2: each word is the encoding of its instruction, but for the last, whose major opcode 0x0F has none. -/
theorem wordsDecode : Obligations.WordsDecode :=
  ⟨decodeWord_of_encode rfl rfl, decodeWord_of_encode rfl rfl, decodeWord_of_encode rfl rfl, decodeWord_of_encode rfl rfl,
    decodeWord_of_encode rfl rfl, decodeWord_of_encode rfl rfl, decodeWord_of_encode rfl rfl, decodeWord_of_encode rfl rfl,
    decodeWord_of_encode rfl rfl, rfl⟩

/-! ## The issue checks (R217, R218) -/

/-- An outcome that begins with the issue checks of a word (R218). -/
def ChecksFirst (i : Instr) (s : State) (o : Host.Outcome State Fault Refusal) : Prop := ∃ go, o = runChecked i s go

theorem runWord_checksFirst (i : Instr) (s : State) (body : State → Res State) : ChecksFirst i s (runWord i s body) := ⟨_, rfl⟩

theorem runFlow_checksFirst (i : Instr) (s : State) (body : State → State) : ChecksFirst i s (runFlow i s body) := ⟨_, rfl⟩

/-- The meaning of every word of the table, but for XPFX, begins with the issue checks. -/
theorem exec_checksFirst {i : Instr} {c : BitVec 1} {w : Word32} (he : encode c i = some w) (hx : ∀ k p, i ≠ .xpfx k p) (s : State) :
    ChecksFirst i s (exec i s) := by
  cases i with
  | nop => simp only [exec, execNop, runWord_checksFirst]
  | ret => simp only [exec, execRet, runWord_checksFirst]
  | matl => simp only [exec, execMatl, runWord_checksFirst]
  | rjoin => simp only [exec, execRjoin, runFlow_checksFirst]
  | join => simp only [exec, execJoin, runFlow_checksFirst]
  | yield => simp only [exec, execYield, runWord_checksFirst]
  | exit => simp only [exec, execExit, runFlow_checksFirst]
  | hret => simp only [exec, execHret, runFlow_checksFirst]
  | time => simp only [exec, execTime, runWord_checksFirst]
  | laneid => simp only [exec, execLaneid, runWord_checksFirst]
  | idx => simp only [exec, execIdx, runWord_checksFirst]
  | locq => simp only [exec, execLocq, runWord_checksFirst]
  | trap => simp only [exec, execTrap, runWord_checksFirst]
  | launch => simp only [exec, execLaunch, runWord_checksFirst]
  | xset => simp only [exec, execXset, runWord_checksFirst]
  | bra => simp only [exec, execBra, runWord_checksFirst]
  | call => simp only [exec, execCall, runWord_checksFirst]
  | loop => simp only [exec, execLoop, runWord_checksFirst]
  | brc => simp only [exec, execBrc, runFlow_checksFirst]
  | brv => simp only [exec, execBrv, runFlow_checksFirst]
  | brx => simp only [exec, execBrx, runFlow_checksFirst]
  | aadd => simp only [exec, execAadd, affineWord, runFlow_checksFirst]
  | asub => simp only [exec, execAsub, affineWord, runFlow_checksFirst]
  | amul => simp only [exec, execAmul, affineWord, runFlow_checksFirst]
  | ashl => simp only [exec, execAshl, affineWord, runFlow_checksFirst]
  | ashr => simp only [exec, execAshr, affineWord, runFlow_checksFirst]
  | aand => simp only [exec, execAand, affineWord, runFlow_checksFirst]
  | aor => simp only [exec, execAor, affineWord, runFlow_checksFirst]
  | axor => simp only [exec, execAxor, affineWord, runFlow_checksFirst]
  | amin => simp only [exec, execAmin, affineWord, runFlow_checksFirst]
  | amax => simp only [exec, execAmax, affineWord, runFlow_checksFirst]
  | acmpEq => simp only [exec, execAcmpEq, affineWord, runFlow_checksFirst]
  | acmpNe => simp only [exec, execAcmpNe, affineWord, runFlow_checksFirst]
  | acmpLt => simp only [exec, execAcmpLt, affineWord, runFlow_checksFirst]
  | acmpLe => simp only [exec, execAcmpLe, affineWord, runFlow_checksFirst]
  | acmpLtu => simp only [exec, execAcmpLtu, affineWord, runFlow_checksFirst]
  | acmpLeu => simp only [exec, execAcmpLeu, affineWord, runFlow_checksFirst]
  | aaddi => simp only [exec, execAaddi, affineWord, runFlow_checksFirst]
  | amuli => simp only [exec, execAmuli, affineWord, runFlow_checksFirst]
  | ashli => simp only [exec, execAshli, affineWord, runFlow_checksFirst]
  | ashri => simp only [exec, execAshri, affineWord, runFlow_checksFirst]
  | amovi => simp only [exec, execAmovi, affineWord, runFlow_checksFirst]
  | aandi => simp only [exec, execAandi, affineWord, runFlow_checksFirst]
  | ald => simp only [exec, execAld, runWord_checksFirst]
  | pand => simp only [exec, execPand, predWord, runWord_checksFirst]
  | por => simp only [exec, execPor, predWord, runWord_checksFirst]
  | pxor => simp only [exec, execPxor, predWord, runWord_checksFirst]
  | pnot => simp only [exec, execPnot, predWord, runWord_checksFirst]
  | pcnt => simp only [exec, execPcnt, runWord_checksFirst]
  | pfirstA => simp only [exec, execPfirstA, runWord_checksFirst]
  | pfirstP => simp only [exec, execPfirstP, runWord_checksFirst]
  | ballot => simp only [exec, execBallot, runWord_checksFirst]
  | gets => simp only [exec, execGets, runWord_checksFirst]
  | sets => simp only [exec, execSets, runWord_checksFirst]
  | lread => simp only [exec, execLread, runWord_checksFirst]
  | lwrite => simp only [exec, execLwrite, runWord_checksFirst]
  | iadd => simp only [exec, execIadd, sumWord, runWord_checksFirst]
  | isub => simp only [exec, execIsub, sumWord, runWord_checksFirst]
  | imul => simp only [exec, execImul, intWord, laneWord, runWord_checksFirst]
  | imulh => simp only [exec, execImulh, intWord, laneWord, runWord_checksFirst]
  | imad => simp only [exec, execImad, laneWord, runWord_checksFirst]
  | imin => simp only [exec, execImin, intWord, laneWord, runWord_checksFirst]
  | imax => simp only [exec, execImax, intWord, laneWord, runWord_checksFirst]
  | iabs => simp only [exec, execIabs, laneWord, runWord_checksFirst]
  | icmp => simp only [exec, execIcmp, runWord_checksFirst]
  | sel => simp only [exec, execSel, runWord_checksFirst]
  | and => simp only [exec, execAnd, bitWord, laneWord, runWord_checksFirst]
  | or => simp only [exec, execOr, bitWord, laneWord, runWord_checksFirst]
  | xor => simp only [exec, execXor, bitWord, laneWord, runWord_checksFirst]
  | andn => simp only [exec, execAndn, bitWord, laneWord, runWord_checksFirst]
  | shl => simp only [exec, execShl, bitWord, laneWord, runWord_checksFirst]
  | shr => simp only [exec, execShr, bitWord, laneWord, runWord_checksFirst]
  | sar => simp only [exec, execSar, bitWord, laneWord, runWord_checksFirst]
  | rotl => simp only [exec, execRotl, bitWord, laneWord, runWord_checksFirst]
  | popc => simp only [exec, execPopc, laneWord, runWord_checksFirst]
  | clz => simp only [exec, execClz, laneWord, runWord_checksFirst]
  | brev => simp only [exec, execBrev, laneWord, runWord_checksFirst]
  | blut => simp only [exec, execBlut, laneWord, runWord_checksFirst]
  | bshuf => simp only [exec, execBshuf, laneWord, runWord_checksFirst]
  | bcmpEq => simp only [exec, execBcmpEq, byteWord, laneWord, runWord_checksFirst]
  | bcmpLt => simp only [exec, execBcmpLt, byteWord, laneWord, runWord_checksFirst]
  | bcmpLtu => simp only [exec, execBcmpLtu, byteWord, laneWord, runWord_checksFirst]
  | baddsI8 => simp only [exec, execBaddsI8, byteWord, laneWord, runWord_checksFirst]
  | baddsN8 => simp only [exec, execBaddsN8, byteWord, laneWord, runWord_checksFirst]
  | lshc => simp only [exec, execLshc, laneWord, runWord_checksFirst]
  | xperm => simp only [exec, execXperm, laneWord, runWord_checksFirst]
  | vscan => simp only [exec, execVscan, runFlow_checksFirst]
  | vred => simp only [exec, execVred, runFlow_checksFirst]
  | fadd => simp only [exec, execFadd, floatWord, runFlow_checksFirst]
  | fsub => simp only [exec, execFsub, floatWord, runFlow_checksFirst]
  | fmul => simp only [exec, execFmul, floatWord, runFlow_checksFirst]
  | fma => simp only [exec, execFma, floatWord, runFlow_checksFirst]
  | fmin => simp only [exec, execFmin, floatWord, runFlow_checksFirst]
  | fmax => simp only [exec, execFmax, floatWord, runFlow_checksFirst]
  | fcmp => simp only [exec, execFcmp, runFlow_checksFirst]
  | fdiv => simp only [exec, execFdiv, floatWord, runFlow_checksFirst]
  | fsqrt => simp only [exec, execFsqrt, unitWord, floatWord, runFlow_checksFirst]
  | frcp => simp only [exec, execFrcp, unitWord, floatWord, runFlow_checksFirst]
  | frsq => simp only [exec, execFrsq, unitWord, floatWord, runFlow_checksFirst]
  | fexp2 => simp only [exec, execFexp2, unitWord, floatWord, runFlow_checksFirst]
  | flog2 => simp only [exec, execFlog2, unitWord, floatWord, runFlow_checksFirst]
  | fsin => simp only [exec, execFsin, unitWord, floatWord, runFlow_checksFirst]
  | fcos => simp only [exec, execFcos, unitWord, floatWord, runFlow_checksFirst]
  | fclass => simp only [exec, execFclass, runWord_checksFirst]
  | cvt => simp only [exec, execCvt, runFlow_checksFirst]
  | xsum => simp only [exec, execXsum, runWord_checksFirst]
  | sumrd => simp only [exec, execSumrd, runWord_checksFirst]
  | ldg => simp only [exec, execLdg, loadWord, runWord_checksFirst]
  | ldgF => simp only [exec, execLdgF, loadWord, runWord_checksFirst]
  | stg => simp only [exec, execStg, runWord_checksFirst]
  | ldk => simp only [exec, execLdk, runWord_checksFirst]
  | pref => simp only [exec, execPref, runWord_checksFirst]
  | ldp => simp only [exec, execLdp, runWord_checksFirst]
  | stp => simp only [exec, execStp, runWord_checksFirst]
  | atomg => simp only [exec, execAtomg, runFlow_checksFirst]
  | atomp => simp only [exec, execAtomp, runWord_checksFirst]
  | atomr => simp only [exec, execAtomr, runFlow_checksFirst]
  | cpy => simp only [exec, execCpy, copyWord, runFlow_checksFirst]
  | cpyi => simp only [exec, execCpyi, copyWord, runFlow_checksFirst]
  | cseal => simp only [exec, execCseal, runWord_checksFirst]
  | cwait => simp only [exec, execCwait, runFlow_checksFirst]
  | pempty => simp only [exec, execPempty, runWord_checksFirst]
  | fence => simp only [exec, execFence, runWord_checksFirst]
  | barinit => simp only [exec, execBarinit, runWord_checksFirst]
  | bararr => simp only [exec, execBararr, runWord_checksFirst]
  | barwait => simp only [exec, execBarwait, runWord_checksFirst]
  | barinv => simp only [exec, execBarinv, runWord_checksFirst]
  | semw => simp only [exec, execSemw, runFlow_checksFirst]
  | sems => simp only [exec, execSems, runWord_checksFirst]
  | tlbinv => simp only [exec, execTlbinv, runFlow_checksFirst]
  | sendq => simp only [exec, execSendq, runWord_checksFirst]
  | recvq => simp only [exec, execRecvq, runFlow_checksFirst]
  | padopen => simp only [exec, execPadopen, runWord_checksFirst]
  | poolset => simp only [exec, execPoolset, runFlow_checksFirst]
  | poolq => simp only [exec, execPoolq, runWord_checksFirst]
  | mma => simp only [exec, execMma, runWord_checksFirst]
  | mmas => simp only [exec, execMmas, runWord_checksFirst]
  | mzero => simp only [exec, execMzero, runWord_checksFirst]
  | mload => simp only [exec, execMload, runWord_checksFirst]
  | mdrain => simp only [exec, execMdrain, runWord_checksFirst]
  | mseal => simp only [exec, execMseal, runWord_checksFirst]
  | mwait => simp only [exec, execMwait, runFlow_checksFirst]
  | epload => simp only [exec, execEpload, runWord_checksFirst]
  | rset => simp only [exec, execRset, runWord_checksFirst]
  | rast => simp only [exec, execRast, runWord_checksFirst]
  | travset => simp only [exec, execTravset, runWord_checksFirst]
  | travRay => simp only [exec, execTravRay, travWord, runFlow_checksFirst]
  | travBox => simp only [exec, execTravBox, travWord, runFlow_checksFirst]
  | fbload => simp only [exec, execFbload, runWord_checksFirst]
  | fbstore => simp only [exec, execFbstore, runWord_checksFirst]
  | fbdone => simp only [exec, execFbdone, runWord_checksFirst]
  | vtest => simp only [exec, execVtest, runFlow_checksFirst]
  | fbw => simp only [exec, execFbw, runFlow_checksFirst]
  | vsplit => simp only [exec, execVsplit, toolPair, runWord_checksFirst]
  | vends => simp only [exec, execVends, runWord_checksFirst]
  | vmask => simp only [exec, execVmask, toolWord, runWord_checksFirst]
  | vagree => simp only [exec, execVagree, toolWord, runWord_checksFirst]
  | vhalve => simp only [exec, execVhalve, toolPair, runWord_checksFirst]
  | xpfx k p => exact absurd rfl (hx k p)
  | parkedTractServe | pendingPieceStart | rjoinWaitExpire | versionCommit | standSpill | spillReturn | clearingComplete
  | waitLimitExpire | semwWaitLimit | yieldHoldExpire | bankPortUrgent | homeLoad | homeStore | homeAtomic | copyStart
  | copyComplete | matrixOpExecute | drainExecute | inboxMessageArrive | atomrExecute | preemptRequest | preemptDeferTimeout
  | contextSave | contextRestore | selfTestComplete | pageWalk | trackerEpochEnd | swapLineMove | regload | regfree | qset
  | qstop | semset | hostSlotWrite | launchDequeue | launchSemaphoreWait | piecePlacement | completionRecordWrite
  | dieResetOrderly | dieResetUnplanned | dieResetReturn | moduleReset | bringupRom | bringupFw | bringupConfig | bringupMemory
  | bringupDies | bringupHost | configRecordLoad | rootRegisterSet | capabilityRegisterSet | attestationRequest | hostMemWrite
  | hostMemRead | backInvalidateResponse | droopReport | clockStepRise | sagCounterClear | trackerControlWrite | registerWrite
  | pendingHorizonGuardReached | powerLoss | hostLineAccess =>
    exact absurd he (by simp [encode])

section
variable {i : Instr} {s : State}

/-- A word that is not privileged, or stands in a handler, passes the check of privilege. -/
theorem privileged_in_handler (h : privileged i = true → s.me.frame.isSome = true) : (privileged i && s.me.frame.isNone) = false := by
  cases hp : privileged i with
  | false => rfl
  | true => rw [Bool.true_and, Option.isNone_eq_false_iff, h hp]

/-- The encoding check comes first. -/
theorem issueTrap_of_encoding (h : encodingOk i s.me.path.lead s.task.fsize s.task.views (readRegs s).xc = false) :
    issueTrap i s = some (trapHere s 0x01 0) := by simp only [issueTrap, h, Bool.not_false, if_true]

variable (henc : encodingOk i s.me.path.lead s.task.fsize s.task.views (readRegs s).xc = true)
include henc

/-- In a tract that materialises for the word no other check is made (R206). -/
theorem issueTrap_of_materialises (h : materialises s i = true) : issueTrap i s = none := by
  simp only [issueTrap, henc, h, Bool.not_true, Bool.false_eq_true, if_false, if_true]

variable (hmat : materialises s i = false)
include hmat

/-- Privilege comes next. -/
theorem issueTrap_of_privileged (hp : privileged i = true) (hf : s.me.frame = none) : issueTrap i s = some (trapHere s 0x0A 17) := by
  simp only [issueTrap, henc, hmat, hp, hf, Option.isNone_none, Bool.and_true, Bool.not_true, Bool.false_eq_true, if_false, if_true]

variable (hpriv : privileged i = true → s.me.frame.isSome = true)
include hpriv

/-- Then the operand tags. -/
theorem issueTrap_of_tags (ht : tagsOk i s.me.path.lead s.me (readRegs s) = false) : issueTrap i s = some (tagTrap i s) := by
  have hp := privileged_in_handler hpriv
  simp only [issueTrap, henc, hmat, hp, ht, Bool.not_true, Bool.not_false, Bool.false_eq_true, if_false, if_true]

/-- Then the uniform operands. -/
theorem issueTrap_of_uniform (ht : tagsOk i s.me.path.lead s.me (readRegs s) = true)
    (hu : uniformOk i s.me.path.lead (readRegs s) = false) : issueTrap i s = some (trapHere s 0x04 0) := by
  have hp := privileged_in_handler hpriv
  simp only [issueTrap, henc, hmat, hp, ht, hu, Bool.not_true, Bool.not_false, Bool.false_eq_true, if_false, if_true]

end

/-- A word whose tract materialises for it does that and nothing else. -/
theorem runChecked_materialises {i : Instr} {s : State}
    (henc : encodingOk i s.me.path.lead s.task.fsize s.task.views (readRegs s).xc = true) (hmat : materialises s i = true)
    (go : State → State) : runChecked i s go = .next (toStands s) := by
  simp only [runChecked, issueTrap_of_materialises henc hmat, hmat, if_true]

/-- The privileged words (R217): TLBINV, LREAD, LWRITE, HRET, and SETS to special registers 9, 10 and 11. Each is a word of the table. -/
theorem privileged_words {i : Instr} (h : (∃ a b, i = .tlbinv a b) ∨ (∃ d a b, i = .lread d a b) ∨ (∃ d a b, i = .lwrite d a b)
    ∨ i = .hret ∨ (∃ a b, i = .sets a b ∧ (b = 9#7 ∨ b = 10#7 ∨ b = 11#7))) :
    privileged i = true ∧ (∃ w, encode 0#1 i = some w) ∧ ∀ k p, i ≠ .xpfx k p := by
  obtain ⟨a, b, rfl⟩ | ⟨d, a, b, rfl⟩ | ⟨d, a, b, rfl⟩ | rfl | ⟨a, b, rfl, hb⟩ := h
  · exact ⟨rfl, ⟨_, rfl⟩, nofun⟩
  · exact ⟨rfl, ⟨_, rfl⟩, nofun⟩
  · exact ⟨rfl, ⟨_, rfl⟩, nofun⟩
  · exact ⟨rfl, ⟨_, rfl⟩, nofun⟩
  · refine ⟨?_, ⟨_, rfl⟩, nofun⟩
    rcases hb with rfl | rfl | rfl <;> rfl

/-- Settles O7: each check's trap by the equation of `issueTrap` for it, and every word of the table begins with `issueTrap`. -/
theorem issueChecks : Obligations.IssueChecks := by
  refine ⟨fun i c w s he hx => ⟨fun henc => exec_issueTrap he hx (issueTrap_of_encoding henc), fun henc hmat => ?_⟩,
    fun i s hi henc hmat hf => ?_, fun i c w s he hx henc hpriv hmat => ⟨fun ht => ?_, fun ht hu => ?_⟩⟩
  · obtain ⟨go, hgo⟩ := exec_checksFirst he hx s
    rw [hgo, runChecked_materialises henc hmat]
    exact ⟨fun t ht => by rw [toStands, ht], fun v hv => by rw [toStands, hv]⟩
  · obtain ⟨hp, ⟨w, he⟩, hx⟩ := privileged_words hi
    exact exec_issueTrap he hx (issueTrap_of_privileged henc hmat hp hf)
  · rw [exec_issueTrap he hx (issueTrap_of_tags henc hmat hpriv ht)]
    exact ⟨fun hl => by simp only [tagTrap, hl], fun lane hl => by simp only [tagTrap, hl]⟩
  · exact exec_issueTrap he hx (issueTrap_of_uniform henc hmat hpriv ht hu)

/-! ## The step that runs a fetched word (R200, R204 to R206) -/

/-- A path's turn runs the words of its chain. -/
theorem step_issue {s u : State} {ctx path : Nat} {rest : List Turn} (hp : s.power = true) (ha : s.agenda = .issue ctx path :: rest)
    (hu : selectPath (tick { s with agenda := rest }) (readyPath (tick { s with agenda := rest })) ctx path = some u) :
    step s = runWords 3 u := by
  rw [step, if_pos hp, ha]
  simp only [runTurn, runPath, hu, chainMax]

/-- A word of a chain is the one at its slot of the packet as it was fetched (R209). -/
theorem chainWord_words {s : State} {w : Word32 × Word32 × Word32} (hw : s.me.path.words = some w) (packet : BitVec 32) (slot : Nat) :
    chainWord s packet slot = .ok (s, packetWord w slot) := by rw [chainWord, hw]

/-- Where the path keeps no packet, it is fetched now, and kept. -/
theorem chainWord_fetch {s u : State} {packet : BitVec 32} {w : Word32 × Word32 × Word32} (hw : s.me.path.words = none)
    (hf : fetchPacket s packet = .ok (u, w)) (slot : Nat) :
    chainWord s packet slot = .ok (mapPath u fun p => { p with words := some w }, packetWord w slot) := by
  simp only [chainWord, hw, hf]

/-- Fetching a word of the chain keeps the trap that waits and the registers of a first issue. -/
theorem chainWord_keeps {s v : State} {packet : BitVec 32} {slot : Nat} {x : Word32} (h : chainWord s packet slot = .ok (v, x)) :
    v.me.path.first = s.me.path.first ∧ v.me.path.pend = s.me.path.pend := by
  unfold chainWord at h
  split at h
  · cases h; exact ⟨rfl, rfl⟩
  · split at h
    · cases h
    · rename_i u w hf
      cases h
      have hme : u.me = s.me := (fetchPacket_keeps hf).me
      exact ⟨congrArg (·.path.first) hme, congrArg (·.path.pend) hme⟩

/-- A word whose chain has no trap is not put off. -/
theorem putOff_of_no_trap {s : State} (h : s.me.path.pend = none) (rest : List Nat) : putOff s rest = none := by
  rw [putOff, h]; rfl

/-- The word at the head of a chain that neither waits nor is put off is next. -/
theorem issueHead_word {s v : State} {packet : BitVec 32} {slot : Nat} {rest : List Nat} {w : Word32} {i : Instr}
    (hc : chainWord s packet slot = .ok (v, w)) (hd : decodeWord w = .ok i)
    (hp : transfers i = true → divides i (withKept i v) = true → (withKept i v).me.path.pend = none)
    (hh : heldBack (withKept i v) i = none) : issueHead s packet slot rest = .word i (withKept i v) := by
  have hput : (if transfers i && divides i (withKept i v) then putOff (withKept i v) rest else none) = none := by
    split
    · rename_i h
      rw [Bool.and_eq_true] at h
      exact putOff_of_no_trap (hp h.1 h.2) rest
    · rfl
  simp only [issueHead, hc, hd, hput, hh]

/-- A transfer that is issued again reads the registers it would have read at first; any other word those of its chain. -/
theorem withKept_some {v : State} {r : Regs} (h : v.me.path.first = some r) (i : Instr) :
    withKept i v = if transfers i then { v with me := { v.me with path := { v.me.path with snap := some r } } } else v := by
  simp only [withKept, h, Option.isSome_some, Bool.and_true, mapPath]

theorem withKept_none {v : State} (h : v.me.path.first = none) (i : Instr) : withKept i v = v := by
  simp only [withKept, h, Option.isSome_none, Bool.and_false, Bool.false_eq_true, if_false]

theorem withKept_pend (i : Instr) (v : State) : (withKept i v).me.path.pend = v.me.path.pend := by
  unfold withKept; split <;> rfl

/-- The word that is next has its instruction's effect, and the chain goes on behind it or not. -/
theorem runWords_word {s u t : State} {i : Instr} (hw : prepare s = .word i u) (he : exec i u = .next t) (n : Nat) :
    runWords (n + 1) s = if goesOn u t then runWords n t else .next t := by
  simp only [runWords, hw, he]

/-- The last word of a chain is the step's last. -/
theorem runWords_last {s u : State} {i : Instr} {packet : BitVec 32} {slot : Nat} (hw : prepare s = .word i u)
    (hr : u.me.path.run = some (packet, [slot])) (n : Nat) : runWords (n + 1) s = exec i u := by
  simp only [runWords, hw]
  cases exec i u with
  | next t => simp [goesOn, hr]
  | fault r => rfl
  | refused r => rfl

/-! ### A chain of one word -/

/-- The one word of a chain without leading words. -/
abbrev loneOf (slot : Nat) (i : Instr) : ChainWord := ⟨slot, [], Lead.none, none, some i⟩

section
variable {w : Word32 × Word32 × Word32} {slot : Nat} {i : Instr}

/-- A word without its chain bit is a chain alone (R205). -/
theorem chainFrom_lone (hs : slot < 3) (hd : decodeWord (packetWord w slot) = .ok i) (hx : ∀ k p, i ≠ .xpfx k p)
    (hc : chainBit (packetWord w slot) = false) : chainFrom w slot = [loneOf slot i] := by
  obtain ⟨n, hn⟩ : ∃ n, 3 - slot = n + 1 := ⟨2 - slot, by omega⟩
  rw [chainFrom, hn]
  simp only [chainWords, hd, hc, Bool.false_and, Bool.false_eq_true, if_false]

theorem activeWords_lone : activeWords [loneOf slot i] = [loneOf slot i] := by
  by_cases h : i = .nop <;> simp [activeWords, h]

theorem loneWord_lone (hc : chainBit (packetWord w slot) = false) : loneWord w [loneOf slot i] = true := by
  have hend : (slot == 2 && chainBit (packetWord w 2)) = false := by
    by_cases h : slot = 2
    · subst h; rw [hc, Bool.and_false]
    · rw [beq_false_of_ne h, Bool.false_and]
  simp [loneWord, activeWords_lone, chainEnd, hend]

/-- What its encoding breaks is left to its meaning (R217). -/
theorem placeChain_lone (s : State) (packet : BitVec 32) (hc : chainBit (packetWord w slot) = false)
    (hp : placementFault w slot [loneOf slot i] = none) : placeChain s w packet slot [loneOf slot i] = none := by
  rw [placeChain, hp]
  cases leastBy (fun k => k) ([loneOf slot i].filterMap (encodingFault s w)) with
  | none => rfl
  | some k => exact if_pos (loneWord_lone hc)

theorem beginChain_run (s : State) (packet : BitVec 32) :
    (beginChain s packet w [loneOf slot i]).me.path.run = some (packet, [slot]) := by
  simp only [beginChain, activeWords_lone]; rfl

/-- The path moves past the chain as it issues (R205). -/
theorem beginChain_past (s : State) (packet : BitVec 32) :
    (beginChain s packet w [loneOf slot i]).me.path.slot = (pastChain s.me.path packet slot).slot
    ∧ (beginChain s packet w [loneOf slot i]).me.path.pc = (pastChain s.me.path packet slot).pc := ⟨rfl, rfl⟩

/-- A chain of one word that nothing holds back issues it. -/
theorem issueChain_lone {s : State} (packet : BitVec 32) (hd : decodeWord (packetWord w slot) = .ok i) (hp : s.me.path.pend = none)
    (hh : heldBack (beginChain s packet w [loneOf slot i]) i = none) :
    issueChain s packet w [loneOf slot i] = .word i (beginChain s packet w [loneOf slot i]) := by
  have hk : withKept i (beginChain s packet w [loneOf slot i]) = beginChain s packet w [loneOf slot i] := withKept_none rfl i
  have hpend : (beginChain s packet w [loneOf slot i]).me.path.pend = none := by
    simp only [beginChain, mapPath, pastChain]; split <;> exact hp
  have h := issueHead_word (rest := []) (chainWord_words (s := beginChain s packet w [loneOf slot i]) rfl packet slot) hd
    (by rw [hk]; exact fun _ _ => hpend) (by rw [hk]; exact hh)
  simp only [issueChain, beginChain_run, h, hk]

/-- Between chains a path begins the next one. -/
theorem prepare_lone {s v : State} (hr : s.me.path.run = none) (hs : s.me.path.slot = slot) (hlt : slot < 3)
    (hp : v.me.path.pend = none) (hpk : packetNow s = .ok (v, w)) (hd : decodeWord (packetWord w slot) = .ok i)
    (hx : ∀ k p, i ≠ .xpfx k p) (hc : chainBit (packetWord w slot) = false) (hf : placementFault w slot [loneOf slot i] = none)
    (hh : heldBack (beginChain v s.me.path.pc w [loneOf slot i]) i = none) :
    prepare s = .word i (beginChain v s.me.path.pc w [loneOf slot i]) := by
  subst hs
  simp only [prepare, hr, startChain, hpk, chainFrom_lone hlt hd hx hc, placeChain_lone v _ hc hf, loneWord_lone hc, Bool.true_or,
    if_true, issueChain_lone _ hd hp hh]

end

/-- Settles O3: a turn is `runWords`; a word in it by `issueHead_word`; a chain of one word by `prepare_lone`. -/
theorem stepRunsFetchedWord : Obligations.StepRunsFetchedWord := by
  refine ⟨fun s u ctx path rest => step_issue, ?_, ?_, ?_, ?_⟩
  · intro s v u t n packet slot more w i hr hc hd hu hp hh he
    obtain ⟨hvs, hvp⟩ := chainWord_keeps hc
    have hk : u = withKept i v := by
      rw [hu]
      cases hfirst : s.me.path.first with
      | none => exact (withKept_none (hvs.trans hfirst) i).symm
      | some r => exact (withKept_some (hvs.trans hfirst) i).symm
    subst hk
    have hword : prepare s = .word i (withKept i v) := by
      simp only [prepare, hr]
      refine issueHead_word hc hd (fun ht hdiv => ?_) hh
      rw [withKept_pend, hvp]
      exact hp ht hdiv
    rw [runWords_word hword he]
    exact ⟨fun h => by rw [h, if_neg Bool.false_ne_true], fun h => by rw [h, if_pos rfl]⟩
  · exact fun s u packet slot w hw hf => chainWord_fetch hw hf slot
  · intro s packet slot w hw
    refine ⟨chainWord_words hw packet slot, fun h => ?_, fun h => ?_⟩
    · simp only [packetNow, if_neg h, hw]
    · simp only [packetNow, if_pos h]
  · intro s u v ctx path rest w i hp ha hu hr hs hpend hpk hme hd hx hc hf hh
    refine ⟨?_, beginChain_run v u.me.path.pc, fun h => ?_, fun h => ?_⟩
    · have hword := prepare_lone hr rfl hs (by rw [hme]; exact hpend) hpk hd hx hc hf hh
      rw [step_issue hp ha hu, runWords_last hword (beginChain_run v u.me.path.pc)]
    · obtain ⟨h1, h2⟩ := beginChain_past (i := i) (w := w) (slot := u.me.path.slot) v u.me.path.pc
      rw [h1, h2, pastChain, if_pos h]
      exact ⟨rfl, rfl⟩
    · obtain ⟨h1, h2⟩ := beginChain_past (i := i) (w := w) (slot := u.me.path.slot) v u.me.path.pc
      rw [h1, h2, pastChain, if_neg (by omega)]
      exact ⟨rfl, rfl⟩

end Sys2Proof.Machine

end
